-- ==== Sys2Proof/Word.lean ====
section
/-! DEFINITION. The word types of the TZ960 and the finite map of plain data that holds what is sparse.
R9 of spec/00_scope.md fixes the units: a byte is 8 bits, a halfword 16, a word 32, a doubleword 64. -/

namespace Sys2Proof

abbrev Byte := BitVec 8
abbrev Half := BitVec 16
abbrev Word := BitVec 32
abbrev Dword := BitVec 64

/-- A finite map from natural keys to plain data, kept with its keys strictly rising and no entry equal to
the value an unlisted key reads as. -/
abbrev NMap (α : Type) := List (Nat × α)

end Sys2Proof
end

