-- ==== Sys2Proof/Syntax.lean ====
section
/-! DEFINITION. The commands of the block: one constructor of Instr for each row of spec/opcode_table.json,
with its operands. A command that is an instruction of a core names the group that executes it (Grp) and
the fields of its word (R95 of spec/04_instruction_set.md); a command that is an event of a unit names the
unit; a physical measurement, a received frame or a host's answer is an operand. -/

namespace Sys2Proof

/-- The group in group slot `slot` of core `core` of the cluster with logical number `cl` (R13, R58). -/
structure Grp where
  cl : Nat
  core : Nat
  slot : Nat
  deriving DecidableEq, Repr

/-- Operand B of a vector word: a vector register (BS = 0) or a scalar register (BS = 1) (R100). -/
inductive BSrc where
  | vec (vb : BitVec 7)
  | sca (sb : BitVec 4)
  deriving DecidableEq, Repr

/-- The vector integer members of R100 but ICMP, SEL and SHFL. -/
inductive VIntOp where
  | iadd | isub | iadds | isubs
  | imul16S | imul16U | imad16S | imad16U
  | imul | imad | imulhiS | imulhiU
  | and | or | xor
  | shl | shr | sar
  | minS | minU | maxS | maxU
  | clz | popc
  deriving DecidableEq, Repr

/-- The float formats the cores compute on (R32, R100). -/
inductive FFmt where
  | fp16 | bf16 | fp32 | fp64
  deriving DecidableEq, Repr

/-- The correctly rounded floating-point members of R100 and R104. -/
inductive FOp where
  | add | sub | mul | fma | min | max | abs | neg | div | sqrt
  deriving DecidableEq, Repr

/-- The estimate members of R105. -/
inductive EstOp where
  | rcp | rsq | exp2 | log2
  deriving DecidableEq, Repr

/-- What a vector compare compares: signed or unsigned integers, or a float format (R100, R102). -/
inductive CmpKind where
  | intS | intU | flt (f : FFmt)
  deriving DecidableEq, Repr

/-- PAND, POR, PXOR and PANDN (R109). -/
inductive PredOp where
  | pand | por | pxor | pandn
  deriving DecidableEq, Repr

/-- Widths of vector loads (R112). -/
inductive LdWidth where
  | u8 | s8 | u16 | s16 | w32 | w64 | w128
  deriving DecidableEq, Repr

/-- Widths of vector stores (R112). -/
inductive StWidth where
  | b8 | b16 | w32 | w64 | w128
  deriving DecidableEq, Repr

/-- The atomic members of R114. -/
inductive AtomOp where
  | add32 | minS32 | minU32 | maxS32 | maxU32 | and32 | or32 | xor32 | xchg32 | cas32
  | add64 | xchg64 | cas64 | addX128
  deriving DecidableEq, Repr

/-- The scalar arithmetic, logic, shift, compare and immediate members of R116. -/
inductive ScaOp where
  | sadd (sd sa sb : BitVec 4)
  | saddi (sd sa : BitVec 4) (imm : BitVec 16)
  | ssub (sd sa sb : BitVec 4)
  | smul (sd sa sb : BitVec 4)
  | sand (sd sa sb : BitVec 4)
  | sor (sd sa sb : BitVec 4)
  | sxor (sd sa sb : BitVec 4)
  | sshl (sd sa sb : BitVec 4)
  | sshr (sd sa sb : BitVec 4)
  | ssar (sd sa sb : BitVec 4)
  | scmpS (sd sa sb : BitVec 4) (cc : BitVec 3)
  | scmpU (sd sa sb : BitVec 4) (cc : BitVec 3)
  | smovi (sd : BitVec 4) (imm : BitVec 32)
  | slui (sd : BitVec 4) (imm : BitVec 16)
  | sori (sd sa : BitVec 4) (imm : BitVec 16)
  | sandi (sd sa : BitVec 4) (imm : BitVec 16)
  deriving DecidableEq, Repr

/-- What the host answers to a read of its memory: data, a completion with UR or CA (with the offset of the
first byte that failed), data with EP set (with the offset of the first poisoned byte), or nothing before
the completion timeout (R563). -/
inductive HostResult where
  | data (bytes : List (BitVec 8))
  | failed (off : Nat)
  | poisoned (bytes : List (BitVec 8)) (off : Nat)
  | timeout (off : Nat)
  deriving DecidableEq, Repr

/-- A request that the host makes of a BAR (R336), or a read of the PF's Vendor-Specific Extended Capability in its configuration
space (R500). -/
inductive BarAccess where
  | read | write | atomic | vsecRead
  deriving DecidableEq, Repr

/-- A request of a BAR: what it does, and of which BAR. -/
structure BarReq where
  kind : BarAccess
  bar : Nat
  deriving DecidableEq, Repr

/-- What a tester scans (R547-R549): the instruction, the levels of the lands and the bits shifted through the data register. -/
structure TapScan where
  op : BitVec 8
  lands : BitVec 1118 := 0
  tdi : List Bool := []
  deriving DecidableEq, Repr

/-- A PCIe AtomicOp (R174, R336). -/
inductive PcieAtomic where
  | fetchAdd | swap | cas
  deriving DecidableEq, Repr

/-- A 32-byte sector part carried by a coherence message: its place in the line, its byte mask and data (R279). -/
structure SecPart where
  sec : Nat
  mask : BitVec 32
  data : BitVec 256
  deriving DecidableEq, Repr

/-- What a request at a slice asks for (R277, R279, R280): the L1 messages with what they carry, an atomic, LDR or STC, an
uncached agent's read or write of so many sectors, or a maintenance activity that reads so many. -/
inductive SliceMsg where
  | rd (cl : Nat) (secs : BitVec 4)
  | own (cl : Nat) (carried : List SecPart)
  | evc (cl : Nat)
  | wb (cl : Nat) (secs : Nat)
  | atomic
  | read (secs : Nat)
  | write (secs : Nat)
  | maint (secs : Nat)
  deriving DecidableEq, Repr

/-- One request at a slice (R277): requester index, the partition it acts for if any, its line, what it asks for, and the
spine cycles it has waited. -/
structure SliceReq where
  requester : Nat
  part : Option Nat
  line : Nat
  msg : SliceMsg
  waited : Nat := 0
  deriving DecidableEq, Repr

/-- A slice operation of R284 that a slice performs for an agent other than a lane. -/
inductive SliceOp where
  | add32 (v : BitVec 32) | minS32 (v : BitVec 32) | minU32 (v : BitVec 32)
  | maxS32 (v : BitVec 32) | maxU32 (v : BitVec 32)
  | and32 (v : BitVec 32) | or32 (v : BitVec 32) | xor32 (v : BitVec 32) | xchg32 (v : BitVec 32)
  | cas32 (cmp new : BitVec 32)
  | add64 (v : BitVec 64) | xchg64 (v : BitVec 64) | cas64 (cmp new : BitVec 64)
  | addX128 (v : BitVec 128)
  | saddX128 (lo hi : BitVec 128)
  deriving DecidableEq, Repr

/-- The outer headers of a frame (R366): the Ethernet addresses, first byte least significant, and the bytes that follow them up
to the Rope header. -/
structure Outer where
  dst : BitVec 48
  src : BitVec 48
  rest : List (BitVec 8)
  deriving DecidableEq, Repr

/-- A Rope Transport frame as it stands on a wire: its outer headers, its 40-byte Rope header by fields (R367), its payload
and its tag (R368), first byte least significant. -/
structure Frame where
  fcsOk : Bool          -- FCS and FEC passed (check 1 of R372)
  outer : Outer
  ver : BitVec 4
  ftype : BitVec 4
  flags : BitVec 8
  len : BitVec 16
  jobId : BitVec 32
  srcId : BitVec 48
  txCtr : BitVec 48
  psn : BitVec 32
  collSeq : BitVec 32
  step : BitVec 16
  resv : BitVec 16      -- header bytes 30-31
  offset : BitVec 64
  payload : List (BitVec 8)
  tag : BitVec 64
  deriving DecidableEq, Repr

/-- What LINK_TRAIN finds on the wires (R363, R364): training result, PRBS31 lock within 1 s and kept, and
the pre-FEC error count of each lane. -/
structure TrainResult where
  trained : Bool
  locked : Bool
  laneErrors : List Nat
  deriving DecidableEq, Repr

/-- One lane's sweep result (R382, R383). -/
structure SweepLane where
  tEarly : BitVec 6
  tLate : BitVec 6
  vLo : BitVec 6
  vHi : BitVec 6
  points : Nat
  deriving DecidableEq, Repr

/-- The margins a channel measurement found (R319). -/
structure MarginRead where
  rdEarly : BitVec 6
  rdLate : BitVec 6
  rdVlo : BitVec 6
  rdVhi : BitVec 6
  wrEarly : BitVec 6
  wrLate : BitVec 6
  wrVlo : BitVec 6
  wrVhi : BitVec 6
  worstPin : BitVec 7
  vqLo : BitVec 3
  vqHi : BitVec 3
  deriving DecidableEq, Repr

/-- Who issued a voltage command (R444). -/
inductive VIssuer where
  | coldStart | clockSet | belay
  deriving DecidableEq, Repr

/-- What a regulator domain reports to a command's issuer (R444). -/
inductive VReport where
  | complete | superseded | refused
  deriving DecidableEq, Repr

/-- What asks for the fast step (R426, R467). -/
inductive FastSource where
  | regAlert | temperature
  deriving DecidableEq, Repr

/-- Measured power by class for one sustained update (R464, R465), in W: each leaf domain's power, the
power of spine, stacks, links with host port and conversion, and each partition's share of beats and
issues per leaf domain and of sectors, as numerator over denominator. -/
structure PowerSplit where
  leafMw : List Nat            -- VDD_LF domain power in units of 0.01 mW, d = 0-3
  spnW : Nat
  stkW : Nat
  fixedW : Nat                 -- links, host port and conversion
  activity : List (Nat × List Nat)   -- partition, its beats and issues in each leaf domain
  activityAll : List Nat       -- all partitions' beats and issues in each leaf domain
  sectors : List (Nat × Nat)   -- partition, 32-byte sectors admitted for it
  sectorsAll : Nat
  deriving DecidableEq, Repr

/-- The telemetry of one rail (R448, R449). -/
structure RailRead where
  rail : Nat
  ok : Bool                    -- a transaction succeeded within three retries
  fails : Nat                  -- failed transactions before that
  present : Bool
  isOn : Bool
  vout : BitVec 16
  iout : BitVec 16
  deriving DecidableEq, Repr

/-- The classes of vertical signal connections (R21). -/
inductive BondClass where
  | meshPort       -- vertical mesh ports of a site pair
  | passThrough    -- leaf U to the spine through leaf L
  | leafControl    -- leaf-to-leaf clock, control and test
  | leafSpine      -- leaf L to spine
  deriving DecidableEq, Repr

/-- A group of 33 vertical bonds in which the test of R24 found `failed` bonds open or of high resistance. -/
structure BondGroup where
  folio : Nat
  cls : BondClass
  index : Nat
  failed : Nat
  deriving DecidableEq, Repr

/-- What a cold-start step found when it finished (R485, R490, R24, R364). -/
structure StartResult where
  fusesOk : Bool := true                       -- step 1: a fuse-map copy passes
  failedDomains : List Nat := []               -- steps 2, 3: domains that failed soft start for good
  abortedDomains : List (Nat × Nat) := []      -- domains that came up after so many aborts
  bondFaults : List BondGroup := []            -- step 4: groups with a failed bond
  sramFail : Bool := false                     -- step 5: a slice fails beyond its repair
  stackFail : Bool := false                    -- step 5: R304
  margins : List (Nat × MarginRead) := []      -- step 5: channel, margins
  fwCrcOk : Bool × Bool := (true, true)        -- step 6: images A and B pass their CRC
  failedSites : List (Nat × Nat × Nat) := []   -- steps 5, 6: folio, x, y of positions whose cluster fails a test
  badSpares : List (Nat × Nat × Nat) := []     -- folio, gathering, spare k that fails its test
  linkResults : List (Nat × TrainResult) := [] -- step 7
  deriving DecidableEq, Repr

/-- The components of PLDM Firmware Update (R487). -/
inductive FwComponent where
  | mgt | fw | config
  deriving DecidableEq, Repr

/-- An image or configuration copy as PLDM writes it (R487, R488). -/
structure FwImage where
  crcOk : Bool
  alive : Bool := true        -- a management image reports alive within 150 ms of its boot
  build : BitVec 32
  activeMgt : Bool            -- configuration: false A, true B
  activeFw : Bool
  linkModes : List Nat        -- configuration: 64 bytes of 0, 1 or 2
  deriving DecidableEq, Repr

/-- One access that waited in a crossing (R432). -/
structure HangAccess where
  write : Bool
  offset : BitVec 26
  domain : Nat
  requester : Nat             -- 0 context, 1 host BAR0, 2 host BAR4, 3 command processor, 4 observation path
  group : Option Grp
  queue : Option (Nat × Nat)  -- function and queue of the command that issued it
  deriving DecidableEq, Repr

/-- A transfer of a link that carries a flit: header, payload and one parity bit for each payload byte (R189, R190). -/
structure Flit where
  hdr : BitVec 32
  payload : BitVec 256
  par : BitVec 32
  deriving DecidableEq, Repr

/-- A rope record (R399) as it comes in the payload of a DATA frame of link `link`. -/
structure RopeRec where
  link : Nat
  epoch : BitVec 64
  mepoch : BitVec 64
  seq : BitVec 32
  arg : BitVec 64
  resvOk : Bool
  data : List (BitVec 8)
  deriving DecidableEq, Repr

inductive Instr where
  -- vector path
  | vectorIntegerArithmetic (g : Grp) (op : VIntOp) (vd va : BitVec 7) (b : BSrc) (pg : BitVec 3)
  | sel (g : Grp) (vd va : BitVec 7) (b : BSrc) (ps : BitVec 3)
  | shfl (g : Grp) (vd va : BitVec 7) (b : BSrc) (pg : BitVec 3)
  | vectorCompare (g : Grp) (k : CmpKind) (cc pd : BitVec 3) (va : BitVec 7) (b : BSrc) (pg : BitVec 3)
  | floatingPointMember (g : Grp) (f : FFmt) (op : FOp) (vd va : BitVec 7) (b : BSrc) (pg : BitVec 3)
  | rcpRsqExp2Log2 (g : Grp) (op : EstOp) (vd va : BitVec 7) (pg : BitVec 3)
  | vcvt (g : Grp) (vd va : BitVec 7) (pg : BitVec 3) (ext : BitVec 32)
  | vbcast (g : Grp) (vd : BitVec 7) (sb : BitVec 4) (pg : BitVec 3)
  | vlane (g : Grp) (vd : BitVec 7) (pg : BitVec 3)
  | vmovi (g : Grp) (vd : BitVec 7) (imm : BitVec 32) (pg : BitVec 3)
  | predicateOperation (g : Grp) (op : PredOp) (pd pa pb : BitVec 3)
  | pset (g : Grp) (pd : BitVec 3) (sa : BitVec 4)
  | pget (g : Grp) (sd : BitVec 4) (pa : BitVec 3)
  | vtos (g : Grp) (sd : BitVec 4) (va : BitVec 7) (k : BitVec 3)
  -- control flow
  | nop (g : Grp)
  | jmp (g : Grp) (off : BitVec 24)
  | br (g : Grp) (nz : Bool) (sc : BitVec 4) (off : BitVec 20)
  | brd (g : Grp) (p : BitVec 3) (t : BitVec 10) (j : BitVec 11)
  | call (g : Grp) (lp : BitVec 3) (off : BitVec 21)
  | callr (g : Grp) (lp tp : BitVec 3)
  | ret (g : Grp) (tp : BitVec 3)
  | exit (g : Grp) (pg : BitVec 3)
  | bar (g : Grp) (n : BitVec 2)
  | fence (g : Grp) (scope kind : BitVec 2)
  -- vector memory
  | ldg (g : Grp) (w : LdWidth) (vd va : BitVec 7) (sp pg : BitVec 3)
  | stg (g : Grp) (w : StWidth) (vd va : BitVec 7) (sp pg : BitVec 3)
  | lds (g : Grp) (w : LdWidth) (vd va : BitVec 7) (sp pg : BitVec 3)
  | sts (g : Grp) (w : StWidth) (vd va : BitVec 7) (sp pg : BitVec 3)
  | ldr (g : Grp) (wide : Bool) (vd va : BitVec 7) (sp pg : BitVec 3)
  | stc (g : Grp) (wide : Bool) (vd va : BitVec 7) (sp pg : BitVec 3)
  | atom (g : Grp) (op : AtomOp) (vd va : BitVec 7) (sp pg : BitVec 3)
  -- scalar path
  | scalarArithmetic (g : Grp) (op : ScaOp)
  | sldg (g : Grp) (sd : BitVec 4) (sp : BitVec 3) (imm : BitVec 16)
  | sstg (g : Grp) (sd : BitVec 4) (sp : BitVec 3) (imm : BitVec 16)
  | slds (g : Grp) (sd : BitVec 4) (sp : BitVec 3) (imm : BitVec 16)
  | ssts (g : Grp) (sd : BitVec 4) (sp : BitVec 3) (imm : BitVec 16)
  | sread (g : Grp) (sd : BitVec 4) (srn : BitVec 8)
  | swrite (g : Grp) (sa : BitVec 4) (srn : BitVec 8)
  -- asynchronous
  | mxaInit (g : Grp) (sa : BitVec 4) (f : BitVec 12)
  | mxaMma (g : Grp) (sa sb sc : BitVec 4) (ext : BitVec 32)
  | mxaStore (g : Grp) (sa sb : BitVec 4)
  | mxaWait (g : Grp) (n : BitVec 4)
  | tdCreate (g : Grp) (sa sb : BitVec 4)
  | tdLoad (g : Grp) (sa sb sc : BitVec 4)
  | tdStore (g : Grp) (sa sb sc : BitVec 4)
  | tdFree (g : Grp) (sa : BitVec 4)
  | tdWait (g : Grp) (n : BitVec 4)
  | cbLoad (g : Grp) (sa : BitVec 4) (f : BitVec 12)
  | redPut (g : Grp) (sa sb sc : BitVec 4)
  | redAcc (g : Grp) (sa : BitVec 4)
  | redWait (g : Grp) (n : BitVec 4)
  -- blocks, contexts, faults
  | blockAdmission (cl : Nat)
  | scratchZeroingEnd (cl bslot : Nat)
  | blockRelease (cl bslot : Nat)
  | contextCompletion (p ctx : Nat)
  | faultEvent (p : Nat)
  -- matrix array
  | arrayTakeInstruction (cl : Nat)
  | chainBecomesCurrent (cl : Nat)
  | multiplyPass (cl : Nat)
  | deferredScan (cl : Nat)
  | drainMove (cl : Nat)
  | chainCheck (cl : Nat)
  | storePath (cl : Nat)
  | chainComplete (cl : Nat)
  -- reduction roots
  | fabricArrival (cl stream : Nat)
  | rootAdd (cl slot : Nat)
  | rootOperationComplete (cl slot : Nat)
  -- fabric
  | fixedLineSlot (site cycle : Nat)
  | scheduleStart (p cycle : Nat)
  | arbitratedFlitArrival (site port : Nat) (f : Flit)
  | packetAged (site n : Nat)
  -- spine cache
  | spineFrameStart
  | sliceAdmission (arbiter : Nat) (cycle : Nat) (arrived : List SliceReq)
  | rd (cl line : Nat) (secs : BitVec 4)
  | own (cl line : Nat) (carried : List SecPart)
  | evc (cl line : Nat)
  | wb (cl line : Nat)
  | inv (cl line : Nat)
  | rcl (cl line : Nat)
  | rcli (cl line : Nat)
  | invalidationAcknowledgement (line cl : Nat)
  | sliceAtomic (addr : Nat) (op : SliceOp)
  | uncachedRead (addr len : Nat)
  | uncachedWrite (addr : Nat) (data : List (BitVec 8))
  | sliceScrub (slice : Nat)
  | dataLost (slice : Nat)
  -- stacks
  | dramSectorRead (addr : Nat)
  | dramSectorWrite (addr : Nat) (data : BitVec 256) (poison : Bool)
  | correctedWriteback (chan : Nat)
  | channelScrub (chan : Nat)
  | temperatureReadout (stack : Nat) (temp : Int)
  | perBankRefresh (chan bank : Nat)
  -- near-bank units
  | nbuModeEnter (chan p : Nat) (version : BitVec 4)
  | nbuModeExit (chan p : Nat)
  | nbuDoorbell (chan p size : Nat) (val : BitVec 64)
  | nbuNop (chan : Nat)
  | gather (chan : Nat)
  | gatherSum (chan : Nat)
  | scatterAdd (chan : Nat)
  | select (chan : Nat)
  | topk (chan : Nat)
  | ewise (chan : Nat)
  | nbuFill (chan : Nat)
  | nearBankCommandComplete (chan : Nat)
  -- host port
  | bar0AccessUnsupported (f off size : Nat) (req : BarReq)
  | registerWrite (f off size : Nat) (val : BitVec 64)
  | capturingRead (f off size : Nat)
  | obsPeekDataRead (f port size half : Nat)
  | bar4Read (f off len : Nat)
  | bar4Write (f off : Nat) (data : List (BitVec 8))
  | bar4Atomicop (f off : Nat) (op : PcieAtomic) (size : Nat) (a b : BitVec 64)
  | poisonedWriteTlp (f bar : Nat)
  | functionLevelReset (v : Nat)
  | hotReset
  | hostWindowCompletion (id : Nat) (r : HostResult)
  | completionTimeout (id : Nat)
  | queueOpen (f q : Nat) (ctrl : BitVec 64)
  | queueClose (f q : Nat)
  | sqTail (f q : Nat) (val : BitVec 32)
  | cqHead (f q : Nat) (val : BitVec 32)
  | commandFetch (r : Option HostResult)
  | statusReply (f q : Nat)
  -- host commands
  | nopCommand (f q : Nat)
  | query (f q : Nat)
  | timeSyncRead (f q : Nat)
  | timeSyncStep (f q : Nat)
  | timeSyncSlew (f q : Nat)
  | launch (f q : Nat)
  | codeWrite (f q : Nat)
  | copy (f q : Nat)
  | fill (f q : Nat)
  | anchor (f q : Nat)
  | unanchor (f q : Nat)
  | freeze (f q : Nat)
  | freezeDeadline (p : Nat)
  | partReset (f q : Nat)
  | schedLoad (f q : Nat)
  | schedStart (f q : Nat)
  | schedStop (f q : Nat)
  | partCreate (f q : Nat)
  | partDestroy (f q : Nat)
  | partShares (f q : Nat)
  | allocSet (f q : Nat)
  | regionSet (f q : Nat)
  | rawSet (f q : Nat)
  | anchorWaysSet (f q : Nat)
  | remap (f q : Nat)
  | scrubSet (f q : Nat)
  | stackMargin (f q : Nat) (m : List (Nat × MarginRead))
  | clockSet (f q : Nat)
  | powerSet (f q : Nat)
  | linkConfig (f q : Nat)
  | linkTrain (f q : Nat) (r : TrainResult)
  | linkDown (f q : Nat)
  | linkSweep (f q : Nat) (locked : Bool) (lanes : List SweepLane)
  | keySet (f q : Nat)
  | collective (f q : Nat)
  | collectiveComplete (engine : Nat)
  | ropeForm (f q : Nat)
  | ropeMirror (f q : Nat) (secondRefuses : Bool)
  | ropeFailover (f q : Nat)
  | ropeDissolve (f q : Nat)
  | obsConfig (f q : Nat)
  | clpRead (f q : Nat)
  -- links
  | data (l : Nat) (fr : Frame)
  | start (l : Nat) (fr : Frame)
  | ack (l : Nat) (fr : Frame)
  | cnp (l : Nat) (fr : Frame)
  | hello (l : Nat) (fr : Frame)
  | echo (l : Nat) (fr : Frame)
  | ackTimer (l : Nat)
  | retransmissionTimeout (l : Nat) (psn : BitVec 32)
  | rateIncrease (l : Nat)
  | helloTimer (l : Nat)
  | echoTimer (l : Nat)
  | berEstimate (l : Nat) (lanes : List (Nat × Nat))
  | lossOfPhyLock (l : Nat)
  -- roped pair
  | form (r : RopeRec)
  | page (r : RopeRec)
  | journal (r : RopeRec)
  | state (r : RopeRec)
  | endRecord (r : RopeRec)
  | ropeAck (r : RopeRec)
  | beat (r : RopeRec)
  | dissolve (r : RopeRec)
  | formTimer
  | beatTimer (l : Nat)
  | cut
  | epochApply
  | ackOverdue
  | ropeResend (l : Nat)
  -- clocks and power
  | slewComplete (d : Nat)
  | voltageCommand (d : Nat) (code : BitVec 9) (who : VIssuer)
  | fastStep (src : FastSource) (on : Bool)
  | timeBaseCorrection
  | crossingTimeout (a : HangAccess)
  | shortDetected (d : Nat)
  | retryWaitExpiry (d : Nat)
  | inServiceShort (d : Nat)
  | droopSample (d : Nat) (readings : List (Nat × BitVec 9)) (stuck : List Nat)
  | bondWindow (d : Nat) (currentVaries : Bool) (drops : List (Nat × Nat × Nat))
  | telemetryPoll (reads : List RailRead)
  | pmbAlertN (r : Nat) (status : BitVec 16) (outputOff : Bool)
  | railLoss (r : Nat)
  | powerMeasurement (currentMa : Nat)
  | sustainedUpdate (m : PowerSplit)
  | holdLevelStep (measured : List Nat)
  | fastLimiterStep
  | powerCeilingLower
  | powerCeilingRaise
  | regAlertN (ns : Nat)
  | regAlertRelease
  -- thermal
  | thermalSample (readings : List (Nat × Int)) (stuck : List Nat) (halfPowerMw : List Nat)
  | thermalCeilingLower
  | thermalCeilingRaise
  | tripDiodeSample (readings : List (Nat × Int))
  | tripRestart
  -- reset and start
  | powerOn
  | rstN (ns : Nat) (high : Bool)
  | coldStart
  | coldStartStepComplete (r : StartResult)
  | stepDeadline
  | failedStartRetry
  | exitBaseCamp
  | baseCampExit
  | pldmFirmwareUpdate (c : FwComponent) (img : FwImage)
  | activateFirmware (c : FwComponent) (alive : Bool)
  | mgtAliveTimeout
  | pwrFailN (ns : Nat)
  | powerFailRestart
  | refclkLoss (ns : Nat)
  | colophonCommit
  | colophonEraseDone
  -- observation, boundary scan
  | counterAggregation
  | traceRecord
  | tapInstruction (scan : TapScan)
  | illegalInstruction (g : Grp) (w ext : BitVec 32)
  | liveBitsRead (f off size : Nat)
  | vddAuxLoss
  deriving DecidableEq, Repr

end Sys2Proof
end

