-- ==== Sys2Proof/Decode.lean ====
section
/-! DEFINITION. The command that a word of the opcode table spells, and the core instruction that a word of code
spells (spec/04_instruction_set.md R94-R120). spec/opcode_table.json gives no row any bits, so no word of it spells a
command; the words of code are decoded from the formats and member tables of the chapter, and every reserved opcode
or non-zero reserved field is refused (R96). -/

namespace Sys2Proof

/-- No row of spec/opcode_table.json gives bits. -/
def decodeTableWord (_nbits _w : Nat) : Option Instr := none

/-- Bits [hi:lo] of a word. -/
def fieldOf (w : BitVec 32) (lo n : Nat) : BitVec n := (w >>> lo).setWidth n

/-- Whether bits [lo+n-1:lo] of a word are zero. -/
def zeroAt (w : BitVec 32) (lo n : Nat) : Bool := (w.toNat >>> lo) % 2 ^ n == 0

/-- Operand B of formats V and VC (R95): none where a reserved bit is set. -/
def decodeB (w : BitVec 32) : Option BSrc :=
  if w.getLsbD 24 then if zeroAt w 3 3 then some (.sca (fieldOf w 6 4)) else none
  else some (.vec (fieldOf w 3 7))

/-- The vector integer member with the even opcode `n` (R100), ICMP, SEL and SHFL apart. -/
def intMember (n : Nat) : Option VIntOp :=
  match n with
  | 0x00 => some .iadd | 0x02 => some .isub | 0x04 => some .iadds | 0x06 => some .isubs
  | 0x08 => some .imul16S | 0x0A => some .imul16U | 0x0C => some .imad16S | 0x0E => some .imad16U
  | 0x10 => some .imul | 0x12 => some .imad | 0x14 => some .imulhiS | 0x16 => some .imulhiU
  | 0x18 => some .and | 0x1A => some .or | 0x1C => some .xor
  | 0x1E => some .shl | 0x20 => some .shr | 0x22 => some .sar
  | 0x24 => some .minS | 0x26 => some .minU | 0x28 => some .maxS | 0x2A => some .maxU
  | 0x2C => some .clz | 0x2E => some .popc
  | _ => none

/-- The floating-point member with the even opcode `n` (R100), the compares and the estimates apart. -/
def floatMember (n : Nat) : Option (FFmt × FOp) :=
  match n with
  | 0x38 => some (.fp16, .add) | 0x3A => some (.fp16, .sub) | 0x3C => some (.fp16, .mul) | 0x3E => some (.fp16, .fma)
  | 0x40 => some (.fp16, .min) | 0x42 => some (.fp16, .max)
  | 0x46 => some (.bf16, .add) | 0x48 => some (.bf16, .sub) | 0x4A => some (.bf16, .mul) | 0x4C => some (.bf16, .fma)
  | 0x4E => some (.bf16, .min) | 0x50 => some (.bf16, .max)
  | 0x54 => some (.fp32, .add) | 0x56 => some (.fp32, .sub) | 0x58 => some (.fp32, .mul) | 0x5A => some (.fp32, .fma)
  | 0x5C => some (.fp32, .min) | 0x5E => some (.fp32, .max)
  | 0x62 => some (.fp32, .abs) | 0x64 => some (.fp32, .neg)
  | 0x6E => some (.fp32, .div) | 0x70 => some (.fp32, .sqrt)
  | 0x72 => some (.fp64, .add) | 0x74 => some (.fp64, .sub) | 0x76 => some (.fp64, .mul) | 0x78 => some (.fp64, .fma)
  | 0x7C => some (.fp64, .div) | 0x7E => some (.fp64, .sqrt)
  | _ => none

/-- The compare with the even opcode `n` (R100). -/
def compareMember (n : Nat) : Option CmpKind :=
  match n with
  | 0x30 => some .intS | 0x32 => some .intU
  | 0x44 => some (.flt .fp16) | 0x52 => some (.flt .bf16) | 0x60 => some (.flt .fp32) | 0x7A => some (.flt .fp64)
  | _ => none

/-- The estimate with the opcode `n` (R100, R105). -/
def estimateMember (n : Nat) : Option EstOp :=
  match n with
  | 0x66 => some .rcp | 0x68 => some .rsq | 0x6A => some .exp2 | 0x6C => some .log2
  | _ => none

/-- The members that are unary (R100, R101). -/
def unaryMember (n : Nat) : Bool :=
  n ∈ [0x2C, 0x2E, 0x62, 0x64, 0x66, 0x68, 0x6A, 0x6C, 0x70, 0x7E]

/-- The vector arithmetic members, 0x00-0x7F (R100, R101). -/
def decodeVector (g : Grp) (opc : Nat) (w : BitVec 32) : Option Instr :=
  let n := opc / 2 * 2
  let vd : BitVec 7 := fieldOf w 17 7
  let va : BitVec 7 := fieldOf w 10 7
  let pg : BitVec 3 := fieldOf w 0 3
  if unaryMember n && (opc % 2 == 1 || !zeroAt w 3 7) then none
  else match decodeB w with
    | none => none
    | some b =>
      match compareMember n with
      | some k => if w.getLsbD 20 then none else some (.vectorCompare g k (fieldOf w 21 3) (fieldOf w 17 3) va b pg)
      | none =>
        match intMember n with
        | some op => some (.vectorIntegerArithmetic g op vd va b pg)
        | none =>
          match floatMember n with
          | some (f, op) => some (.floatingPointMember g f op vd va b pg)
          | none =>
            match estimateMember n with
            | some op => some (.rcpRsqExp2Log2 g op vd va pg)
            | none =>
              if n = 0x34 then some (.sel g vd va b pg)
              else if n = 0x36 then some (.shfl g vd va b pg)
              else none

/-- The width of the vector load `n` of LDG and LDS (R112). -/
def loadMember (n : Nat) : Option LdWidth :=
  match n with
  | 0 => some .u8 | 1 => some .s8 | 2 => some .u16 | 3 => some .s16 | 4 => some .w32 | 5 => some .w64 | 6 => some .w128
  | _ => none

/-- The width of the vector store `n` of STG and STS (R112). -/
def storeMember (n : Nat) : Option StWidth :=
  match n with
  | 0 => some .b8 | 1 => some .b16 | 2 => some .w32 | 3 => some .w64 | 4 => some .w128
  | _ => none

/-- The atomic member with the opcode 0xA0 + `n` (R114). -/
def atomMember (n : Nat) : Option AtomOp :=
  match n with
  | 0 => some .add32 | 1 => some .minS32 | 2 => some .minU32 | 3 => some .maxS32 | 4 => some .maxU32
  | 5 => some .and32 | 6 => some .or32 | 7 => some .xor32 | 8 => some .xchg32 | 9 => some .cas32
  | 10 => some .add64 | 11 => some .xchg64 | 12 => some .cas64 | 13 => some .addX128
  | _ => none

/-- The vector memory and atomic members, 0x80-0xAF, of format M (R112, R114). -/
def decodeMemory (g : Grp) (opc : Nat) (w : BitVec 32) : Option Instr :=
  let vd : BitVec 7 := fieldOf w 17 7
  let va : BitVec 7 := fieldOf w 10 7
  let sp : BitVec 3 := fieldOf w 7 3
  let pg : BitVec 3 := fieldOf w 0 3
  if !zeroAt w 3 4 then none
  else if opc = 0x87 then some (.ldr g false vd va sp pg)
  else if opc = 0x8E then some (.ldr g true vd va sp pg)
  else if opc = 0x8D then some (.stc g false vd va sp pg)
  else if opc = 0x8F then some (.stc g true vd va sp pg)
  else if opc < 0x88 then (loadMember (opc - 0x80)).map fun x => .ldg g x vd va sp pg
  else if opc < 0x90 then (storeMember (opc - 0x88)).map fun x => .stg g x vd va sp pg
  else if opc < 0x98 then (loadMember (opc - 0x90)).map fun x => .lds g x vd va sp pg
  else if opc < 0xA0 then (storeMember (opc - 0x98)).map fun x => .sts g x vd va sp pg
  else (atomMember (opc - 0xA0)).map fun x => .atom g x vd va sp pg

/-- The conversions, moves and predicate members, 0xB0-0xBA (R107, R109). -/
def decodeMove (g : Grp) (opc : Nat) (w ext : BitVec 32) : Option Instr :=
  let vd : BitVec 7 := fieldOf w 17 7
  let pg : BitVec 3 := fieldOf w 0 3
  let pred (op : PredOp) : Option Instr :=
    if zeroAt w 0 15 then some (.predicateOperation g op (fieldOf w 21 3) (fieldOf w 18 3) (fieldOf w 15 3)) else none
  match opc with
  | 0xB0 => if zeroAt w 3 7 then some (.vcvt g vd (fieldOf w 10 7) pg ext) else none
  | 0xB1 => if zeroAt w 10 7 && zeroAt w 3 3 then some (.vbcast g vd (fieldOf w 6 4) pg) else none
  | 0xB2 => if zeroAt w 3 14 then some (.vlane g vd pg) else none
  | 0xB3 => if zeroAt w 3 14 then some (.vmovi g vd ext pg) else none
  | 0xB4 => pred .pand
  | 0xB5 => pred .por
  | 0xB6 => pred .pxor
  | 0xB7 => pred .pandn
  | 0xB8 => if zeroAt w 20 1 && zeroAt w 0 16 then some (.pset g (fieldOf w 21 3) (fieldOf w 16 4)) else none
  | 0xB9 => if zeroAt w 0 17 then some (.pget g (fieldOf w 20 4) (fieldOf w 17 3)) else none
  | 0xBA => if zeroAt w 17 3 && zeroAt w 3 7 then some (.vtos g (fieldOf w 20 4) (fieldOf w 10 7) pg) else none
  | _ => none

/-- The scalar members, 0xC0-0xD5 (R116). -/
def decodeScalar (g : Grp) (opc : Nat) (w ext : BitVec 32) : Option Instr :=
  let sd : BitVec 4 := fieldOf w 20 4
  let sa : BitVec 4 := fieldOf w 16 4
  let sb : BitVec 4 := fieldOf w 12 4
  let cc : BitVec 3 := fieldOf w 9 3
  let imm : BitVec 16 := fieldOf w 0 16
  let sp : BitVec 3 := fieldOf w 17 3
  let plain (op : ScaOp) : Option Instr := if zeroAt w 0 12 then some (.scalarArithmetic g op) else none
  match opc with
  | 0xC0 => plain (.sadd sd sa sb)
  | 0xC1 => some (.scalarArithmetic g (.saddi sd sa imm))
  | 0xC2 => plain (.ssub sd sa sb)
  | 0xC3 => plain (.smul sd sa sb)
  | 0xC4 => plain (.sand sd sa sb)
  | 0xC5 => plain (.sor sd sa sb)
  | 0xC6 => plain (.sxor sd sa sb)
  | 0xC7 => plain (.sshl sd sa sb)
  | 0xC8 => plain (.sshr sd sa sb)
  | 0xC9 => plain (.ssar sd sa sb)
  | 0xCA => if zeroAt w 0 9 then some (.scalarArithmetic g (.scmpS sd sa sb cc)) else none
  | 0xCB => if zeroAt w 0 9 then some (.scalarArithmetic g (.scmpU sd sa sb cc)) else none
  | 0xCC => if zeroAt w 0 20 then some (.scalarArithmetic g (.smovi sd ext)) else none
  | 0xCD => if zeroAt w 16 4 then some (.scalarArithmetic g (.slui sd imm)) else none
  | 0xCE => some (.scalarArithmetic g (.sori sd sa imm))
  | 0xCF => some (.scalarArithmetic g (.sandi sd sa imm))
  | 0xD0 => if zeroAt w 16 1 then some (.sldg g sd sp imm) else none
  | 0xD1 => if zeroAt w 16 1 then some (.sstg g sd sp imm) else none
  | 0xD2 => if zeroAt w 16 1 then some (.slds g sd sp imm) else none
  | 0xD3 => if zeroAt w 16 1 then some (.ssts g sd sp imm) else none
  | 0xD4 => if zeroAt w 8 12 then some (.sread g sd (fieldOf w 0 8)) else none
  | 0xD5 => if zeroAt w 20 4 && zeroAt w 8 8 then some (.swrite g sa (fieldOf w 0 8)) else none
  | _ => none

/-- The control members, 0xE0-0xEA (R110, R113). -/
def decodeControl (g : Grp) (opc : Nat) (w : BitVec 32) : Option Instr :=
  match opc with
  | 0xE0 => if zeroAt w 0 24 then some (.nop g) else none
  | 0xE1 => some (.jmp g (fieldOf w 0 24))
  | 0xE2 => some (.br g false (fieldOf w 20 4) (fieldOf w 0 20))
  | 0xE3 => some (.br g true (fieldOf w 20 4) (fieldOf w 0 20))
  | 0xE4 => some (.brd g (fieldOf w 21 3) (fieldOf w 11 10) (fieldOf w 0 11))
  | 0xE5 => some (.call g (fieldOf w 21 3) (fieldOf w 0 21))
  | 0xE6 => if zeroAt w 0 18 then some (.callr g (fieldOf w 21 3) (fieldOf w 18 3)) else none
  | 0xE7 => if zeroAt w 21 3 && zeroAt w 0 18 then some (.ret g (fieldOf w 18 3)) else none
  | 0xE8 => if zeroAt w 3 21 then some (.exit g (fieldOf w 0 3)) else none
  | 0xE9 => if zeroAt w 2 22 then some (.bar g (fieldOf w 0 2)) else none
  | 0xEA => if zeroAt w 0 20 then some (.fence g (fieldOf w 22 2) (fieldOf w 20 2)) else none
  | _ => none

/-- The asynchronous members, 0xF0-0xFC, of format A (R118). The fields that no member of the opcode reads must be
zero; a field whose use depends on another (SA of MXA.INIT, the bits of F of CB.LOAD) is looked at by the meaning. -/
def decodeAsync (g : Grp) (opc : Nat) (w ext : BitVec 32) : Option Instr :=
  let sa : BitVec 4 := fieldOf w 20 4
  let sb : BitVec 4 := fieldOf w 16 4
  let sc : BitVec 4 := fieldOf w 12 4
  let f : BitVec 12 := fieldOf w 0 12
  match opc with
  | 0xF0 => if zeroAt w 12 8 then some (.mxaInit g sa f) else none
  | 0xF1 => if zeroAt w 0 12 then some (.mxaMma g sa sb sc ext) else none
  | 0xF2 => if zeroAt w 0 16 then some (.mxaStore g sa sb) else none
  | 0xF3 => if zeroAt w 4 20 then some (.mxaWait g (fieldOf w 0 4)) else none
  | 0xF4 => if zeroAt w 0 16 then some (.tdCreate g sa sb) else none
  | 0xF5 => if zeroAt w 0 12 then some (.tdLoad g sa sb sc) else none
  | 0xF6 => if zeroAt w 0 12 then some (.tdStore g sa sb sc) else none
  | 0xF7 => if zeroAt w 0 20 then some (.tdFree g sa) else none
  | 0xF8 => if zeroAt w 4 20 then some (.tdWait g (fieldOf w 0 4)) else none
  | 0xF9 => if zeroAt w 12 8 then some (.cbLoad g sa f) else none
  | 0xFA => if zeroAt w 0 12 then some (.redPut g sa sb sc) else none
  | 0xFB => if zeroAt w 0 20 then some (.redAcc g sa) else none
  | 0xFC => if zeroAt w 4 20 then some (.redWait g (fieldOf w 0 4)) else none
  | _ => none

/-- The instruction that the word `w` of code spells, with `ext` the word after it (R95, R96): none for a reserved
opcode and for a reserved field that is not zero. -/
def decodeCore (g : Grp) (w ext : BitVec 32) : Option Instr :=
  let opc := w.toNat >>> 24
  if opc < 0x80 then decodeVector g opc w
  else if opc < 0xB0 then decodeMemory g opc w
  else if opc < 0xC0 then decodeMove g opc w ext
  else if opc < 0xE0 then decodeScalar g opc w ext
  else if opc < 0xF0 then decodeControl g opc w
  else decodeAsync g opc w ext

end Sys2Proof
end

