-- ==== Sys2Proof/Config.lean ====
section
/-! DEFINITION. What the spec leaves open: free values. Each is an opaque constant with no body, so that nothing
can be proved about its value; notes/assumptions/ names each one. -/

namespace Sys2Proof

/-- The index a conversion to a codebook format selects when every entry of the table is a NaN and the source
is a number: R108 states none. A function of the source's bits. -/
opaque Config.codebookNoEntry : Nat → Nat

/-- A fresh free bit for each value of State.freeCtr, where the spec says that an event may or may not happen. -/
opaque Config.freeBool : Nat → Bool

/-- A fresh free number for each value of State.freeCtr, where the spec leaves a value or an order open. -/
opaque Config.freeNat : Nat → Nat

/-- A byte of a codebook whose contents have been lost (R46): by the number of the loss and the byte's place. -/
opaque Config.lostCodebook : Nat → Nat → BitVec 8

/-- Bits 31:16 of the first word of the Vendor-Specific Extended Capability of R500: its capability version and the offset of the
next capability, which the spec does not give. -/
opaque Config.vsecNext : BitVec 16

/-- The code of R438 in PWR_VF[n], fused in each device (R439, R455): kind 0 VDD_LF, 1 VDDA_LF, 2 VDD_SPN, 3 VDDA_SPN. -/
opaque Config.vfCode : Nat → Nat → BitVec 9

/-- PARTNER (6 bits), ALPHA (8 bits) and BETA (10 bits) of leaf L sensor n, fused in each device (R471, R479). -/
opaque Config.thmFuse : Nat → BitVec 24

/-- The output current of a regulator domain that a reading finds, in units of 0.1 A: a physical quantity. By domain and
State.freeCtr. -/
opaque Config.domCurrent : Nat → Nat → Nat

end Sys2Proof
end

