-- ==== Sys2Proof/Machine/Map.lean ====
section
/-! DEFINITION. Finite maps of plain data (NMap) and byte memories: the operations that keep a map in its one
canonical form (keys strictly rising, no entry equal to what an unlisted key reads as). -/

namespace Sys2Proof

/-- What key `k` holds: its entry, else the value `d` of an unlisted key. -/
def NMap.get {α : Type} (d : α) : NMap α → Nat → α
  | [], _ => d
  | (j, v) :: m, k => if j = k then v else NMap.get d m k

/-- `m` without key `k`. -/
def NMap.drop {α : Type} (m : NMap α) (k : Nat) : NMap α := m.filter fun e => e.1 ≠ k

/-- The pair (k, v) put in its place among rising keys. -/
def NMap.put {α : Type} (v : α) (k : Nat) : NMap α → NMap α
  | [] => [(k, v)]
  | (j, w) :: m => if k < j then (k, v) :: (j, w) :: m else (j, w) :: NMap.put v k m

/-- `m` with key `k` holding `v`; an entry equal to the unlisted value is not listed. -/
def NMap.set {α : Type} [DecidableEq α] (d : α) (m : NMap α) (k : Nat) (v : α) : NMap α :=
  if v = d then NMap.drop m k else NMap.put v k (NMap.drop m k)

/-- Every listed key above `lo`, strictly rising, and no entry equal to `d`. -/
def NMap.wfFrom {α : Type} [DecidableEq α] (d : α) : Option Nat → NMap α → Bool
  | _, [] => true
  | lo, (j, w) :: m => (match lo with | none => true | some l => decide (l < j)) && decide (w ≠ d) && NMap.wfFrom d (some j) m

/-- The canonical form of a map. -/
def NMap.wf {α : Type} [DecidableEq α] (d : α) (m : NMap α) : Bool := NMap.wfFrom d none m

/-- The listed keys whose value satisfies `p`, in increasing order. -/
def NMap.keysWhere {α : Type} (p : Nat → α → Bool) (m : NMap α) : List Nat :=
  (m.filter fun kv => p kv.1 kv.2).map Prod.fst

/-- Every listed entry changed by `f`; an entry that becomes equal to `d` is dropped. -/
def NMap.mapVals {α : Type} [DecidableEq α] (d : α) (f : Nat → α → α) (m : NMap α) : NMap α :=
  (m.map fun kv => (kv.1, f kv.1 kv.2)).filter fun kv => kv.2 ≠ d

/-- A memory of bytes: what is not listed reads 0. -/
abbrev ByteMap := NMap Byte

/-- The byte at an address. -/
def ByteMap.get (m : ByteMap) (a : Nat) : Byte := NMap.get 0#8 m a

/-- The memory with one byte written. -/
def ByteMap.set (m : ByteMap) (a : Nat) (b : Byte) : ByteMap := NMap.set 0#8 m a b

/-- The canonical form of a byte memory. -/
def ByteMap.wf (m : ByteMap) : Bool := NMap.wf 0#8 m

/-- `n` bytes from address `a` on. -/
def ByteMap.read (m : ByteMap) (a : Nat) : Nat → List Byte
  | 0 => []
  | n + 1 => ByteMap.get m a :: ByteMap.read m (a + 1) n

/-- The bytes written from address `a` on. -/
def ByteMap.write (m : ByteMap) (a : Nat) : List Byte → ByteMap
  | [] => m
  | b :: bs => ByteMap.write (ByteMap.set m a b) (a + 1) bs

/-- The little-endian number that bytes spell. -/
def leNat : List Byte → Nat
  | [] => 0
  | b :: bs => b.toNat + 256 * leNat bs

/-- The low `n` bytes of a number, little-endian. -/
def leBytes (v : Nat) : Nat → List Byte
  | 0 => []
  | n + 1 => BitVec.ofNat 8 v :: leBytes (v / 256) n

/-- The little-endian number in `n` bytes at `a`. -/
def ByteMap.readNat (m : ByteMap) (a n : Nat) : Nat := leNat (m.read a n)

/-- `n` bytes at `a` set to the low bytes of `v`, little-endian. -/
def ByteMap.writeNat (m : ByteMap) (a n v : Nat) : ByteMap := m.write a (leBytes v n)

/-- The bytes of a range zeroed. -/
def ByteMap.zero (m : ByteMap) (a n : Nat) : ByteMap := m.filter fun kv => kv.1 < a || a + n ≤ kv.1

/-- The list with position `i` changed by `f` (unchanged when there is no such position). -/
def modAt {α : Type} (l : List α) (i : Nat) (f : α → α) : List α := l.modify i f

/-- Bits `hi` down to `lo` of a number. -/
def bitsOf (v hi lo : Nat) : Nat := (v >>> lo) % 2 ^ (hi + 1 - lo)

/-- Bit `i` of a number. -/
def bitOf (v i : Nat) : Bool := v.testBit i

/-- 1 for true, 0 for false. -/
def b2n (b : Bool) : Nat := if b then 1 else 0

/-- A register word assembled from fields: (value, lowest bit, width). -/
def packFields : List (Nat × Nat × Nat) → Nat
  | [] => 0
  | (v, lo, w) :: fs => ((v % 2 ^ w) <<< lo) ||| packFields fs

/-- `a / b` rounded up. -/
def ceilDiv (a b : Nat) : Nat := (a + b - 1) / b

/-- The number of ones among the low `n` bits of `v`. -/
def popCount (v : Nat) : Nat → Nat
  | 0 => 0
  | n + 1 => b2n (v.testBit n) + popCount v n

/-- The lowest number below `n` that satisfies `p`. -/
def lowestBelow (n : Nat) (p : Nat → Bool) : Option Nat := (List.range n).find? p

/-- The value bounded above by `hi`: counters that saturate stop there. -/
def satAdd (v k hi : Nat) : Nat := min hi (v + k)

def spansMeet (a n b k : Nat) : Bool := decide (a < b + k) && decide (b < a + n)

/-- Two's-complement number of the low `w` bits. -/
def sextInt (v w : Nat) : Int :=
  let u := v % 2 ^ w
  if u < 2 ^ (w - 1) then (u : Int) else (u : Int) - (2 ^ w : Nat)

/-- The low `w` bits of an integer. -/
def wrapInt (v : Int) (w : Nat) : Nat := (v % ((2 ^ w : Nat) : Int)).toNat

end Sys2Proof
end

