-- ==== Sys2Proof/Machine/State.lean ====
section
/-! DEFINITION. What the TZ960 holds: plain data, every register, buffer and queue of the spec. -/

namespace Sys2Proof.Machine

/-! ### Memory system: stack DRAM, slices, L1 caches, reservations, near-bank units -/

/-- Four saturating 16-bit RC counters and the log word of a unit (SLC_ERR/SLC_ERR_LOG R300, MST_ERR/MST_ERR_LOG R320). -/
structure Err4 where
  c0 : Nat := 0
  c1 : Nat := 0
  c2 : Nat := 0
  c3 : Nat := 0
  log : BitVec 192 := 0
  deriving DecidableEq, Repr

/-- A directory entry (R278); the flag RSV is computed from the reservations. -/
inductive Dir where
  | unc
  | sh (cs : List Nat)
  | shc (districts : List Nat)
  | own (c : Nat)
  deriving DecidableEq, Repr

/-- One 32-byte sector of a slice line (R268). `parBad`: a byte's parity no longer holds (only a physical upset
sets it). -/
structure Sector where
  valid : Bool := false
  dirty : Bool := false
  poison : Bool := false
  data : BitVec 256 := 0
  parBad : Bool := false
  deriving DecidableEq, Repr

/-- A line held in its home slice: way, its four sectors, the owner of an anchored line, the directory entry,
last use for LRU. `tagBad`, `dirBad`: physical upsets of tag and directory (R299). -/
structure SLine where
  present : Bool := false
  way : Nat := 0
  s0 : Sector := {}
  s1 : Sector := {}
  s2 : Sector := {}
  s3 : Sector := {}
  anchored : Option Nat := none
  trace : Bool := false
  dir : Dir := .unc
  used : Nat := 0
  tagBad : Bool := false
  dirBad : Bool := false
  deriving DecidableEq, Repr

/-- One sector of an L1 line (R81): valid bytes, dirty bytes, data, and the bytes whose parity no longer holds (only a physical
upset sets it). -/
structure L1Sector where
  mask : BitVec 32 := 0
  dmask : BitVec 32 := 0
  data : BitVec 256 := 0
  parBad : BitVec 32 := 0
  deriving DecidableEq, Repr

/-- A line of an L1 (R81). -/
structure L1Line where
  present : Bool := false
  s0 : L1Sector := {}
  s1 : L1Sector := {}
  s2 : L1Sector := {}
  s3 : L1Sector := {}
  used : Nat := 0
  deriving DecidableEq, Repr

/-- An L1 data cache: its lines by line number, and its writeback buffer (R81, R281). -/
structure L1 where
  lines : NMap L1Line := []
  wbuf : NMap L1Line := []
  deriving DecidableEq, Repr

/-- A reservation of R175: the lane, the address and width it records, its age order in the slice. -/
structure Resv where
  grp : Grp
  lane : Nat
  addr : Nat
  width : Nat
  slice : Nat
  seq : Nat
  deriving DecidableEq, Repr

/-- A message a slice sent to an L1 (R279). -/
inductive SnoopKind where
  | inv | rcl | rcli
  deriving DecidableEq, Repr

/-- One snoop of a transaction: sent, and once answered the dirty sectors it carried back, each with whether its parity
had failed. -/
structure Snoop where
  cl : Nat
  kind : SnoopKind
  answered : Bool := false
  carried : List (SecPart × Bool) := []
  deriving DecidableEq, Repr

/-- A transaction in progress on a line (R281). `perform`: an OWN that found RSV = 1, whose sectors the slice itself will
write (R280). -/
structure Txn where
  line : Nat
  req : SliceMsg
  perform : Bool := false
  snoops : List Snoop
  deriving DecidableEq, Repr

/-- SLC_REGION[e] (R273). -/
structure Region where
  base2m : Nat := 0
  size2m : Nat := 0
  interleave : BitVec 2 := 0
  folio : Nat := 0
  chanBase : Nat := 0
  chanLog2 : Nat := 0
  valid : Bool := false
  deriving DecidableEq, Repr

/-- MST_RAW[e] (R311). -/
structure RawEntry where
  base2m : Nat := 0
  size2m : Nat := 0
  valid : Bool := false
  deriving DecidableEq, Repr

/-- Which command a reply answers. -/
structure CmdRef where
  f : Nat
  q : Nat
  seq : Nat
  deriving DecidableEq, Repr

/-- A raw-region command under way (R312). -/
structure RawWork where
  cmd : CmdRef
  entry : Nat
  new : RawEntry
  deriving DecidableEq, Repr

/-- SLC_PARTQ[p] (R288). -/
structure PartQ where
  allocMask : BitVec 16 := 0
  anchorMask : BitVec 16 := 0
  entryQuota : Nat := 0
  deriving DecidableEq, Repr

/-- A near-bank command as the controller copied it from its slot (R327, R331). -/
structure NbCmd where
  slot : Nat
  words : List Byte
  /-- index or element the command has reached -/
  at_ : Nat := 0
  status : BitVec 8 := 0
  running : Bool := false
  finished : Bool := false
  deriving DecidableEq, Repr

/-- NBU_SLOT_STAT[s] and whether the slot is busy (R331). -/
structure NbSlot where
  status : BitVec 8 := 0
  done : Bool := false
  rowsDone : BitVec 32 := 0
  tag : BitVec 64 := 0
  busy : Bool := false
  deriving DecidableEq, Repr

/-- The pair of near-bank units of one channel (R322-R331). -/
structure Nbu where
  nb : Bool := false
  enter : Bool := false
  version : BitVec 4 := 0
  busy : Bool := false
  owner : BitVec 6 := 0
  ownerValid : Bool := false
  refusal : BitVec 3 := 0
  foreign : Nat := 0
  dbDrops : Nat := 0
  done : BitVec 64 := 0
  slotStat : NMap NbSlot := []
  slots : ByteMap := []
  result : ByteMap := []
  queue : List NbCmd := []
  deriving DecidableEq, Repr

/-- MST_STATUS[k] and what its fall timers remember (R314-R316). -/
structure StackSt where
  temp : BitVec 8 := 0
  refBand : BitVec 2 := 0
  throttle : BitVec 2 := 0
  /-- which of the thresholds 85, 95 and 100 °C count as passed, and when each last had a reading not low enough to fall -/
  over85 : Bool := false
  over95 : Bool := false
  over100 : Bool := false
  hot85 : BitVec 64 := 0
  hot95 : BitVec 64 := 0
  hot100 : BitVec 64 := 0
  deriving DecidableEq, Repr

/-! ### Observation (spec/20) and the mirrored set (spec/14): both see what the memory system does -/

/-- An occurrence of an event of R523: code, partition, source kind and number, how many, and its trace payload. -/
structure Occ where
  ev : Nat
  part : Option Nat := none
  kind : Nat := 0
  src : Nat := 0
  count : Nat := 1
  payload : Nat := 0
  deriving DecidableEq, Repr

/-- Counters, filters and the trace (R521-R530). -/
structure Obs where
  /-- OBS_SEL, OBS_CNT and what has been accumulated since the last aggregation, by n -/
  sel : NMap (BitVec 64) := []
  cnt : NMap (BitVec 64) := []
  acc : NMap Nat := []
  snap : BitVec 64 := 0
  /-- OBS_FILT[k] -/
  filt : NMap (BitVec 128) := []
  /-- matching occurrences seen since the set-up, by filter and source unit -/
  seen : List (Nat × Nat × Nat × Nat) := []
  /-- the partition whose requests are being served (R521) -/
  actor : Option Nat := none
  /-- records that wait in their units' buffers: source kind, source, record -/
  buf : List (Nat × Nat × BitVec 256) := []
  run : Bool := false
  triggered : Bool := false
  wrapped : Bool := false
  wrap : Bool := false
  next : Nat := 0
  dropped : Nat := 0
  size : Nat := 0
  way : Nat := 0
  /-- records still to be written after the triggering one, and the triggering record while it waits -/
  left : Nat := 0
  trig : Option (Nat × Nat × BitVec 256) := none
  /-- a trace that is set up and starts when the reply of its OBS_CONFIG is written (R532) -/
  armed : Bool := false
  /-- OBS_PEEK[i].ADDRESS -/
  peek : NMap (BitVec 26) := []
  deriving DecidableEq, Repr

/-- ROPE_MIRROR[e] (R402, R419); `live` once a cut has taken it up. -/
structure MirrorEntry where
  base2m : Nat := 0
  size2m : Nat := 0
  valid : Bool := false
  synced : Bool := false
  live : Bool := false
  /-- an unsynced entry: its pages from this one on have not been copied yet; and whether the epoch cut last holds all
  its remaining dirty pages -/
  pos : Nat := 0
  syncing : Bool := false
  deriving DecidableEq, Repr

/-- Everything that holds or moves memory contents of the stacks and the spine. -/
structure MemSys where
  /-- stored data bits of stack DRAM by device address; what is not listed reads 0 (R485 step 5 zeroes it) -/
  dram : ByteMap := []
  /-- the four stored ECC bytes of each sector, by sector number -/
  dramEcc : NMap (BitVec 32) := []
  /-- sectors whose corrected contents wait for the channel's next MAINT slot (R309) -/
  corrWb : List Nat := []
  lines : NMap SLine := []
  l1 : NMap L1 := []
  useCtr : Nat := 0
  resvs : List Resv := []
  resvSeq : Nat := 0
  txns : List Txn := []
  regions : NMap Region := []
  raws : NMap RawEntry := []
  /-- a raw range change that has begun (R311, R312): its command, the entry and what it becomes -/
  rawWork : Option RawWork := none
  partq : NMap PartQ := []
  anchorWays : Nat := 0
  slcScrubEn : Bool := true
  mstScrubEn : Bool := true
  slcErr : NMap Err4 := []
  mstErr : NMap Err4 := []
  mstMargin : NMap (BitVec 64) := []
  /-- clusters whose path from the spine, and to it, crosses a vertical bond that has opened (a physical upset, R25) -/
  vertOut : List Nat := []
  vertIn : List Nat := []
  /-- slices that reported a lost dirty line the command processor has not yet handled (R299, R505) -/
  lost : List Nat := []
  scrubSet : NMap Nat := []
  scrubL : NMap Nat := []
  stackSt : NMap StackSt := []
  nbu : NMap Nbu := []
  obs : Obs := {}
  /-- mirrored entries and the 4 KiB pages dirty in the open epoch (R406) -/
  mirrors : NMap MirrorEntry := []
  dirty : NMap Bool := []
  deriving DecidableEq, Repr

/-! ### Clusters: groups, blocks, descriptors, streams, the matrix array, reductions -/

/-- An entry of the reconvergence stack (R74). -/
structure RcEntry where
  pc : BitVec 48
  mask : BitVec 8
  rpc : BitVec 48
  deriving DecidableEq, Repr

/-- What a group slot holds for its group (R58, R59, R64, R122-R124). -/
structure Group where
  live : Bool := false
  ended : Bool := false
  stopped : Bool := false
  bslot : Nat := 0
  gidx : Nat := 0
  vbase : Nat := 0
  pc : BitVec 48 := 0
  active : BitVec 8 := 0
  rpc : BitVec 48 := 0xFFFFFFFFFFFF#48
  stack : List RcEntry := []
  sregs : NMap Word := []
  preds : NMap (BitVec 8) := []
  flags : BitVec 5 := 0
  mxstat : BitVec 8 := 0
  timeLatch : BitVec 64 := 0
  barrier : Option Nat := none
  /-- the group's open chain: open, its PACK, the extension word of its first MXA.MMA, its total K so far (R135, R138) -/
  chainOpen : Bool := false
  chainPack : Nat := 0
  chainExt : Option (BitVec 32) := none
  chainK : Nat := 0
  /-- physical upsets: scalar and predicate registers whose parity no longer holds (R503) -/
  sBad : List Nat := []
  pBad : List Nat := []
  deriving DecidableEq, Repr

/-- A block slot (R61, R65, R66). -/
structure Block where
  used : Bool := false
  ctx : Nat := 0
  part : Nat := 0
  index : Nat := 0
  groups : Nat := 0
  vregs : Nat := 0
  scrBase : Nat := 0
  scrSize : Nat := 0
  /-- scratch bytes not yet zeroed: groups start at 0 (R562); and the block's place in admission order -/
  zeroing : Bool := false
  order : Nat := 0
  deriving DecidableEq, Repr

/-- Blocks of one context offered together to a cluster, and when, in order of offers (R62, R68). -/
structure Offer where
  part : Nat
  ctx : Nat
  blocks : List Nat
  order : Nat := 0
  deriving DecidableEq, Repr

/-- A line of an instruction cache (R85): its number, last use, and its 128 bytes. -/
structure IcLine where
  line : Nat
  used : Nat
  data : BitVec 1024 := 0
  deriving DecidableEq, Repr

/-- A scratch range held for the array (R133): it is released when the array has made its last read of it; or a
reduction buffer, whose reads return unspecified values (R226). -/
structure Held where
  id : Nat
  base : Nat
  len : Nat
  rbuf : Bool := false
  deriving DecidableEq, Repr

/-- A product accumulator with its class tag (R127). The word is unbounded above: bits over 127 are the guard bits. -/
structure Acc where
  v : Int := 0
  tag : BitVec 2 := 0
  deriving DecidableEq, Repr

/-- Who opened a chain (R138, R154): it is named even after the group has exited. -/
structure ChainOwner where
  core : Nat
  slot : Nat
  gidx : Nat
  bslot : Nat
  part : Nat
  ctx : Nat
  deriving DecidableEq, Repr

/-- The fields of a reduction handle and its progress (R223-R235). -/
structure RedHandle where
  root : Bool
  anchored : Bool
  anchor : Int
  redId : Nat
  words : Nat
  elemBase : Nat
  stream : Nat
  firstPeriod : Nat
  rbuf : Nat
  localContrib : Nat
  fabricContrib : Nat
  destKind : Nat
  outFmt : Nat
  rm : Nat
  dest : Nat
  /-- cursor of each group that used the handle, by group index -/
  cursors : NMap Nat := []
  /-- leaf: the first group that handed over, and how many words it has handed over -/
  firstGroup : Option Nat := none
  handed : Nat := 0
  /-- leaf: words waiting to be injected into the stream; the fabric cycle of the last ones and their number (R205) -/
  outQ : List (BitVec 256) := []
  lateAt : Nat := 0
  late : Nat := 0
  /-- root: local words per element accepted, and added -/
  accepted : NMap Nat := []
  added : NMap Nat := []
  /-- root: 160-bit sums with tags, window flags and folded counts per element (R231) -/
  sums : NMap Acc := []
  wlo : List Nat := []
  whi : List Nat := []
  counts : NMap Nat := []
  arrived : NMap Nat := []
  arrivals : Nat := 0
  delivered : NMap Nat := []
  /-- root: local words and fabric arrivals that wait for the root engine -/
  localQ : List (BitVec 256) := []
  fabricQ : List (BitVec 256) := []
  winLow : Bool := false
  isOver : Bool := false
  flags : BitVec 5 := 0
  /-- who created it, the address of its TD.CREATE, whether its root operation is incomplete, and host reads of
  sub-byte deliveries into the host window still awaited -/
  creator : ChainOwner := ⟨0, 0, 0, 0, 0, 0⟩
  pc : BitVec 48 := 0
  opActive : Bool := false
  merges : List Nat := []
  deriving DecidableEq, Repr

/-- What a descriptor slot holds (R244). -/
structure TdSlot where
  gen : BitVec 10 := 0
  live : Bool := false
  /-- freed or released while operations that name it are incomplete -/
  closing : Bool := false
  /-- the group whose TD.FREE has not completed -/
  freedBy : Option ChainOwner := none
  bslot : Nat := 0
  image : BitVec 512 := 0
  red : Option RedHandle := none
  deriving DecidableEq, Repr

/-- A stream buffer and the handle slot it is bound to (R260). -/
structure StreamSt where
  bound : Option Nat := none
  /-- payloads, each with its POISON bit -/
  buf : List (BitVec 256 × Bool) := []
  /-- the fabric cycle in which a flit was last put in, and how many were put in then (R205) -/
  lateAt : Nat := 0
  late : Nat := 0
  deriving DecidableEq, Repr

/-- A decoded instruction in an array queue (R139): offsets are scratch addresses of the cluster. -/
inductive MxOp where
  | init (bias : Nat) (f : BitVec 12) (held : Nat)
  | mma (a b : Nat) (k : Nat) (ext : BitVec 32) (held : Nat)
  | store (handle index : Nat)
  | redAcc (slot : Nat) (cursor : Nat)
  deriving DecidableEq, Repr

/-- One entry of an array queue with the address of its instruction. -/
structure MxEntry where
  owner : ChainOwner
  pc : BitVec 48
  op : MxOp
  /-- arrival order at the array -/
  order : Nat
  deriving DecidableEq, Repr

/-- One MXA.MMA of the current chain as the array took it. -/
structure MmaRec where
  a : Nat
  b : Nat
  k : Nat
  ext : BitVec 32
  held : Nat
  pc : BitVec 48
  /-- arrival order at the array -/
  order : Nat
  scanned : Bool := false
  multiplied : Bool := false
  deriving DecidableEq, Repr

/-- The chain in the array, in the drain buffer, or drained and not yet complete (R138-R153). -/
structure Chain where
  owner : ChainOwner
  opened : Bool := false
  pack : Nat := 0
  init : Nat := 0
  biasFmt : Nat := 0
  /-- bias elements as read -/
  bias : List Nat := []
  mmas : List MmaRec := []
  closing : Option MxOp := none
  closePc : BitVec 48 := 0
  /-- what the scans recorded for each problem (R145, R147) -/
  eA : NMap (Option Int) := []
  eB : NMap (Option Int) := []
  scaleMax : NMap (Option Int) := []
  /-- anchors of the problems, once known, and whether the accumulators hold the initial value -/
  anchors : List Int := [0, 0, 0, 0]
  started : Bool := false
  acc : NMap Acc := []
  /-- checksum accumulators CR[p][j] (8p + j), CC[p][i] (8p + i), CN[p] -/
  cr : NMap Acc := []
  cc : NMap Acc := []
  cn : NMap Acc := []
  /-- the second run of R153 -/
  acc2 : NMap Acc := []
  /-- problems with a truncated term -/
  trunc : List Nat := []
  biasOver : Bool := false
  checked : Bool := false
  flags : BitVec 5 := 0
  /-- host read of a sub-byte store into the host window that is still awaited -/
  merge : Option Nat := none
  deriving DecidableEq, Repr

/-- The matrix array of a cluster (R127, R139, R142). -/
structure MxArray where
  /-- queue of each group slot (4 * core + slot), oldest first -/
  queues : NMap (List MxEntry) := []
  current : Option Chain := none
  drain : Option Chain := none
  /-- chains whose rows have left the drain buffer and that are not yet complete -/
  drained : List Chain := []
  /-- openers of closed chains not yet complete, oldest first -/
  incomplete : List ChainOwner := []
  order : Nat := 0
  heldNext : Nat := 0
  held : List Held := []
  /-- physical upsets: footprint positions whose product cell adds wrong, and disagreeing D-stage decoders -/
  badCells : List Nat := []
  dBad : Bool := false
  deriving DecidableEq, Repr

/-- CL_MXA_EVT and CL_MXA_EVT_TIME (R155, R156). -/
structure MxEvt where
  events : Nat := 0
  suspect : Bool := false
  secondRun : Bool := false
  tagMismatch : Bool := false
  pack : BitVec 2 := 0
  problem : BitVec 2 := 0
  rowFail : BitVec 8 := 0
  colFail : BitVec 8 := 0
  cornerFail : BitVec 4 := 0
  time0 : BitVec 64 := 0
  time1 : BitVec 64 := 0
  deriving DecidableEq, Repr

/-- What a descriptor operation in progress does: a tile between memory and scratch (address of its tile image,
element index of its origin), or a codebook load. -/
inductive TdWork where
  | load (scr origin : Nat)
  | store (scr origin : Nat)
  | cb (slot table : Nat) (cb8 : Bool)
  deriving DecidableEq, Repr

/-- An issued descriptor operation that has not completed: it waits for a hold to end or a codebook's readers, for the
host (its read's number), or for flits of a stream (those to send, or those taken so far). -/
structure TdOp where
  owner : ChainOwner
  pc : BitVec 48
  slot : Nat
  work : TdWork
  host : Option Nat := none
  /-- the bytes of host memory that it has read -/
  got : Option (List Byte) := none
  /-- its data has been read; what remains is sent, or written by the host -/
  started : Bool := false
  flits : List (BitVec 256) := []
  /-- flags of its conversions, reported when it completes (R257) -/
  flags : BitVec 5 := 0
  /-- MXA instructions issued in the cluster before it (R46) -/
  order : Nat := 0
  deriving DecidableEq, Repr

/-- One cluster at a logical position (R58). -/
structure Cluster where
  vrf : NMap Word := []
  groups : NMap Group := []
  blocks : NMap Block := []
  scratch : ByteMap := []
  icache : List IcLine := []
  codebook : ByteMap := []
  /-- the codebooks' contents were lost (R46), under a number of the model's; and the 32-byte tables loaded since -/
  cbLost : Option Nat := none
  cbLoaded : List Nat := []
  offers : List Offer := []
  td : NMap TdSlot := []
  streamIn : NMap StreamSt := []
  streamOut : NMap StreamSt := []
  tdOps : List TdOp := []
  mx : MxArray := {}
  evt : MxEvt := {}
  /-- physical upsets: register words (core * 1024 + word) and scratch bytes whose parity no longer holds -/
  vrfBad : List Nat := []
  scratchBad : List Nat := []
  /-- bytes of the codebook store, descriptor slots and entries of the copy of the allocation table whose parity no longer holds (R503) -/
  cbBad : List Nat := []
  tdBad : List Nat := []
  allocBad : List Nat := []
  deriving DecidableEq, Repr

/-! ### Partitions, contexts, faults, queues and commands -/

/-- TD_ALLOC[p][e] (R247). -/
structure Alloc where
  basePage : Nat := 0
  pages : Nat := 0
  typ : BitVec 2 := 0
  deriving DecidableEq, Repr

/-- A fault as the detecting unit stamped it (R88 step 1, R91). -/
structure FaultNote where
  cls : Nat
  time : BitVec 64
  cluster : Nat
  inGroup : Bool := false
  core : Nat := 0
  slot : Nat := 0
  gidx : Nat := 0
  /-- key of the context in State.ctxs -/
  ctx : Option Nat := none
  pc : BitVec 48 := 0
  laneMask : BitVec 8 := 0
  addr : Nat := 0
  deriving DecidableEq, Repr

/-- The states of R353. -/
inductive PartSt where
  | absent | idle | running | frozen
  deriving DecidableEq, Repr

/-- The rectangle of a partition in one folio, both ends included (R214). -/
structure Rect where
  x0 : Nat
  x1 : Nat
  y0 : Nat
  y1 : Nat
  deriving DecidableEq, Repr

/-- One record of a schedule image (R350). -/
structure SchedRec where
  site : Nat
  entry : Nat
  value : BitVec 64
  deriving DecidableEq, Repr

/-- What ends a reset of a partition (R338, R339, R355, R356): the command that replies, if one does, and whether the partition is
destroyed. -/
structure ResetEnd where
  cmd : Option CmdRef := none
  destroy : Bool := false
  deriving DecidableEq, Repr

/-- A partition (R353-R358). -/
structure Part where
  st : PartSt := .absent
  f0 : Option Rect := none
  f1 : Option Rect := none
  allocs : NMap Alloc := []
  /-- a loaded schedule: its records and PERIOD_M1 (R350, R210) -/
  sched : Option (List SchedRec × Nat) := none
  /-- SCHED_START has set a start that has not come (R210) -/
  schedArmed : Bool := false
  schedRunning : Bool := false
  /-- c0: the fabric cycle at which the running schedule began, and the tick that SCHED_START gave for it (R210) -/
  schedC0 : Option Nat := none
  schedTick : BitVec 64 := 0
  /-- faults detected since the last event's replies (R88, R90) -/
  notes : List FaultNote := []
  /-- CMD_FAULT_REC[p] (R91) -/
  faultRec : BitVec 256 := 0
  lastFault : BitVec 64 := 0
  /-- a FREEZE whose deadline has not come (R354): the command, none where PART_RESET froze it -/
  freezing : Option CmdRef := none
  freezeStamp : BitVec 64 := 0
  /-- reservations of the freeze broken at the deadline -/
  freezeBroken : Nat := 0
  /-- commands whose outcomes must have been written before commands of the partition start: those of step 5 of R88, of step 2 of a
  reset (R355, R357) -/
  awaits : List CmdRef := []
  /-- a reset whose step 3 has not come (R355) -/
  reset : Option ResetEnd := none
  deriving DecidableEq, Repr

/-- A context (R62, R92, R351). -/
structure Ctx where
  live : Bool := false
  part : Nat := 0
  id : BitVec 16 := 0
  entry : Nat := 0
  args : Nat := 0
  groups : Nat := 0
  vregs : Nat := 0
  scratch : Nat := 0
  gx : Nat := 0
  gy : Nat := 0
  gz : Nat := 0
  placed : Bool := true
  /-- STREAMED: the block on offer, and when it was offered -/
  next : Nat := 0
  offered : Nat := 0
  retired : Nat := 0
  cmd : CmdRef := ⟨0, 0, 0⟩
  started : Option (BitVec 64) := none
  /-- its outcome is decided; it runs until its reply is written (R353) -/
  ended : Bool := false
  deriving DecidableEq, Repr

/-- A fetched command packet (R344, R346, R347). -/
structure Cmd where
  seq : Nat
  bytes : List Byte
  started : Bool := false
  /-- the command fetched last before it since the queue was opened -/
  prev : Option Nat := none
  /-- that command completed with a status other than SUCCESS (CHAIN) -/
  prevFailed : Bool := false
  /-- what a started command still holds: a maintenance row, or the stage it waits at -/
  stage : Nat := 0
  aux : Nat := 0
  startTime : BitVec 64 := 0
  deriving DecidableEq, Repr

/-- A reply not yet written (R346). -/
structure Reply where
  status : Nat
  opcode : Byte
  detail : Nat
  tag : BitVec 32
  lo : BitVec 64
  hi : BitVec 64
  irq : Bool
  /-- the command's place in fetch order, and the partition it acted for -/
  seq : Nat
  part : Option Nat
  deriving DecidableEq, Repr

/-- CMD_QCFG[f][q] and what the command processor holds of the queue (R340-R347). -/
structure Queue where
  sqBase : BitVec 48 := 0
  cqBase : BitVec 48 := 0
  enable : Bool := false
  sqLog2 : BitVec 5 := 0
  cqLog2 : BitVec 5 := 0
  vec : BitVec 6 := 0
  verMin : BitVec 4 := 0
  verMax : BitVec 4 := 0
  state : BitVec 2 := 0
  version : BitVec 4 := 0
  openErr : BitVec 4 := 0
  sqHead : BitVec 16 := 0
  cqTail : BitVec 16 := 0
  sqTail : BitVec 16 := 0
  cqHead : BitVec 16 := 0
  phase : Bool := true
  closingOpen : Bool := false
  /-- an open whose outcome has not come (R342) -/
  opening : Bool := false
  fetching : Bool := false
  cmds : List Cmd := []
  replies : List Reply := []
  lastSeq : Option Nat := none
  lastFailed : Bool := false
  deriving DecidableEq, Repr

/-- What waits for a host read to complete (R563). -/
inductive HrKind where
  | lane (g : Grp) (lane vd regs : Nat) (signed : Bool) (pc : BitVec 48)
  | scalar (g : Grp) (sd : Nat) (pc : BitVec 48)
  | td (cl : Nat)
  /-- elements that wait for the bytes they share; and those that other merges of the agent have written meanwhile -/
  | merge (cl : Nat) (writes done : List (Nat × Nat × Nat))
  | entry (f q : Nat)
  | command (c : CmdRef)
  deriving DecidableEq, Repr

/-- A read or AtomicOp of host memory that has no completion yet: the bytes it reads, in order, as (bus address,
length) pieces. -/
structure HostRead where
  id : Nat
  f : Nat
  segs : List (Nat × Nat)
  kind : HrKind
  /-- when it was sent; the completion timeout runs from then (R334, R563) -/
  sent : BitVec 64
  deriving DecidableEq, Repr

/-- Where the bytes of a transfer come from: device memory from an address on, bytes that the host has sent, the pattern of a FILL
that starts at an address. -/
inductive XferSrc where
  | mem (a : Nat)
  | bytes (bs : List Byte)
  | fill (pattern base : Nat)
  deriving DecidableEq, Repr

/-- A COPY, FILL or CODE_WRITE whose requests go out as tokens allow (R349, R350): the opcode, the partition (64: none), what is left
to move, and bytes for the host, which go out as one write. -/
structure Xfer where
  cmd : CmdRef
  op : Nat
  part : Nat
  src : XferSrc
  dst : Nat
  left : Nat
  toHost : List Byte := []
  deriving DecidableEq, Repr

/-- An access of BAR4 (R182, R336). -/
inductive Bar4Op where
  | read (len : Nat)
  | write (data : List Byte)
  | atomic (op : PcieAtomic) (size : Nat) (a b : BitVec 64)
  deriving DecidableEq, Repr

/-- An access of BAR4 that waits at the host port: its function and device address. -/
structure Bar4Req where
  f : Nat
  addr : Nat
  op : Bar4Op
  deriving DecidableEq, Repr

/-- How a request from the host is answered. -/
inductive Cpl where
  | data (bytes : List Byte)
  | poisoned (bytes : List Byte)
  | ur
  | ca
  deriving DecidableEq, Repr

/-- What leaves the block: TLPs to the host, interrupts, management messages, frames, wire records. -/
inductive Out where
  | hostWrite (f addr : Nat) (bytes : List Byte)
  | hostRead (id f : Nat) (segs : List (Nat × Nat))
  | hostAtomic (id f addr : Nat) (op : PcieAtomic) (size : Nat) (a b : BitVec 64)
  | msix (f vec : Nat)
  | completion (f : Nat) (c : Cpl)
  | frame (l : Nat) (fr : Frame)
  | pldm (event : Nat) (arg : Nat)
  | pmbClear (rail : Nat)
  | voltage (who : VIssuer) (dom : Nat) (r : VReport) (code : Nat)
  | flit (site port : Nat) (hdr : BitVec 32) (payload : BitVec 256)
  | tdo (width value : Nat)
  | scanLands (op : BitVec 8) (cells : BitVec 1118)
  deriving DecidableEq, Repr

/-! ### Events, maintenance tokens, the colophon (spec/19) -/

/-- CMD_EVENT (R504). -/
structure CmdEvent where
  suspect : Bool := false
  dataLost : Bool := false
  dataLostPf : Bool := false
  bond : Bool := false
  sensor : Bool := false
  irqEn : Bool := false
  irqVec : BitVec 6 := 0
  suspectCluster : BitVec 17 := 0
  suspectCount : Nat := 0
  lostParts : BitVec 64 := 0
  deriving DecidableEq, Repr

/-- The tokens that one maintenance activity took (R509): its command, none for an activation. It holds them while the
command or its unwritten reply stands in its queue. `gath` is 48 * folio + gathering. -/
structure TokHold where
  cmd : Option CmdRef := none
  lnk : Option Nat := none
  gath : Option Nat := none
  stk : BitVec 8 := 0
  vddqExcl : Bool := false
  vddqShared : Bool := false
  obs : Bool := false
  mgt : Bool := false
  pmb : Bool := false
  scrub : Bool := false
  deriving DecidableEq, Repr

/-- Maintenance tokens (CMD_MAINT, R511). -/
structure Tokens where
  holds : List TokHold := []
  refusals : Nat := 0
  deriving DecidableEq, Repr

/-- A colophon record (R513); `seq` is given when it is written. -/
structure ClpRec where
  typ : Nat
  seq : Nat := 0
  time : BitVec 64 := 0
  bootSeq : Nat := 0
  rst : BitVec 64 := 0
  body : List Byte := []
  deriving DecidableEq, Repr

/-- What a block of the colophon ring holds: erased, torn (a write that was abandoned), or a record. -/
inductive ClpBlock where
  | erased
  | torn
  | record (r : ClpRec)
  deriving DecidableEq, Repr

/-- The colophon writer and its ring (R512-R515). -/
structure Clp where
  ring : NMap ClpBlock := []
  ptr : Nat := 0x1810
  waiting : List ClpRec := []
  writing : Option ClpRec := none
  erasing : Option Nat := none
  dropped : Nat := 0
  scanDone : Bool := false
  lastType : BitVec 8 := 0
  nextSeq : Nat := 1
  bootSeq : Nat := 0
  /-- per fault class: when its last FAULT record was submitted, and how many were skipped since (R512) -/
  faultAt : NMap (Option (BitVec 64)) := []
  faultSkipped : NMap Nat := []
  deriving DecidableEq, Repr

/-! ### Reset and start (spec/18) -/

/-- A configuration copy (R488). -/
structure CfgCopy where
  valid : Bool := false
  seq : Nat := 0
  activeMgt : Bool := false
  activeFw : Bool := false
  /-- default mode of each link: 0 KR4, 1 CR4, 2 not qualified at cold start -/
  modes : NMap Nat := []
  deriving DecidableEq, Repr

/-- A management or device firmware image (R487); a device starts its life with good images. -/
structure Image where
  crcOk : Bool := true
  /-- a management image: it reports alive within 150 ms of its boot (R489) -/
  alive : Bool := true
  build : BitVec 32 := 1
  deriving DecidableEq, Repr

/-- What a device that does not run waits for. -/
inductive Wait where
  | none_
  /-- after a failed start, 1 s (R492) -/
  | failed
  /-- armed exit from base camp, 1 s (R495) -/
  | baseExit
  /-- thermal trip (R474) -/
  | trip
  /-- PWR_FAIL_N high for 100 ms (R516) -/
  | powerFail
  /-- RST_N low or its 1 ms not over (R483, R484) -/
  | gate
  /-- after the loss of a spine domain or of the stacks: RST_N or a loss of power (R443, R450) -/
  | dead
  deriving DecidableEq, Repr

/-- The supervisor's and management controller's state on VDD_AUX (R481-R499) and the flash but its ring (R487). -/
structure Rst where
  vddAux : Bool := false
  /-- the supervisor's own time in ns since VDD_AUX came up; when the present wait or step began, and when a new management image began to
  boot; ns of the present step that count towards its deadline (R485) -/
  sup : BitVec 64 := 0
  mark : BitVec 64 := 0
  mgtMark : BitVec 64 := 0
  stepNs : Nat := 0
  mgtUp : Bool := false
  pwrEn : Bool := false
  /-- level of RST_N -/
  rstLow : Bool := false
  wait : Wait := .none_
  step : BitVec 4 := 0
  ready : Bool := false
  baseCamp : Bool := false
  failedStarts : BitVec 2 := 0
  lastCause : BitVec 4 := 0
  lastFailStep : BitVec 4 := 0
  entry : BitVec 3 := 0
  exitArmed : Bool := false
  fwImage : Bool := false
  mgtImage : Bool := false
  mgtRom : Bool := false
  retainedPerr : Bool := false
  selftestRemaps : BitVec 16 := 0
  linksQualified : BitVec 7 := 0
  stepTime : NMap (BitVec 64) := []
  backup : NMap (BitVec 64) := []
  retained : ByteMap := []
  /-- bytes of the retained SRAM whose parity no longer holds (a physical upset) -/
  retainedBad : List Nat := []
  /-- the image a failed start used (R489) -/
  failedFw : Bool := false
  fwBuild : BitVec 32 := 0
  cfg0 : CfgCopy := {}
  cfg1 : CfgCopy := {}
  mgtA : Image := {}
  mgtB : Image := {}
  fwA : Image := {}
  fwB : Image := {}
  /-- a new management image has been booted and has not yet reported alive: the previous one (R508) -/
  mgtTrial : Option Bool := none
  /-- components written through PLDM and not yet activated -/
  newMgt : Option Bool := none
  newFw : Option Bool := none
  deriving DecidableEq, Repr

/-! ### Folios, gatherings and routers (spec/01, spec/07) -/

/-- The variant fuse (R1-R3). -/
inductive Variant where
  | a1 | b1 | c1
  deriving DecidableEq, Repr

/-- CORE_CLK_CEIL in units of 50 MHz, PWR_SUST_CAP and PWR_FAST_CAP in units of 10 W (R3). -/
def Variant.ceil : Variant → Nat
  | .a1 => 36
  | .b1 => 30
  | .c1 => 24
def Variant.sustCap : Variant → Nat
  | .a1 => 160
  | .b1 => 125
  | .c1 => 95
def Variant.fastCap : Variant → Nat
  | .a1 => 200
  | .b1 => 156
  | .c1 => 119

/-- A folio: SPN_FOLIO_STATUS[f] (R26) and the dead logical positions y * 150 + x (R31). -/
structure Folio where
  inService : Bool := false
  outCause : BitVec 3 := 0
  bonds : BitVec 18 := 0
  sparesUsed : BitVec 11 := 0
  dead : List Nat := []
  deriving DecidableEq, Repr

/-- A site index pair: home and the spare that holds the position (FAB_RENAME, R220). -/
structure Rename where
  home : Nat := 0
  site : Nat := 0
  valid : Bool := false
  deriving DecidableEq, Repr

/-- FAB_FENCE[k] (R220). -/
structure Fence where
  site : Nat := 0
  valid : Bool := false
  deriving DecidableEq, Repr

/-- What every router of a gathering holds alike (R218, R220, R221), and its schedule registers (R210). -/
structure Gath where
  renames : NMap Rename := []
  fences : NMap Fence := []
  /-- site indices sealed at their own routers -/
  sealed : List Nat := []
  /-- spares consumed, or that failed their test, by number k -/
  used : List Nat := []
  periodM1 : BitVec 10 := 0
  start : BitVec 64 := 0
  deriving DecidableEq, Repr

/-- A flit that stands, or will stand, in an input at a fabric cycle. An arbitrated one is in flight until its RC. -/
structure FlIn where
  port : Nat
  cycle : Nat
  flit : Flit
  deriving DecidableEq, Repr

/-- An arbitrated flit that a router has routed and not yet sent: input port, virtual channel, output ports still
owed, the cycle of its RC, and whether its packet has been counted as aged (R212). -/
structure ArbFlit where
  port : Nat
  vc : Nat
  outs : List Nat
  rc : Nat := 0
  aged : Bool := false
  flit : Flit
  deriving DecidableEq, Repr

/-- A flit on its way out of the fabric: through LOC it reaches the cluster's buffer, through SP the spine, at `cycle`
(R197). `stream`: the STREAM_OUT of a fixed-line flit, none for an arbitrated one; `slot` its slot. -/
structure Leaving where
  port : Nat
  cycle : Nat
  stream : Option Nat := none
  slot : Nat := 0
  flit : Flit
  deriving DecidableEq, Repr

/-- A router's own registers and buffers (R189, R197, R203, R222, R242). `routeBad`: entries whose parity no longer
holds. -/
structure Router where
  vBroken : Bool := false
  routes : NMap (BitVec 64) := []
  routeBad : List Nat := []
  collisions : Nat := 0
  edgeDrops : Nat := 0
  fenceDrops : Nat := 0
  hdrErrors : Nat := 0
  log : BitVec 128 := 0
  mismatches : Nat := 0
  redLog : BitVec 128 := 0
  fl : List FlIn := []
  /-- the first fabric cycle whose slot it has not carried out -/
  nextCycle : Nat := 0
  /-- arbitrated flits on the links into this router, and those it has routed, oldest first -/
  arbIn : List FlIn := []
  arb : List ArbFlit := []
  /-- output ports of the packet in progress on each input and channel (4 * port + vc); empty where it is dropped -/
  open_ : NMap (Option (List Nat)) := []
  /-- input and channel of the packet that holds an output until its tail has crossed (R212) -/
  hold : NMap (Option Nat) := []
  /-- outputs allocated for the next cycle: input and channel, output (R197 SA) -/
  grants : List (Nat × Nat) := []
  leaving : List Leaving := []
  /-- for LOC and SP: the cycle after the last one in which a flit was taken in; flits so far of the packet being injected,
  by 4 * port + vc -/
  inAt : NMap Nat := []
  inLen : NMap Nat := []
  deriving DecidableEq, Repr

/-- The mesh fabric. -/
structure Fab where
  folio0 : Folio := {}
  folio1 : Folio := {}
  /-- by 48 * folio + gathering -/
  gaths : NMap Gath := []
  /-- by site code -/
  routers : NMap Router := []
  /-- the fabric cycle counter c, one for both folios: the spine counter follows it at 2/3 (R4, R189, R422) -/
  cycle : Nat := 0
  /-- destination in the other folio of the packet that a site sends on a channel through SP, by 4 * site + vc (R199) -/
  openFolio : NMap (Option Nat) := []
  winSel : NMap (BitVec 17) := []
  clSel : NMap (BitVec 17) := []
  deriving DecidableEq, Repr

/-! ### Spine scheduling (spec/10) -/

/-- SLC_TOKEN[p] and its bucket (R292, R293). -/
structure Token where
  rate : BitVec 16 := 0
  burst : BitVec 16 := 0
  unregulated : Bool := false
  tokens : Nat := 0
  deriving DecidableEq, Repr

/-- An entry of a slice's request queue: whether it stands in the reserve (R294), and whether its request has been taken up and
waits for the line (R281). -/
structure QEntry where
  req : SliceReq
  reserve : Bool := false
  taken : Bool := false
  deriving DecidableEq, Repr

/-- The request queue of a channel and the requests that wait for it (R317). -/
structure ChanQ where
  waiting : List SliceReq := []
  queue : List SliceReq := []
  cycle : Nat := 0
  deriving DecidableEq, Repr

/-- A slice's request queue, the requests on their way to it, and what its data path carries over (R277, R292, R294). -/
structure SliceQ where
  /-- requests that their master ports hold, and requests that wait at the slice -/
  ports : List SliceReq := []
  waiting : List SliceReq := []
  queue : List QEntry := []
  /-- partitions for which the slice asserts a hold, and since which spine cycle -/
  holds : List (Nat × Nat) := []
  cycle : Nat := 0
  /-- requests admitted in `cycle`, sectors of it, those beyond 32 counting against the next -/
  admitted : Nat := 0
  outUsed : Nat := 0
  inUsed : Nat := 0
  /-- the last slot, counted from cold start, in which a request that is no maintenance activity was admitted, and one more -/
  slotUsed : Nat := 0
  deriving DecidableEq, Repr

/-- Spine frame, slot table, shares and slice queues (R275-R277, R292-R294). -/
structure Spine where
  frame : BitVec 64 := 0
  /-- owners of slots as written; slots 0 and 32 are MAINT whatever stands here -/
  slots : NMap Nat := []
  tokens : NMap Token := []
  /-- buckets that differ from their partition's `tokens`, by 64 * requester + partition -/
  buckets : NMap (Option Nat) := []
  sliceQ : NMap SliceQ := []
  /-- request queues of the stack controllers, by channel (R317) -/
  chanQ : NMap ChanQ := []
  deriving DecidableEq, Repr

/-! ### Links, keys and collective engines (spec/13) -/

/-- A frame that waits to be sent for a partition, or was sent and is not acknowledged (R374-R379). -/
structure TxFrame where
  part : Nat
  fr : Frame
  /-- time of the last sending, times sent, consecutive timeouts -/
  sentAt : BitVec 64 := 0
  sends : Nat := 0
  timeouts : Nat := 0
  /-- marked for retransmission -/
  again : Bool := false
  deriving DecidableEq, Repr

/-- LNK_SWEEP[l][n] (R383). -/
structure SweepReg where
  tEarly : BitVec 6 := 0
  tLate : BitVec 6 := 0
  vLo : BitVec 6 := 0
  vHi : BitVec 6 := 0
  points : Nat := 0
  complete : Bool := false
  aborted : Bool := false
  deriving DecidableEq, Repr

/-- What a command does on a link's wires: training, with qualification or without it, or a margin sweep whose pattern locked or
not. -/
inductive LinkWork where
  | train (qualify : Bool) (found : TrainResult)
  | sweep (locked : Bool) (lanes : List SweepLane)
  deriving DecidableEq, Repr

/-- One link: its registers, configuration and session (R360-R386). -/
structure Link where
  st : BitVec 3 := 0
  qualified : Bool := false
  berAlarm : Bool := false
  phy : Bool := false
  encap : BitVec 2 := 0
  version : BitVec 4 := 0
  failCause : BitVec 3 := 0
  rope : Bool := false
  /-- current R in MB/s (R378) -/
  rate : Nat := 0
  configured : Bool := false
  peerMac : BitVec 48 := 0
  localMac : BitVec 48 := 0
  localIp : BitVec 128 := 0
  peerIp : BitVec 128 := 0
  udpPort : BitVec 16 := 0
  /-- FCS_ERR, FOREIGN, BAD_HEADER, UNKNOWN_KEY, TAG_FAIL, OUT_OF_WINDOW, RETX, CE_MARKED -/
  errs : List Nat := [0, 0, 0, 0, 0, 0, 0, 0]
  offset : BitVec 32 := 0
  rtt : BitVec 24 := 0
  timeValid : Bool := false
  sweep : List SweepReg := [{}, {}, {}, {}]
  /-- TX_CTR by 2 * job + slot -/
  txCtr : NMap Nat := []
  /-- session: next PSN to send, frames waiting, frames unacknowledged -/
  psn : BitVec 32 := 0
  txq : List TxFrame := []
  unacked : List TxFrame := []
  /-- the partition whose frame was sent last in a shared slot (R379); 64 for none -/
  lastPart : Nat := 64
  /-- receiver: next PSN expected, PSNs received beyond it, accepted frames and time since the last ACK -/
  cum : BitVec 32 := 0
  got : List (BitVec 32) := []
  sinceAck : Nat := 0
  ackSince : BitVec 64 := 0
  srtt : Option Nat := none
  /-- the last decrease by 7/8, and the last change of R or the session's start (R378) -/
  lastCut : Option (BitVec 64) := none
  lastRate : BitVec 64 := 0
  lastCnp : Option (BitVec 64) := none
  /-- frames of the fabric key that wait for a key or a counter (R371) -/
  ctlq : List Frame := []
  /-- negotiation: the peer's HELLO has been received (its maximum version), and when negotiating began -/
  helloSeen : Option (BitVec 8 × BitVec 8) := none
  negStart : BitVec 64 := 0
  /-- when the last HELLO and the last ECHO were sent -/
  helloAt : BitVec 64 := 0
  echoAt : BitVec 64 := 0
  /-- LINK_TRAIN or LINK_SWEEP at work on the wires (R363, R381) -/
  work : Option (CmdRef × LinkWork) := none
  /-- LINK_TRAIN that waits for the session -/
  train : Option CmdRef := none
  trainErrs : Nat := 0
  trainBits : Nat := 0
  /-- START frames held until the local COLLECTIVE starts (R389) -/
  early : List Frame := []
  /-- time of the last frame sent on the link (R400) -/
  lastTx : BitVec 64 := 0
  deriving DecidableEq, Repr

/-- A job of the key table (R369). -/
structure Job where
  id : BitVec 32
  part : Option Nat
  key0 : Option (BitVec 256) := none
  key1 : Option (BitVec 256) := none
  active : Bool := false
  nextSeq : BitVec 32 := 0
  deriving DecidableEq, Repr

/-- A neighbour of a collective: the link to it, the grid dimension in which it differs, and whether it is at +1 (R389). -/
structure CollPeer where
  link : Nat
  dim : Nat
  plus : Bool
  deriving DecidableEq, Repr

/-- One of the 16 collective engines (R387-R395). -/
structure Engine where
  busy : Bool := false
  cmd : CmdRef := ⟨0, 0, 0⟩
  part : Nat := 0
  op : Nat := 0
  job : BitVec 32 := 0
  seq : BitVec 32 := 0
  root : Nat := 0
  linkMask : BitVec 64 := 0
  srcD : BitVec 512 := 0
  dstD : BitVec 512 := 0
  srcL : BitVec 512 := 0
  dstL : BitVec 512 := 0
  /-- 0 images awaited from the host, 1 source data awaited from the host, 2 running -/
  stage : Nat := 0
  handle : BitVec 16 := 0
  fed : Bool := false
  peers : List CollPeer := []
  /-- reductions: own wire words by local element (R392); words received in the reduce-scatter phase of ring k and
  words or elements received in its all-gather phase, by k * E + element -/
  own : NMap (Option (BitVec 256)) := []
  rs : NMap (Option (BitVec 256)) := []
  ag : NMap (Option (BitVec 256)) := []
  /-- movements: element bits by global index -/
  have_ : NMap (Option Nat) := []
  /-- frames sent, as (step, frame) -/
  sent : List (Nat × Nat) := []
  /-- local element indices of DST written -/
  written : List Nat := []
  flags : BitVec 7 := 0
  dup : Bool := false
  /-- the status it ends early with -/
  ends : Option Nat := none
  /-- source bytes read, and the pieces they came in -/
  srcBytes : List Byte := []
  srcPos : Nat := 0
  deriving DecidableEq, Repr

/-- Links, key table and engines. -/
structure Lnk where
  links : NMap Link := []
  jobs : List Job := []
  engines : NMap Engine := []
  /-- LNK_COLL_FLAGS[p] -/
  collFlags : NMap (BitVec 8) := []
  deriving DecidableEq, Repr

/-! ### The roped pair (spec/14) -/

/-- A journaled command on the leader (R403): its index, its command while it runs, the record as last sent, and the
epoch open when its reply was written. -/
structure JournalEntry where
  index : Nat
  cmd : CmdRef
  packet : List Byte
  start : BitVec 64
  doneEpoch : Option Nat := none
  deriving DecidableEq, Repr

/-- The pair state of a device (R397-R420). -/
structure Rope where
  st : BitVec 3 := 0
  /-- held rope epoch -/
  epoch : BitVec 64 := 0
  /-- role while forming: true for the second -/
  second : Bool := false
  refusal : BitVec 3 := 0
  /-- ROPE_FORM that waits for the pair, ROPE_FAILOVER at work -/
  cmd : Option CmdRef := none
  formStart : BitVec 64 := 0
  /-- when the last FORM was sent -/
  formAt : BitVec 64 := 0
  ackOverdue : Bool := false
  lastHeard : BitVec 64 := 0
  open_ : Nat := 0
  done : Nat := 0
  stale : Nat := 0
  partials : Nat := 0
  resent : Nat := 0
  holds : Nat := 0
  jFirst : Nat := 0
  jNext : Nat := 0
  /-- leader: journal records not known to be in an acknowledged epoch -/
  journal : List JournalEntry := []
  /-- second: the journal window by slot, and the index each slot holds -/
  window : NMap (List Byte) := []
  windowIdx : NMap (Option Nat) := []
  /-- leader: a cut epoch awaits its ACK -/
  awaiting : Bool := false
  cutAt : BitVec 64 := 0
  /-- leader: state image as last sent; second: state image held -/
  image : ByteMap := []
  /-- second: records placed of epochs not yet applied (epoch, kind, seq, arg), their STATE bytes (epoch, offset,
  bytes), END counts by epoch, and the epoch whose apply is pending -/
  placed : List (Nat × Nat × Nat × Nat) := []
  stagedState : List (Nat × Nat × List Byte) := []
  endCount : NMap (Option Nat) := []
  apply : Option Nat := none
  /-- the link that takes the next record (R401) -/
  turn : Nat := 0
  deriving DecidableEq, Repr

/-! ### Clocks, power and heat (spec/15, spec/16, spec/17) -/

/-- Clocks and crossings (R421-R435). Frequencies are in units of 50 MHz. -/
structure Clk where
  /-- the clock CLOCK_SET applied -/
  applied : Nat := 0
  /-- the core clock the PLL gives with the divider at 4, and the target of its slew -/
  now : Nat := 0
  target : Nat := 0
  /-- 0 still, 1 supplies rising before a raise, 2 supplies falling after a fall, 3 and 4 the PLL rising and falling (R424) -/
  stage : Nat := 0
  /-- when the PLL began its present 50 MHz -/
  slewAt : BitVec 64 := 0
  /-- the CLOCK_SET that waits for the slew, and the DETAIL bits of its reply -/
  cmd : Option (CmdRef × Nat) := none
  /-- who asks for the fast step: REG_ALERT_N, temperature (R467); and whether it is in force -/
  fastReg : Bool := false
  fastTemp : Bool := false
  fast : Bool := false
  pllLock : Bool := false
  mgtLock : Bool := false
  tbLock : Bool := false
  xmode : BitVec 4 := 0xF
  hangValid : Bool := false
  hangWrite : Bool := false
  hangDomain : BitVec 9 := 0
  hangs : Nat := 0
  hangOffset : BitVec 26 := 0
  hangTime : BitVec 64 := 0
  /-- domains marked STOPPED, by code -/
  stopped : List Nat := []
  /-- CLK_TIME: the master time base in ticks of 1 ns (R427) -/
  master : BitVec 64 := 0
  /-- ticks a TIME_SYNC slew has still to add (R428) -/
  tsLeft : Int := 0
  /-- time-base edges counted towards the slew's next tick -/
  tsCount : Nat := 0
  deriving DecidableEq, Repr

/-- An integrated regulator domain: PWR_DOMAIN[d] and PWR_VMIN[d] (R438-R446, R451, R452). -/
structure Dom where
  st : BitVec 3 := 0
  vset : Nat := 0
  /-- setpoint when the present slew or ramp began, and when that was -/
  vnow : Nat := 0
  slewAt : BitVec 64 := 0
  slewing : Bool := false
  attempts : Nat := 0
  failCause : BitVec 2 := 0
  /-- a command held during soft start (R444), or a logic slew that waits for its array domain (R438) -/
  held : Option Nat := none
  /-- who commanded the present target, or the held one -/
  issuer : VIssuer := .coldStart
  suspects : List Nat := []
  vmin : BitVec 9 := 0x1FF
  vminSensor : BitVec 12 := 0
  droops : Nat := 0
  vheld : Bool := false
  vminTime : BitVec 64 := 0
  /-- the minimum lay below the curve at the last sample -/
  drooping : Bool := false
  deriving DecidableEq, Repr

/-- PWR_RAIL[r] (R453). -/
structure Rail where
  st : BitVec 2 := 0
  vout : BitVec 16 := 0
  iout : BitVec 16 := 0
  status : BitVec 16 := 0
  nacks : Nat := 0
  /-- the rail set does not use this index -/
  absent : Bool := false
  deriving DecidableEq, Repr

/-- PWR_PHASE[t] (R477). -/
structure Phase where
  lf : Nat := 0
  spn : Nat := 0
  stk : Nat := 0
  samples : Nat := 0
  valid : Bool := false
  deriving DecidableEq, Repr

/-- Regulators, rails and the belay controller. Powers are in µW, limits in units of 10 W. -/
structure Pwr where
  doms : NMap Dom := []
  rails : NMap Rail := []
  /-- consecutive counted windows above the limit, by sensor; sensors flagged; PWR_BOND_LOG (R447, R454) -/
  bondRuns : NMap Nat := []
  bondFlags : List Nat := []
  bondValid : Bool := false
  bondDomain : BitVec 4 := 0
  bondSensor : BitVec 12 := 0
  bondExcess : BitVec 8 := 0
  bondTime : BitVec 64 := 0
  /-- PWR_LIMIT and the limits in force since the last 1 ms update (R459) -/
  sust : Nat := 160
  fast : Nat := 200
  sustNow : Nat := 160
  fastNow : Nat := 200
  /-- P, A_F, A_S, the running sum of this millisecond's samples, and whether a first measurement has been made -/
  p : Nat := 0
  aFast : Int := 0
  aSust : Int := 0
  msSum : Nat := 0
  msCount : Nat := 0
  started : Bool := false
  pS : Int := 0
  /-- P exceeded the lower cap in this interval; intervals in a row in which it did not (R460) -/
  overCap : Bool := false
  calm : Nat := 0
  unmet : Bool := false
  /-- hold levels and budgets by class: LF0-3, SPN 4, STK0-7 5-12; whether the last 1 ms update has set budgets -/
  levels : NMap Nat := []
  budgets : NMap Int := []
  ceil : Nat := 0
  thmCeil : Nat := 0
  reason : BitVec 3 := 0
  /-- when each LF level last rose to 12 or the power ceiling last moved; when some LF level last lay above 4; and when the
  ceilings last moved (R462, R472) -/
  lfHigh : NMap (BitVec 64) := []
  lfHot : BitVec 64 := 0
  ceilAt : BitVec 64 := 0
  thmAt : BitVec 64 := 0
  /-- when a low level of REG_ALERT_N was last acted on -/
  alertAt : BitVec 64 := 0
  /-- REG_ALERT_N: 0 idle, 1 low (steps 1-3), 2 voltages being restored (step 4) -/
  alert : Nat := 0
  alerts : Nat := 0
  phases : NMap Phase := []
  pphase : NMap (Option (BitVec 6)) := []
  /-- partitions whose phase changed in this 1 ms interval -/
  phaseMoved : List Nat := []
  deriving DecidableEq, Repr

/-- THM_SENSOR[n] (R479): temperatures in units of 0.25 °C. -/
structure Sensor where
  reading : Int := 0
  govern : Int := 0
  estimate : Int := 0
  suspect : Bool := false
  cause : BitVec 2 := 0
  low : Nat := 0
  deriving DecidableEq, Repr

/-- The temperature band of an SRAM area (R475). -/
structure Band where
  band : Nat := 0
  /-- times of the last samples not low enough to fall below the bounds of 10, 70 and 90 °C -/
  hot1 : BitVec 64 := 0
  hot2 : BitVec 64 := 0
  hot3 : BitVec 64 := 0
  deriving DecidableEq, Repr

/-- The thermal supervisor and controller. -/
structure Thm where
  sensors : NMap Sensor := []
  diodes : NMap Int := []
  tmax : Int := 0
  tmaxSensor : Nat := 0
  trips : Nat := 0
  tripValid : Bool := false
  tripSource : BitVec 2 := 0
  tripSensor : BitVec 9 := 0
  tripValue : BitVec 12 := 0
  tripTime : BitVec 64 := 0
  /-- THERMTRIP_N is driven low -/
  tripped : Bool := false
  bands : NMap Band := []
  /-- time of the last sample above 102 °C -/
  fastHot : BitVec 64 := 0
  /-- supervisor time of the last sample with a trip diode at 85 °C or above (R474) -/
  diodeHot : BitVec 64 := 0
  deriving DecidableEq, Repr

/-! ### The host port and boundary scan (spec/12, spec/21, spec/22) -/

/-- A capture of R554: the offset of the register captured and its words. -/
structure Capture where
  off : Nat
  words : List (BitVec 64)
  deriving DecidableEq, Repr

/-- An entry of an MSI-X table. -/
structure MsixEntry where
  addr : BitVec 64 := 0
  data : BitVec 32 := 0
  masked : Bool := true
  deriving DecidableEq, Repr

/-- What a function's configuration space holds beyond its fixed contents (R334, R335, R556): the size code of BAR4 (64 GiB
shifted left by it, PF only), the power state, the Unsupported Request bit of AER, the MSI-X table, the number of VFs enabled, and the
settings of the link's requests. -/
structure PcieFn where
  bar4Size : BitVec 2 := 0
  d3hot : Bool := false
  aerUr : Bool := false
  msix : NMap MsixEntry := []
  numVfs : Nat := 0
  maxPayload : Nat := 128
  maxReadReq : Nat := 512
  cplTimeoutUs : Nat := 50000
  deriving DecidableEq, Repr

/-- CMD_HOST_ERR (R337), the functions' captures and configuration spaces, and accesses of BAR4 that wait. -/
structure HostPort where
  poisonedCpl : Nat := 0
  urSent : Nat := 0
  epReceived : Nat := 0
  readErr : Nat := 0
  captures : NMap (Option Capture) := []
  cfg : NMap PcieFn := []
  bar4 : List Bar4Req := []
  /-- virtual functions between step 1 and step 3 of a reset (R338) -/
  flr : List Nat := []
  deriving DecidableEq, Repr

/-- The whole block. -/
structure State where
  /-- commands that wait, first in first out -/
  pending : List Instr := []
  /-- the variant that the fuses name (R3) -/
  variant : Variant := .a1
  /-- the cluster spare map of the fuses: folio, logical position, spare of its gathering (R31, R217) -/
  fuseRenames : List (Nat × Nat × Nat) := []
  mem : MemSys := {}
  cl : NMap Cluster := []
  parts : NMap Part := []
  ctxs : NMap Ctx := []
  ctxNext : Nat := 0
  /-- order of the next offer of blocks (R68) -/
  offerNext : Nat := 0
  queues : NMap Queue := []
  /-- fetch order of the next command (R347) -/
  seqNext : Nat := 0
  /-- 16 f + q of the queue served last (R347) -/
  lastServed : Nat := 1039
  rst : Rst := {}
  fab : Fab := {}
  spine : Spine := {}
  lnk : Lnk := {}
  evt : CmdEvent := {}
  tok : Tokens := {}
  clp : Clp := {}
  rope : Rope := {}
  clk : Clk := {}
  pwr : Pwr := {}
  thm : Thm := {}
  host : HostPort := {}
  /-- the TAP's instruction register; IDCODE at test-logic reset (R547) -/
  tap : BitVec 8 := 0x01
  /-- the boundary register: its shift stage, and the values that its cells drive (R548) -/
  scan : BitVec 1118 := 0
  scanOut : BitVec 1118 := 0
  /-- RST_N has risen while a board test was in force, and is not taken as high (R549) -/
  tapHigh : Bool := false
  /-- a configuration command that has started and not completed (R347) -/
  cfgBusy : Option CmdRef := none
  /-- a valid OBS_CONFIG and its image, which the next aggregation applies (R532) -/
  obsPending : Option (CmdRef × List Byte) := none
  xfers : List Xfer := []
  hostReads : List HostRead := []
  hrNext : Nat := 0
  /-- everything sent out of the block, oldest first -/
  out : List Out := []
  /-- the replica of the time base that stamps are taken from, one for every domain (R427) -/
  time : BitVec 64 := 0
  /-- the model's own counter of free values used (Config.freeNat, Config.freeBool) -/
  freeCtr : Nat := 0
  deriving DecidableEq, Repr

/-- The machine right after reset. -/
def State.reset : State := {}

/-- Why a step stops. No meaning of this model answers with a fault: every event the spec gives an effect has it. -/
inductive Fault where
  /-- raised by no command; safe -/
  | none_
  deriving DecidableEq, Repr

/-- Why a command has no meaning. -/
inductive Refusal where
  /-- raised by an arm whose command is not modelled yet; safe -/
  | notModelled (mnemonic : String)
  deriving DecidableEq, Repr

end Sys2Proof.Machine
end

