-- ==== Sys2Proof/Machine/Observe.lean ====
section
/-! DEFINITION. Counting and tracing of events where they occur (spec/20_observation.md R521-R529), and the pages that a
write makes dirty for a roped pair (spec/14_roped_pair.md R406, R407). -/

namespace Sys2Proof.Machine

/-- The gathering of a logical position (R192): 6 ty + tx. -/
def gathOfPos (x y : Nat) : Nat :=
  let q := y + (if 47 ≤ y then 1 else 0) + (if 94 ≤ y then 1 else 0)
  6 * (q / 16) + x / 25

/-- The gathering scope value of a logical cluster number (R521). -/
def gathScope (c : Nat) : Nat :=
  96 * (c / 37500) + 2 * gathOfPos (c % 150) (c % 18750 / 150) + c % 37500 / 18750

/-- The folio of an occurrence, and its gathering; `kind` 3 names a gathering itself. -/
def Occ.folio (o : Occ) : Option Nat :=
  if o.kind = 4 then some (o.src / 37500) else if o.kind = 3 then some (o.src / 96) else none
def Occ.gath (o : Occ) : Option Nat :=
  if o.kind = 4 then some (gathScope o.src) else if o.kind = 3 then some o.src else none

/-- Whether an occurrence lies in the scope of a selection word (R521, R524, R526). -/
def Occ.inScope (o : Occ) (sel : Nat) : Bool :=
  let k := bitsOf sel 10 8
  let v := bitsOf sel 27 11
  bitsOf sel 7 0 == o.ev &&
  (if k = 0 then true else if k = 1 then o.part == some v else if k = 2 then o.folio == some v
   else if k = 3 then o.gath == some v else k == o.kind && v == o.src)

/-- The record of an occurrence under filter `k` (R528). -/
def traceRecord (t : BitVec 64) (k : Nat) (o : Occ) : BitVec 256 :=
  BitVec.ofNat 256 (packFields [
    (t.toNat, 0, 64), (o.ev, 64, 8), (k, 72, 4), (o.part.getD 0, 76, 6), (b2n o.part.isSome, 82, 1),
    (if o.kind = 3 then 0 else o.kind, 83, 3), (o.src, 86, 17), (o.payload, 128, 128)])

/-- How often a filter has matched at a source unit. -/
def Obs.seenAt (b : Obs) (k kind src : Nat) : Nat :=
  match b.seen.find? fun e => e.1 = k && e.2.1 = kind && e.2.2.1 = src with
  | some e => e.2.2.2
  | none => 0

/-- One more match of filter `k` at a source unit. -/
def Obs.countSeen (b : Obs) (k : Nat) (o : Occ) : Obs :=
  { b with seen := (k, o.kind, o.src, b.seenAt k o.kind o.src + 1) ::
      b.seen.filter fun e => !(e.1 = k && e.2.1 = o.kind && e.2.2.1 = o.src) }

/-- One occurrence at the filters: every filter that it matches counts it, the lowest-numbered whose sample is due
records it, and the first match of a filter with ACTION 2 is the stop trigger (R526, R529). POST counts the records
written after the triggering one; where that one is dropped, from the trigger on. -/
def Obs.filter (b : Obs) (t : BitVec 64) (o : Occ) : Obs :=
  if !b.run then b
  else
    let hits := b.filt.filter fun e => bitsOf e.2.toNat 33 32 ≠ 0 && o.inScope e.2.toNat
    let due := hits.filter fun e => b.seenAt e.1 o.kind o.src % 2 ^ bitsOf e.2.toNat 31 28 = 0
    let stop := if b.triggered then none else hits.find? fun e => bitsOf e.2.toNat 33 32 = 2
    let b := hits.foldl (fun b e => b.countSeen e.1 o) b
    match due with
    | [] => b
    | (k, _) :: _ =>
      let full := decide (8 ≤ (b.buf.filter fun e => e.1 = o.kind && e.2.1 = o.src).length)
      let r := (o.kind, o.src, traceRecord t k o)
      let b := if full then { b with dropped := satAdd b.dropped 1 0xFFFF } else { b with buf := b.buf ++ [r] }
      match stop with
      | none => b
      | some (_, w) =>
        let post := bitsOf w.toNat 95 64
        if full && post = 0 then { b with triggered := true, run := false, buf := [] }
        else { b with triggered := true, left := post, trig := if full then none else some r }

/-- An occurrence seen by the counters and the filters. -/
def Obs.take (b : Obs) (t : BitVec 64) (o : Occ) : Obs :=
  let acc := (b.sel.filter fun e => bitOf e.2.toNat 29 && o.inScope e.2.toNat).foldl
    (fun m e => NMap.set 0 m e.1 (NMap.get 0 m e.1 + o.count)) b.acc
  ({ b with acc := acc }).filter t o

/-- Whether anything is selected or traced. -/
def Obs.off (b : Obs) : Bool := b.sel.isEmpty && !b.run

def MemSys.observe (m : MemSys) (t : BitVec 64) (o : Occ) : MemSys :=
  if m.obs.off then m
  else { m with obs := m.obs.take t { o with part := match o.part with | some p => some p | none => m.obs.actor } }

def State.observe (s : State) (o : Occ) : State := { s with mem := s.mem.observe s.time o }

/-- The partition whose requests follow, where anything is counted or traced. -/
def State.acting (s : State) (p : Option Nat) : State :=
  if s.mem.obs.off then s else { s with mem := { s.mem with obs := { s.mem.obs with actor := p } } }

/-! #### Dirty pages (R406, R407) -/

def MirrorEntry.covers (e : MirrorEntry) (a : Nat) : Bool :=
  e.valid && e.live && decide (e.base2m * 0x200000 ≤ a) && decide (a < (e.base2m + e.size2m) * 0x200000)

/-- The mirrored entry that covers an address. -/
def MemSys.mirrorOf (m : MemSys) (a : Nat) : Option MirrorEntry := (m.mirrors.find? fun e => e.2.covers a).map Prod.snd

/-- Pages of 1 GiB. -/
def ropeLimit : Nat := 262144

def MemSys.dirtyAt (m : MemSys) (a : Nat) : Bool := NMap.get false m.dirty (a / 4096)

/-- Dirty pages of synced entries. -/
def MemSys.syncedDirty (m : MemSys) : Nat :=
  (m.dirty.filter fun p => match m.mirrorOf (p.1 * 4096) with | some e => e.synced | none => false).length

/-- Whether the home slice holds a write to `a` until the next cut (R407). -/
def MemSys.ropeHolds (m : MemSys) (a : Nat) : Bool :=
  match m.mirrorOf a with
  | some e => e.synced && !m.dirtyAt a && decide (ropeLimit ≤ m.syncedDirty)
  | none => false

/-- The page of `a` becomes dirty in the open epoch; pages an unsynced entry has not copied yet are dirty anyway. -/
def MemSys.markDirty (m : MemSys) (a : Nat) : MemSys :=
  match m.mirrorOf a with
  | some e => if !e.synced && decide (e.base2m * 512 + e.pos ≤ a / 4096) then m else { m with dirty := NMap.set false m.dirty (a / 4096) true }
  | none => m

end Sys2Proof.Machine
end

