-- ==== Sys2Proof/Machine/Dram.lean ====
section
/-! DEFINITION. Address ranges, home slices, placement, the check code of protected sectors, and reads and writes
of stack DRAM (spec/10_spine_cache.md R270-R273, spec/11_memory_stacks.md R305-R313, spec/22_address_map.md R550). -/

namespace Sys2Proof.Machine

/-- The backed ranges of R550. -/
inductive Range where
  | dram | spine | nbWin | scratchWin | hostWin | control | unbacked
  deriving DecidableEq, Repr

def rangeOf (a : Nat) : Range :=
  if a < 0x008000000000 then .dram
  else if 0x010000000000 ≤ a ∧ a < 0x010100000000 then .spine
  else if 0x020000000000 ≤ a ∧ a < 0x020200000000 then .nbWin
  else if 0x030000000000 ≤ a ∧ a < 0x030000000000 + 75000 * 0x4000 then .scratchWin
  else if 0x040000000000 ≤ a ∧ a < 0x0C0000000000 then .hostWin
  else if 0x0F0000000000 ≤ a ∧ a < 0x0F0004000000 then .control
  else .unbacked

/-- Base of the host memory window (R552). -/
def hostBase : Nat := 0x040000000000

/-- fold of R272: XOR of the `w`-bit fields of a 48-bit address from bit `lo` upward. -/
def foldBits (a w : Nat) : Nat → Nat → Nat
  | 0, _ => 0
  | n + 1, lo => if 48 ≤ lo then 0 else ((a >>> lo) % 2 ^ w) ^^^ foldBits a w n (lo + w)

def fold (a lo w : Nat) : Nat := if w = 0 then 0 else foldBits (a % 2 ^ 48) w 48 lo

/-- The valid region entry that covers an address (R272). -/
def regionOf (m : MemSys) (a : Nat) : Option Region :=
  (m.regions.find? fun e => e.2.valid && decide (e.2.base2m * 0x200000 ≤ a) &&
    decide (a < (e.2.base2m + e.2.size2m) * 0x200000)).map Prod.snd

/-- Base slice and field width of the interleave of an address (R272). -/
def interleaveOf (m : MemSys) (a : Nat) : Nat × Nat :=
  match regionOf m a with
  | none => (0, 8)
  | some r =>
    if r.interleave = 1#2 then (128 * r.folio, 7)
    else if r.interleave = 2#2 then (r.chanBase, r.chanLog2)
    else (0, 8)

/-- Home slice of an address (R272). -/
def homeSlice (m : MemSys) (a : Nat) : Nat := (interleaveOf m a).1 + fold a 7 (interleaveOf m a).2

/-- Set of an address in its home slice (R272). -/
def homeSet (m : MemSys) (a : Nat) : Nat := fold a (7 + (interleaveOf m a).2) 13

/-- Channel slice of a stack DRAM address (R305). -/
def chanSlice (a : Nat) : Nat := if a < 0x006000000000 then fold a 7 8 else bitsOf a 36 29

/-- Channel-local line index of a stack DRAM address (R305). -/
def chanLine (a : Nat) : Nat := if a < 0x006000000000 then bitsOf a 38 15 else 0xC00000 + bitsOf a 28 7

/-- Stack and channel paired with a slice (R270). -/
def sliceStack (s : Nat) : Nat := ([0, 1, 4, 5, 2, 3, 6, 7] : List Nat).getD (s / 128 * 4 + (s % 128) / 32) 0
def sliceChan (s : Nat) : Nat := (s % 128) % 32

/-- Index 32 * stack + channel of the channel that holds an address. -/
def chanOf (a : Nat) : Nat := 32 * sliceStack (chanSlice a) + sliceChan (chanSlice a)

/-- The slice paired with a channel. -/
def chanToSlice (c : Nat) : Nat :=
  ((List.range 256).find? fun s => 32 * sliceStack s + sliceChan s = c).getD 0

/-- The address of channel-local line L of a channel: the inverse of the placement of R305. -/
def lineAddr (c l : Nat) : Nat :=
  let s := chanToSlice c
  if 0xC00000 ≤ l then 0x006000000000 + s * 0x20000000 + (l - 0xC00000) * 128
  else
    let hi := l <<< 15
    hi + ((s ^^^ fold hi 7 8) <<< 7)

/-- The fields the controller decodes from L (R306): pseudo-channel, line in row, bank group, bank, stack ID, row. -/
structure LFields where
  pc : Nat
  lineInRow : Nat
  bankGroup : Nat
  bank : Nat
  sid : Nat
  row : Nat
  deriving DecidableEq, Repr

def decodeL (l : Nat) : LFields :=
  { pc := bitsOf l 0 0, lineInRow := bitsOf l 3 1, bankGroup := bitsOf l 5 4 ^^^ bitsOf l 11 10,
    bank := bitsOf l 7 6 ^^^ bitsOf l 13 12, sid := bitsOf l 9 8, row := bitsOf l 23 10 }

/-- Whether an address lies in a raw region (R311). -/
def isRaw (m : MemSys) (a : Nat) : Bool :=
  m.raws.any fun e => e.2.valid && decide (e.2.base2m * 0x200000 ≤ a) && decide (a < (e.2.base2m + e.2.size2m) * 0x200000)

def MemSys.nbuAt (m : MemSys) (c : Nat) : Nbu := NMap.get {} m.nbu c
def MemSys.setNbu (m : MemSys) (c : Nat) (n : Nbu) : MemSys := { m with nbu := NMap.set {} m.nbu c n }

/-- Every queued command of a channel dropped, and the running one stopped, with ABORTED (R333). -/
def nbAbort (n : Nbu) : Nbu :=
  let n := n.queue.foldl (fun (n : Nbu) (cmd : NbCmd) =>
    { n with
      slotStat := NMap.set {} n.slotStat cmd.slot {
        status := 7, done := true, rowsDone := BitVec.ofNat 32 cmd.at_
        tag := BitVec.ofNat 64 (leNat ((cmd.words.drop 56).take 8)), busy := false }
      done := n.done + 1 }) n
  { n with queue := [] }

/-- A raw address whose channel is in near-bank mode (R326). -/
def isNbRaw (m : MemSys) (a : Nat) : Bool :=
  rangeOf a == .dram && isRaw m a && (m.nbuAt (chanOf a)).nb

/-! #### The check code of R308 -/

/-- Multiplication by alpha in GF(2^8) with x^8 + x^4 + x^3 + x^2 + 1. -/
def xtime (v : Nat) : Nat := if v < 128 then 2 * v else (2 * v) ^^^ 0x11D

/-- Multiplication by alpha^k. -/
def xtimes (v : Nat) : Nat → Nat
  | 0 => v
  | k + 1 => xtimes (xtime v) k

/-- Product in GF(2^8): `n` bits of the second factor. -/
def gfMul (a b : Nat) : Nat → Nat
  | 0 => 0
  | n + 1 => (if b.testBit 0 then a else 0) ^^^ gfMul (xtime a) (b / 2) n

/-- Data symbol j of a sector: the eight bits of data pin j over beats 0-7 (R308). -/
def dataSymbol (d : BitVec 256) (j : Nat) : Nat :=
  packFields ((List.range 8).map fun t => (b2n (d.getLsbD (8 * (4 * t + j / 8) + j % 8)), t, 1))

/-- A sector from its 32 data symbols. -/
def sectorOfSymbols (sy : List Nat) : BitVec 256 :=
  BitVec.ofNat 256 (packFields ((List.range 256).map fun i =>
    let byte := i / 8; let n := i % 8; let t := byte / 4; let q := byte % 4
    (b2n ((sy.getD (8 * q + n) 0).testBit t), i, 1)))

/-- The 36 symbols of a stored word: 32 of data, 4 of check. -/
def symbolsOf (d : BitVec 256) (ecc : BitVec 32) : List Nat :=
  (List.range 32).map (dataSymbol d) ++ (List.range 4).map fun k => bitsOf ecc.toNat (8 * k + 7) (8 * k)

/-- Horner evaluation of a word at alpha^k, data symbol 0 as the leading coefficient (DESIGN CHOICE: R308 does
not say which symbol is which coefficient). -/
def syndrome (k : Nat) (w : List Nat) : Nat := w.foldl (fun acc c => xtimes acc k ^^^ c) 0

def syndromes (w : List Nat) : List Nat := (List.range 4).map fun k => syndrome k w

/-- Remainder register of the systematic encoder for (x - 1)(x - a)(x - a^2)(x - a^3), highest degree first. -/
def rsStep (r : List Nat) (c : Nat) : List Nat :=
  match r with
  | [r3, r2, r1, r0] =>
    let f := c ^^^ r3
    [r2 ^^^ gfMul 15 f 8, r1 ^^^ gfMul 54 f 8, r0 ^^^ gfMul 120 f 8, gfMul 64 f 8]
  | _ => [0, 0, 0, 0]

/-- The four check symbols of a sector as they stand on the ECC pins. -/
def checkCode (d : BitVec 256) : BitVec 32 :=
  let r := ((List.range 32).map (dataSymbol d)).foldl rsStep [0, 0, 0, 0]
  BitVec.ofNat 32 (packFields ((List.range 4).map fun k => (r.getD k 0, 8 * k, 8)))

/-- What the controller makes of a stored word (R309, R310). -/
inductive EccResult where
  | clean
  | poison
  | corrected (sym err : Nat)
  | uncorrectable
  deriving DecidableEq, Repr

def eccDecode (d : BitVec 256) (ecc : BitVec 32) : EccResult :=
  if ecc = checkCode d then .clean
  else
    let sy := syndromes (symbolsOf d ecc)
    let pat := syndromes (List.replicate 32 0 ++ [255, 255, 255, 255])
    if sy = pat then .poison
    else
      let e := sy.getD 0 0
      match (List.range 36).find? (fun i =>
          e ≠ 0 && decide ((List.range 4).all fun k => xtimes e (k * (35 - i)) == sy.getD k 0)) with
      | some i => .corrected i e
      | none => .uncorrectable

/-- A sector's contents as a requester receives them: data, and whether an error indication comes with it. -/
structure SecData where
  data : BitVec 256
  err : Bool
  deriving DecidableEq, Repr

def MemSys.dramSector (m : MemSys) (a : Nat) : BitVec 256 :=
  BitVec.ofNat 256 (ByteMap.readNat m.dram (a / 32 * 32) 32)

def MemSys.dramSectorEcc (m : MemSys) (a : Nat) : BitVec 32 := NMap.get 0 m.dramEcc (a / 32)

/-- Counting and logging in MST_ERR[c] and MST_ERR_LOG[c] (R320). -/
def mstLog (m : MemSys) (t : BitVec 64) (a kind sym : Nat) (scrub : Bool) : MemSys :=
  let c := chanOf a
  let e := NMap.get {} m.mstErr c
  let log := BitVec.ofNat 192 (packFields [(1, 0, 1), (kind, 1, 2), ((decodeL (chanLine a)).pc, 3, 1), (sym, 4, 6),
    (b2n scrub, 10, 1), (a / 32 * 32, 64, 48), (t.toNat, 128, 64)])
  let e := if kind = 0 then { e with c0 := satAdd e.c0 1 0xFFFF } else if kind = 1 then { e with c1 := satAdd e.c1 1 0xFFFF }
    else if kind = 2 then { e with c2 := satAdd e.c2 1 0xFFFF } else { e with c3 := satAdd e.c3 1 0xFFFF }
  { m with mstErr := NMap.set {} m.mstErr c { e with log := log } }

/-- Data bits and check code of a sector stored (R308, R310-R312). -/
def dramWrite (m : MemSys) (t : BitVec 64) (a : Nat) (d : BitVec 256) (poison : Bool) : MemSys :=
  let s := a / 32 * 32
  let m := m.observe t { ev := 0x31, kind := 6, src := chanOf a / 32 }
  let m1 := { m with dram := ByteMap.writeNat m.dram s 32 d.toNat }
  if isRaw m s then (if poison then mstLog m1 t s 3 0 false else m1)
  else
    let code := checkCode d
    { m1 with dramEcc := NMap.set 0 m.dramEcc (s / 32) (if poison then ~~~code else code) }

/-- A sector read by its controller (R309-R311). `scrub`: a scrub read, which rewrites an uncorrectable sector
with the poison marking (R313). -/
def dramRead (m : MemSys) (t : BitVec 64) (a : Nat) (scrub : Bool) : MemSys × SecData :=
  let s := a / 32 * 32
  let m := m.observe t { ev := 0x30, kind := 6, src := chanOf a / 32 }
  let d := m.dramSector s
  if isRaw m s then (m, ⟨d, false⟩)
  else
    match eccDecode d (m.dramSectorEcc s) with
    | .clean => (m, ⟨d, false⟩)
    | .corrected i e =>
      let sy := (symbolsOf d (m.dramSectorEcc s)).modify i (· ^^^ e)
      let m := (mstLog m t s 0 i scrub).observe t { ev := 0x33, kind := 6, src := chanOf a / 32 }
      ({ m with corrWb := m.corrWb ++ [s] }, ⟨sectorOfSymbols (sy.take 32), false⟩)
    | .poison => (mstLog m t s 2 0 scrub, ⟨d, true⟩)
    | .uncorrectable =>
      let m := mstLog m t s 1 0 scrub
      (if scrub then { m with dramEcc := NMap.set 0 m.dramEcc (s / 32) (~~~(checkCode d)) } else m, ⟨d, true⟩)

end Sys2Proof.Machine
end

