-- ==== Sys2Proof/Machine/Fp.lean ====
section
/-! DEFINITION. The number formats and the one rounding (spec/02_number_formats.md R32-R57): decoding an element
to its exact value, exact sums, products, quotients, square roots and estimates, and rounding once. -/

namespace Sys2Proof

/-- The exact value of an element or of an intermediate result: (-1)^s * m * 2^e, an infinity, or a NaN. -/
inductive FVal where
  | nan
  | inf (s : Bool)
  | fin (s : Bool) (m : Nat) (e : Int)
  deriving DecidableEq, Repr

/-- The layout of a float format (R37): exponent and fraction bits, bias, the encoding of the largest finite
magnitude, and whether infinities exist. -/
structure FpSpec where
  eb : Nat
  mb : Nat
  bias : Int
  maxFin : Nat
  hasInf : Bool
  qnan : Nat
  hasNan : Bool
  deriving DecidableEq, Repr

/-- Sticky exception flags in the order of R123. -/
abbrev FFlags := BitVec 5

def flNV : FFlags := 1#5
def flDZ : FFlags := 2#5
def flOF : FFlags := 4#5
def flUF : FFlags := 8#5
def flNX : FFlags := 16#5

def specFp4 : FpSpec := ⟨2, 1, 1, 0x7, false, 0, false⟩
def specE2M3 : FpSpec := ⟨2, 3, 1, 0x1F, false, 0, false⟩
def specE3M2 : FpSpec := ⟨3, 2, 3, 0x1F, false, 0, false⟩
def specE4M3 : FpSpec := ⟨4, 3, 7, 0x7E, false, 0x7F, true⟩
def specE5M2 : FpSpec := ⟨5, 2, 15, 0x7B, true, 0x7E, true⟩
def specFp16 : FpSpec := ⟨5, 10, 15, 0x7BFF, true, 0x7E00, true⟩
def specBf16 : FpSpec := ⟨8, 7, 127, 0x7F7F, true, 0x7FC0, true⟩
def specFp32 : FpSpec := ⟨8, 23, 127, 0x7F7FFFFF, true, 0x7FC00000, true⟩
def specFp64 : FpSpec := ⟨11, 52, 1023, 0x7FEFFFFFFFFFFFFF, true, 0x7FF8000000000000, true⟩

/-- The float formats by their format code (R32). -/
def fpSpecOf : Nat → Option FpSpec
  | 0x06 => some specFp4
  | 0x07 => some specE2M3
  | 0x08 => some specE3M2
  | 0x09 => some specE4M3
  | 0x0A => some specE5M2
  | 0x0D => some specFp16
  | 0x0E => some specBf16
  | 0x0F => some specFp32
  | 0x10 => some specFp64
  | _ => none

/-- The integer formats by their format code: width and signedness (R32, R35). -/
def intSpecOf : Nat → Option (Nat × Bool)
  | 0x00 => some (4, true)
  | 0x01 => some (4, false)
  | 0x02 => some (8, true)
  | 0x03 => some (8, false)
  | 0x04 => some (16, true)
  | 0x05 => some (32, true)
  | _ => none

/-- The width in bits of a format code (R32); reserved codes have none. -/
def fmtWidth : Nat → Option Nat
  | 0x00 | 0x01 | 0x06 | 0x0B => some 4
  | 0x07 | 0x08 => some 6
  | 0x02 | 0x03 | 0x09 | 0x0A | 0x0C | 0x11 => some 8
  | 0x04 | 0x0D | 0x0E => some 16
  | 0x05 | 0x0F => some 32
  | 0x10 => some 64
  | 0x12 => some 128
  | _ => none

/-- Whether a bit pattern is the infinity of its format (R37). -/
def FpSpec.isInf (f : FpSpec) (mag : Nat) : Bool := f.hasInf && mag == f.maxFin + 1

/-- The value of an encoding (R37). -/
def FpSpec.decode (f : FpSpec) (bits : Nat) : FVal :=
  let w := f.eb + f.mb
  let s := bits.testBit w
  let mag := bits % 2 ^ w
  if f.isInf mag then .inf s
  else if f.maxFin < mag then .nan
  else
    let ex := mag >>> f.mb
    let fr := mag % 2 ^ f.mb
    if ex = 0 then .fin s fr (1 - f.bias - f.mb)
    else .fin s (2 ^ f.mb + fr) ((ex : Int) - f.bias - f.mb)

/-- The five rounding modes of R53; SR carries its draw. -/
inductive RMode where
  | rne | rz | ru | rd | sr (u : Nat)
  deriving DecidableEq, Repr

/-- The mode a 3-bit code names where SR is not accepted. -/
def RMode.ofCode : Nat → Option RMode
  | 0 => some .rne
  | 1 => some .rz
  | 2 => some .ru
  | 3 => some .rd
  | _ => none

/-- m * 2^e rounded to a multiple of 2^q: the count of such units, and whether it differs (R53, R55). -/
def roundUnits (mode : RMode) (s : Bool) (m : Nat) (e q : Int) : Nat × Bool :=
  if q ≤ e then (m <<< (e - q).toNat, false)
  else
    let d := (q - e).toNat
    let t := m >>> d
    let r := m % 2 ^ d
    let up := match mode with
      | .rne => decide (2 ^ d < 2 * r) || (decide (2 ^ d = 2 * r) && t.testBit 0)
      | .rz => false
      | .ru => decide (r ≠ 0) && !s
      | .rd => decide (r ≠ 0) && s
      | .sr u => decide (65536 ≤ (r * 65536) >>> d + u)
    (t + b2n up, r ≠ 0)

/-- Rounding once to a float format (R38, R39, R54): the encoding and the flags. -/
def FpSpec.round (f : FpSpec) (mode : RMode) : FVal → Nat × FFlags
  | .nan => if f.hasNan then (f.qnan, 0) else (0, flNV)
  | .inf s =>
    let sg := b2n s <<< (f.eb + f.mb)
    if f.hasInf then (sg ||| (f.maxFin + 1), 0) else (sg ||| f.maxFin, flOF ||| flNX)
  | .fin s m e =>
    let sg := b2n s <<< (f.eb + f.mb)
    if m = 0 then (sg, 0)
    else
      let emin : Int := 1 - f.bias
      let lg : Int := (Nat.log2 m : Int) + e
      let top := max lg emin
      let (t, nx) := roundUnits mode s m e (top - f.mb)
      let enc := t + ((top - emin).toNat <<< f.mb)
      if f.maxFin < enc then
        let toInf := f.hasInf && (match mode with
          | .rne => true | .rz => false | .ru => !s | .rd => s | .sr _ => false)
        (sg ||| (if toInf then f.maxFin + 1 else f.maxFin), flOF ||| flNX)
      else
        let tiny := decide (lg < emin) &&
          decide (((roundUnits mode s m e (lg - f.mb)).1 : Int) * 2 ^ (lg - f.mb + 4096).toNat < 2 ^ (emin + 4096).toNat)
        (sg ||| enc, (if tiny && nx then flUF else 0) ||| (if nx then flNX else 0))

/-- Rounding once to an integer of `w` bits, saturating (R36): the two's-complement bits and the flags. -/
def roundInt (mode : RMode) (w : Nat) (signed : Bool) : FVal → Nat × FFlags
  | .nan => (0, flNV)
  | .inf s => (if signed then (if s then 2 ^ (w - 1) else 2 ^ (w - 1) - 1) else (if s then 0 else 2 ^ w - 1), flNV)
  | .fin s m e =>
    let (t, nx) := roundUnits mode s m e 0
    let v : Int := if s then -(t : Int) else t
    let lo : Int := if signed then -(2 ^ (w - 1) : Nat) else 0
    let hi : Int := if signed then (2 ^ (w - 1) : Nat) - 1 else (2 ^ w : Nat) - 1
    if v < lo then (wrapInt lo w, flOF)
    else if hi < v then (wrapInt hi w, flOF)
    else (wrapInt v w, if nx then flNX else 0)

/-- The value of a signed integer times a power of two. -/
def FVal.ofInt (n : Int) (e : Int) : FVal := .fin (decide (n < 0)) n.natAbs e

/-- The signed integer in units of 2^q of a finite value whose exponent is at least q. -/
def intUnits (s : Bool) (m : Nat) (e q : Int) : Int :=
  let u : Int := ((m <<< (e - q).toNat : Nat) : Int)
  if s then -u else u

/-- Exact sum with the zero rule of R57 under RNE: −0 only when both addends are −0. The flag is NV for
infinities of unlike sign; a NaN raises none. -/
def FVal.add : FVal → FVal → FVal × FFlags
  | .nan, _ => (.nan, 0)
  | _, .nan => (.nan, 0)
  | .inf s, .inf t => if s = t then (.inf s, 0) else (.nan, flNV)
  | .inf s, _ => (.inf s, 0)
  | _, .inf t => (.inf t, 0)
  | .fin s m e, .fin s' m' e' =>
    let q := min e e'
    let n := intUnits s m e q + intUnits s' m' e' q
    if n = 0 then (.fin (s && s') 0 q, 0) else (FVal.ofInt n q, 0)

/-- Exact product; NV for zero times infinity. -/
def FVal.mul : FVal → FVal → FVal × FFlags
  | .nan, _ => (.nan, 0)
  | _, .nan => (.nan, 0)
  | .inf s, .inf t => (.inf (s != t), 0)
  | .inf s, .fin t m _ => if m = 0 then (.nan, flNV) else (.inf (s != t), 0)
  | .fin s m _, .inf t => if m = 0 then (.nan, flNV) else (.inf (s != t), 0)
  | .fin s m e, .fin t n f => (.fin (s != t) (m * n) (e + f), 0)

/-- The same value with its sign inverted. -/
def FVal.neg : FVal → FVal
  | .nan => .nan
  | .inf s => .inf (!s)
  | .fin s m e => .fin (!s) m e

/-- Sixty-four guard bits of quotient or root beyond the largest significand, and a sticky bit. -/
def quotBits : Nat := 200

/-- Quotient exact to 200 bits with a sticky last bit, so that one rounding of it is the correct rounding;
DZ for a finite non-zero number over zero, NV for 0/0 and infinity/infinity. -/
def FVal.div : FVal → FVal → FVal × FFlags
  | .nan, _ => (.nan, 0)
  | _, .nan => (.nan, 0)
  | .inf _, .inf _ => (.nan, flNV)
  | .inf s, .fin t _ _ => (.inf (s != t), 0)
  | .fin s _ _, .inf t => (.fin (s != t) 0 0, 0)
  | .fin s m e, .fin t n f =>
    if n = 0 then (if m = 0 then (.nan, flNV) else (.inf (s != t), flDZ))
    else if m = 0 then (.fin (s != t) 0 0, 0)
    else
      let num := m <<< quotBits
      (.fin (s != t) (2 * (num / n) + b2n (num % n ≠ 0)) (e - f - quotBits - 1), 0)

/-- Integer square root by `fuel` digits from bit `fuel - 1` down. -/
def isqrtBits (n : Nat) : Nat → Nat → Nat
  | 0, r => r
  | k + 1, r =>
    let c := r + 2 ^ k
    isqrtBits n k (if c * c ≤ n then c else r)

/-- The integer square root of `n`. -/
def isqrt (n : Nat) : Nat := isqrtBits n (Nat.log2 n / 2 + 1) 0

/-- Square root to 100 bits or more with a sticky last bit; NV for a negative non-zero number. -/
def FVal.sqrt : FVal → FVal × FFlags
  | .nan => (.nan, 0)
  | .inf s => if s then (.nan, flNV) else (.inf false, 0)
  | .fin s m e =>
    if m = 0 then (.fin s 0 0, 0)
    else if s then (.nan, flNV)
    else
      let sh := quotBits + (if e % 2 = 0 then 0 else 1)
      let n := m <<< sh
      let r := isqrt n
      (.fin false (2 * r + b2n (r * r ≠ n)) ((e - sh) / 2 - 1), 0)

/-- Order of two values that are no NaN: -1, 0 or 1 for less, equal, greater; −0 equals +0 (R102). -/
def FVal.cmp : FVal → FVal → Option Int
  | .nan, _ => none
  | _, .nan => none
  | .inf s, .inf t => some (if s = t then 0 else if s then -1 else 1)
  | .inf s, .fin .. => some (if s then -1 else 1)
  | .fin .., .inf t => some (if t then 1 else -1)
  | .fin s m e, .fin s' m' e' =>
    let q := min e e'
    let a := intUnits s m e q
    let b := intUnits s' m' e' q
    some (if a < b then -1 else if a = b then 0 else 1)

/-- The condition codes of R102 on a comparison result (`none`: a NaN operand). -/
def ccHolds (cc : BitVec 3) : Option Int → Bool
  | none => cc == 1#3 || cc == 6#3
  | some c =>
    if cc == 0#3 then c == 0
    else if cc == 1#3 then c != 0
    else if cc == 2#3 then decide (c < 0)
    else if cc == 3#3 then decide (c ≤ 0)
    else if cc == 4#3 then decide (c > 0)
    else if cc == 5#3 then decide (c ≥ 0)
    else cc == 7#3

/-- minimumNumber and maximumNumber (R104): a NaN beside a number gives the number, and −0 orders below +0. -/
def FVal.minMax (wantMin : Bool) : FVal → FVal → FVal
  | .nan, y => y
  | x, .nan => x
  | x, y =>
    let sx := match x with | .fin s _ _ => s | .inf s => s | .nan => false
    match FVal.cmp x y with
    | some c => if c < 0 then (if wantMin then x else y)
                else if 0 < c then (if wantMin then y else x)
                else if sx = wantMin then x else y
    | none => x

/-- The number of fixed-point fraction bits of the estimates' exact functions. -/
def estBits : Nat := 256

/-- 2^256 * ln 2, rounded down: sum over k of 2^(256-k)/k. -/
def ln2Fix : Nat → Nat
  | 0 => 0
  | k + 1 => 2 ^ (estBits + 64) / ((k + 1) * 2 ^ (k + 1)) + ln2Fix k

/-- exp of a fixed-point number below 1 by its power series: `n` terms from term `k` on. -/
def expSeries (x : Nat) : Nat → Nat → Nat → Nat
  | 0, _, _ => 0
  | n + 1, k, term => term + expSeries x n (k + 1) (((term * x) >>> estBits) / (k + 1))

/-- 2^f for a fixed-point f below 1, with 256 fraction bits. -/
def exp2Frac (f : Nat) : Nat :=
  let ln2 := ln2Fix 330 >>> 64
  expSeries ((f * ln2) >>> estBits) 64 0 (2 ^ estBits)

/-- Binary digits of log2 of a fixed-point y in [1, 2): `n` digits by repeated squaring. -/
def log2Digits : Nat → Nat → Nat → Nat
  | 0, _, acc => acc
  | n + 1, y, acc =>
    let y2 := (y * y) >>> estBits
    if 2 ^ (estBits + 1) ≤ y2 then log2Digits n (y2 / 2) (2 * acc + 1) else log2Digits n y2 (2 * acc)

/-- Rounding an exact non-zero result of an estimate: OF when a finite input gives an infinity, UF when the
exact result is tiny after rounding, exact or not, and never NX (R105). -/
def estRound (s : Bool) (m : Nat) (e : Int) : Nat × FFlags :=
  let (enc, fl) := specFp32.round .rne (.fin s m e)
  let lg : Int := (Nat.log2 m : Int) + e
  let tiny := decide (lg < -126) && decide (((roundUnits .rne s m e (lg - 23)).1 : Int) * 2 ^ (lg - 23 + 4096).toNat < 2 ^ (4096 - 126 : Nat))
  (enc, (fl &&& flOF) ||| (if tiny then flUF else 0))

/-- 2^x of a finite x (R105). -/
def exp2Fin (s : Bool) (m : Nat) (e : Int) : Nat × FFlags :=
  let n := if 0 ≤ e then intUnits s (min m (2 ^ 40)) (min e 20) (-200) else intUnits s m e (-200)
  let one : Int := 2 ^ 200
  if 128 * one ≤ n then (0x7F800000, flOF)
  else if n ≤ -150 * one then (0, flUF)
  else
    let k := n / one
    let f := (n % one).toNat
    if f = 0 then estRound false 1 k
    else estRound false (2 * exp2Frac (f <<< 56) + 1) (k - estBits - 1)

/-- log2 of a positive finite x (R105). -/
def log2Fin (m : Nat) (e : Int) : Nat × FFlags :=
  let l := Nat.log2 m
  let k : Int := (l : Int) + e
  let y := m <<< (estBits - l)
  if y = 2 ^ estBits then
    (if k = 0 then (0, 0) else estRound (decide (k < 0)) k.natAbs 0)
  else
    let fr := log2Digits 110 y 0
    let v : Int := k * 2 ^ 111 + (2 * fr + 1 : Nat)
    estRound (decide (v < 0)) v.natAbs (-111)

/-- RCP, RSQ, EXP2 and LOG2 on an FP32 encoding (R105). -/
def estimate (op : EstOp) (bits : Nat) : Nat × FFlags :=
  match op, specFp32.decode bits with
  | _, .nan => (0x7FC00000, 0)
  | .rcp, .inf s => (b2n s <<< 31, 0)
  | .rcp, .fin s m e =>
    if m = 0 then ((b2n s <<< 31) ||| 0x7F800000, flDZ)
    else
      match FVal.div (.fin false 1 0) (.fin s m e) with
      | (.fin t n f, _) => estRound t n f
      | _ => (0x7FC00000, 0)
  | .rsq, .inf s => if s then (0x7FC00000, flNV) else (0, 0)
  | .rsq, .fin s m e =>
    if m = 0 then ((b2n s <<< 31) ||| 0x7F800000, flDZ)
    else if s then (0x7FC00000, flNV)
    else
      let sh : Nat := 400 + (if e % 2 = 0 then 0 else 1)
      let n := (2 ^ (sh + 100)) / m
      let inexact := decide (m * n ≠ 2 ^ (sh + 100))
      let ex : Int := -e - (sh + 100)
      let n' := if ex % 2 = 0 then n else 2 * n
      let ex' := if ex % 2 = 0 then ex else ex - 1
      let r := isqrt n'
      estRound false (2 * r + b2n (r * r ≠ n' || inexact)) (ex' / 2 - 1)
  | .exp2, .inf s => if s then (0, 0) else (0x7F800000, 0)
  | .exp2, .fin s m e => if m = 0 then (0x3F800000, 0) else exp2Fin s m e
  | .log2, .inf s => if s then (0x7FC00000, flNV) else (0x7F800000, 0)
  | .log2, .fin s m e =>
    if m = 0 then (0xFF800000, flDZ)
    else if s then (0x7FC00000, flNV)
    else log2Fin m e

end Sys2Proof
end

