-- ==== Sys2Proof/Machine/Num.lean ====
section
/-! DEFINITION. Elements of every format code, codebooks, block scales, stochastic rounding and X128 words
(spec/02_number_formats.md R32-R56). -/

namespace Sys2Proof

/-- A codebook table: its FP16 entries in index order (R44). -/
abbrev Codebook := List Nat

/-- The entry of a table. -/
def Codebook.entry (cb : Codebook) (i : Nat) : Nat := cb.getD i 0

/-- The exact value of an element (R32, R34-R37, R44); X128 and SCALE8 are no element formats. -/
def decodeElem (fmt bits : Nat) (cb : Codebook) : FVal :=
  match intSpecOf fmt with
  | some (w, signed) =>
    if signed then FVal.ofInt (sextInt bits w) 0 else .fin false (bits % 2 ^ w) 0
  | none =>
    match fpSpecOf fmt with
    | some f => f.decode bits
    | none =>
      if fmt = 0x0B then specFp16.decode (cb.entry (bits % 16))
      else if fmt = 0x0C then specFp16.decode (cb.entry (bits % 256))
      else .nan

/-- Distance of an entry from a source on the extended line: none for infinitely far, else m * 2^e. R108 says only 'nearest in
value': from an infinite source every entry but the infinity of its sign is infinitely far, so that where a table lacks that
infinity its lowest index that holds no NaN is taken, with NX (DESIGN CHOICE, log entry 30). -/
def cbDist : FVal → FVal → Option (Nat × Int)
  | .fin s m e, .fin s' m' e' =>
    let q := min e e'
    some ((intUnits s m e q - intUnits s' m' e' q).natAbs, q)
  | .inf s, .inf t => if s = t then some (0, 0) else none
  | _, _ => none

/-- Whether the first distance is smaller than the second. -/
def cbNearer : Option (Nat × Int) → Option (Nat × Int) → Bool
  | some (m, e), some (m', e') => let q := min e e'; decide (m <<< (e - q).toNat < m' <<< (e' - q).toNat)
  | some _, none => true
  | none, _ => false

/-- The nearest entry that is no NaN, the lowest index among equally near ones (R108). -/
def cbNearest (v : FVal) : List (Nat × FVal) → Option (Nat × Option (Nat × Int)) → Option Nat
  | [], best => best.map Prod.fst
  | (_, .nan) :: es, best => cbNearest v es best
  | (i, x) :: es, best =>
    let d := cbDist v x
    match best with
    | none => cbNearest v es (some (i, d))
    | some (_, bd) => cbNearest v es (if cbNearer d bd then some (i, d) else best)

/-- Conversion to a codebook index (R108). NX is raised when the selected entry differs from the source (R54). -/
def encodeCodebook (n : Nat) (cb : Codebook) (src : Nat) (v : FVal) : Nat × FFlags :=
  let es := (List.range n).map fun i => (i, specFp16.decode (cb.entry i))
  match v with
  | .nan =>
    match es.find? (fun p => p.2 = FVal.nan) with
    | some p => (p.1, 0)
    | none => (0, flNV)
  | v =>
    match cbNearest v es none with
    | some i => (i, if FVal.cmp v (specFp16.decode (cb.entry i)) = some 0 then 0 else flNX)
    | none => (Config.codebookNoEntry src % n, flNX)

/-- Rounding a value once to the element format `fmt` (R36, R39, R54, R108); `src` is what a codebook corner
depends on. -/
def encodeElem (fmt : Nat) (mode : RMode) (cb : Codebook) (src : Nat) (v : FVal) : Nat × FFlags :=
  match intSpecOf fmt with
  | some (w, signed) => roundInt mode w signed v
  | none =>
    match fpSpecOf fmt with
    | some f => f.round mode v
    | none =>
      if fmt = 0x0B then encodeCodebook 16 cb src v
      else if fmt = 0x0C then encodeCodebook 256 cb src v
      else (0, 0)

/-- Formats a block scale applies to (R41). -/
def scaleAllowed (fmt : Nat) : Bool := [0x02, 0x06, 0x07, 0x08, 0x09, 0x0A].contains fmt

/-- Formats the matrix arrays accumulate exactly (R32, R50). -/
def exactFmt (fmt : Nat) : Bool :=
  [0x00, 0x01, 0x02, 0x03, 0x04, 0x06, 0x07, 0x08, 0x09, 0x0A, 0x0B, 0x0C, 0x0D].contains fmt

/-- Formats that enter the arrays in anchored mode (R32). -/
def anchoredFmt (fmt : Nat) : Bool := fmt == 0x0E || fmt == 0x0F

/-- e_lo of R50. -/
def eLo (fmt : Nat) (scaled : Bool) : Int :=
  match fmt with
  | 0x00 | 0x01 | 0x03 | 0x04 => 0
  | 0x02 => if scaled then -6 else 0
  | 0x06 => -1
  | 0x07 => -3
  | 0x08 => -4
  | 0x09 => -9
  | 0x0A => -16
  | _ => -24

/-- The value of a block-scaled element: an INT8 element stands for its integer times 2^-6 (R41). -/
def decodeScaledElem (fmt bits : Nat) : FVal :=
  if fmt = 0x02 then FVal.ofInt (sextInt bits 8) (-6) else decodeElem fmt bits []

/-- The draw of R56. -/
def srDraw (seed index : BitVec 64) : Nat :=
  let z := seed + index * 0x9E3779B97F4A7C15#64
  let z := (z ^^^ (z >>> 30)) * 0xBF58476D1CE4E5B9#64
  let z := (z ^^^ (z >>> 27)) * 0x94D049BB133111EB#64
  let z := z ^^^ (z >>> 31)
  (z >>> 48).toNat

/-- Block exponent offset E of R43 step 4. -/
def scaleE (fmt : Nat) : Int :=
  match fmt with
  | 0x06 | 0x07 => 2
  | 0x08 => 4
  | 0x09 => 8
  | 0x0A => 15
  | _ => 0

/-- The larger of two magnitudes as (mantissa, exponent). -/
def magMax (a b : Nat × Int) : Nat × Int :=
  let q := min a.2 b.2
  if a.1 <<< (a.2 - q).toNat < b.1 <<< (b.2 - q).toNat then b else a

/-- A block quantised under R43: scale field, element encodings and flags. `modes` gives each element's
rounding mode (SR draws differ by element). -/
def quantBlock (fmt : Nat) (vs : List (FVal × RMode)) : Nat × List Nat × FFlags :=
  if vs.any (fun p => match p.1 with | .fin .. => false | _ => true) then
    (0xFF, vs.map (fun _ => 0), flNV)
  else
    let m := vs.foldl (fun acc p => match p.1 with | .fin _ m e => magMax acc (m, e) | _ => acc) (0, (0 : Int))
    if m.1 = 0 then (0, vs.map (fun _ => 0), 0)
    else
      let lg : Int := (Nat.log2 m.1 : Int) + m.2
      let se : Int := max (-127) (min 127 (lg - scaleE fmt))
      let enc := vs.map fun p =>
        match p.1 with
        | .fin s m e =>
          if fmt = 0x02 then
            roundInt p.2 8 true (.fin s m (e - se + 6))
          else encodeElem fmt p.2 [] 0 (.fin s m (e - se))
        | _ => (0, 0)
      -- a saturation of step 5 sets no OF; E5M2 saturates to its largest magnitude as well
      let enc := enc.map fun (r : Nat × FFlags) =>
        let w := fmtWidth fmt |>.getD 8
        if fmt = 0x0A && r.1 % 128 = 0x7C then (r.1 - 1, r.2) else (r.1 % 2 ^ w, r.2)
      ((se + 127).toNat, enc.map Prod.fst, (enc.foldl (fun f r => f ||| r.2) 0) &&& ~~~flOF)

/-- An X128 word with its class tag (R47, R48): 0 finite, 1 +infinity, 2 −infinity, 3 NaN. -/
structure XAcc where
  w : BitVec 128 := 0
  tag : BitVec 2 := 0
  deriving DecidableEq, Repr

/-- The memory pattern that stands for NaN (R48). -/
def xNanPattern : BitVec 128 := 1#128 <<< 127

/-- The sum of R49. -/
def XAcc.add (a b : XAcc) : XAcc :=
  if a.tag = 3#2 ∨ b.tag = 3#2 ∨ (a.tag ≠ 0#2 ∧ b.tag ≠ 0#2 ∧ a.tag ≠ b.tag) then ⟨0, 3#2⟩
  else if a.tag ≠ 0#2 then ⟨0, a.tag⟩
  else if b.tag ≠ 0#2 then ⟨0, b.tag⟩
  else ⟨a.w + b.w, 0#2⟩

/-- Whether the sum of two finite words leaves the range of R49. -/
def XAcc.addOverflows (a b : XAcc) : Bool :=
  a.tag == 0#2 && b.tag == 0#2 &&
  (let s := a.w.toInt + b.w.toInt; decide (s < -(2 ^ 127) ∨ 2 ^ 127 ≤ s))

/-- The exact value at an anchor (R47). -/
def XAcc.value (a : XAcc) (anchor : Int) : FVal :=
  if a.tag = 3#2 then .nan
  else if a.tag = 1#2 then .inf false
  else if a.tag = 2#2 then .inf true
  else FVal.ofInt a.w.toInt (anchor - 64)

/-- Loading from memory (R48). -/
def XAcc.load (w : BitVec 128) : XAcc := if w = xNanPattern then ⟨0, 3#2⟩ else ⟨w, 0#2⟩

/-- Storing as X128 (R48): the pattern, and NV for a non-finite word. -/
def XAcc.store (a : XAcc) : BitVec 128 × FFlags :=
  if a.tag ≠ 0#2 then (xNanPattern, flNV) else (a.w, 0)

/-- Conversion into X128 at an anchor (R52). -/
def XAcc.ofValue (anchor : Int) : FVal → XAcc × FFlags
  | .nan => (⟨0, 3#2⟩, 0)
  | .inf s => (⟨0, if s then 2#2 else 1#2⟩, 0)
  | .fin s m e =>
    let (t, nx) := roundUnits .rne s m e (anchor - 64)
    if 2 ^ 127 ≤ t then (⟨0, if s then 2#2 else 1#2⟩, flOF)
    else (⟨BitVec.ofInt 128 (if s then -(t : Int) else t), 0⟩, if nx then flNX else 0)

/-- A product term placed at an anchor, truncated towards −infinity at bit 0 (R49, R51). -/
def XAcc.ofTerm (anchor : Int) : FVal → XAcc
  | .nan => ⟨0, 3#2⟩
  | .inf s => ⟨0, if s then 2#2 else 1#2⟩
  | .fin s m e =>
    let q := anchor - 64
    let n : Int := if s then -(m : Int) else m
    if q ≤ e then ⟨BitVec.ofInt 128 (n * 2 ^ (e - q).toNat), 0⟩
    else ⟨BitVec.ofInt 128 (n / 2 ^ (q - e).toNat), 0⟩

end Sys2Proof
end

