-- ==== Sys2Proof/Machine/Cache.lean ====
section
/-! DEFINITION. Slices, directory and L1 caches: the composed operations by which an access finds, fills, recalls
and writes lines (spec/10_spine_cache.md R268-R300, spec/03 R81, spec/06_memory_model.md R164, R165, R176). -/

namespace Sys2Proof.Machine

def SLine.sec (l : SLine) (i : Nat) : Sector :=
  if i = 0 then l.s0 else if i = 1 then l.s1 else if i = 2 then l.s2 else l.s3

def SLine.setSec (l : SLine) (i : Nat) (x : Sector) : SLine :=
  if i = 0 then { l with s0 := x } else if i = 1 then { l with s1 := x }
  else if i = 2 then { l with s2 := x } else { l with s3 := x }

def L1Line.sec (l : L1Line) (i : Nat) : L1Sector :=
  if i = 0 then l.s0 else if i = 1 then l.s1 else if i = 2 then l.s2 else l.s3

def L1Line.setSec (l : L1Line) (i : Nat) (x : L1Sector) : L1Line :=
  if i = 0 then { l with s0 := x } else if i = 1 then { l with s1 := x }
  else if i = 2 then { l with s2 := x } else { l with s3 := x }

/-- The bit mask of 32 bytes that a byte mask selects: `n` bytes from byte 0 on. -/
def expandMaskN (mask : BitVec 32) : Nat → BitVec 256
  | 0 => 0
  | n + 1 => (if mask.getLsbD n then (0xFF#256 <<< (8 * n)) else 0) ||| expandMaskN mask n

def expandMask (mask : BitVec 32) : BitVec 256 := expandMaskN mask 32

/-- `old` with the bytes of `mask` taken from `new`. -/
def overlay (mask : BitVec 32) (old new : BitVec 256) : BitVec 256 :=
  (old &&& ~~~(expandMask mask)) ||| (new &&& expandMask mask)

/-- Byte mask of `n` bytes from byte `o` of a sector. -/
def byteMask (o n : Nat) : BitVec 32 := BitVec.ofNat 32 ((2 ^ n - 1) <<< o)

def MemSys.lineAt (m : MemSys) (ln : Nat) : SLine := NMap.get {} m.lines ln
def MemSys.setLine (m : MemSys) (ln : Nat) (l : SLine) : MemSys := { m with lines := NMap.set {} m.lines ln l }
def MemSys.l1At (m : MemSys) (c : Nat) : L1 := NMap.get {} m.l1 c
def MemSys.setL1 (m : MemSys) (c : Nat) (x : L1) : MemSys := { m with l1 := NMap.set {} m.l1 c x }
def MemSys.l1Line (m : MemSys) (c ln : Nat) : L1Line := NMap.get {} (m.l1At c).lines ln
def MemSys.setL1Line (m : MemSys) (c ln : Nat) (l : L1Line) : MemSys :=
  m.setL1 c { m.l1At c with lines := NMap.set {} (m.l1At c).lines ln l }
def MemSys.tick (m : MemSys) : MemSys := { m with useCtr := m.useCtr + 1 }

/-- Whether a transaction is in progress on a line (R281). -/
def MemSys.lineBusy (m : MemSys) (ln : Nat) : Bool := m.txns.any fun x => x.line = ln

/-- RSV of R278: a reservation exists on some sector of the line. -/
def MemSys.rsv (m : MemSys) (ln : Nat) : Bool := m.resvs.any fun r => r.addr / 128 = ln

/-- Every reservation on a sector broken (R176). -/
def MemSys.breakSector (m : MemSys) (a : Nat) : MemSys :=
  { m with resvs := m.resvs.filter fun r => r.addr / 32 ≠ a / 32 }

/-- Counting and logging in SLC_ERR[s] and SLC_ERR_LOG[s] (R300). `kind`: 0 clean refetch, 1 poisoned, 2 tag
error, 3 directory error. -/
def slcLog (m : MemSys) (t : BitVec 64) (ln kind way secs : Nat) (isLost scrub : Bool) : MemSys :=
  let a := ln * 128
  let s := homeSlice m a
  let e := NMap.get {} m.slcErr s
  let log := BitVec.ofNat 192 (packFields [(1, 0, 1), (kind, 1, 2), (b2n isLost, 3, 1), (way, 4, 4),
    (homeSet m a, 8, 13), (secs, 21, 4), (b2n scrub, 25, 1), (if isLost then 0 else a, 64, 48), (t.toNat, 128, 64)])
  let e := if kind = 0 then { e with c0 := satAdd e.c0 1 0xFFFF } else if kind = 1 then { e with c1 := satAdd e.c1 1 0xFFFF }
    else if kind = 2 then { e with c2 := satAdd e.c2 1 0xFFFF } else { e with c3 := satAdd e.c3 1 0xFFFF }
  { m with slcErr := NMap.set {} m.slcErr s { e with log := log } }

/-- Sector `i` of a present line made valid and of good parity, as a request or the scrub would find it
(R297, R298, R309): a clean sector with bad parity is refetched, a dirty or spine-only one is poisoned. -/
def sliceFetchSec (m : MemSys) (t : BitVec 64) (ln i : Nat) (scrub : Bool) : MemSys :=
  let l := m.lineAt ln
  let s := l.sec i
  let a := ln * 128 + i * 32
  if s.valid then
    if s.parBad then
      if s.dirty || rangeOf a != .dram then
        slcLog (m.setLine ln (l.setSec i { s with poison := true, parBad := false })) t ln 1 l.way (2 ^ i) false scrub
      else
        let (m, sd) := dramRead m t a false
        slcLog (m.setLine ln (l.setSec i { valid := true, dirty := false, poison := sd.err, data := sd.data }))
          t ln 0 l.way (2 ^ i) false scrub
    else m
  else if rangeOf a == .dram then
    let (m, sd) := dramRead m t a false
    m.setLine ln (l.setSec i { valid := true, dirty := false, poison := sd.err, data := sd.data })
  else m.setLine ln (l.setSec i { valid := true, dirty := true, poison := false, data := 0 })

/-- Whether a write of bytes `mask` to the sector of `a` finds a parity error that cannot be masked: its requester receives a
bus error (R298). -/
def writeFinds (m : MemSys) (a : Nat) (mask : BitVec 32) : Bool :=
  let s := (m.lineAt (a / 128)).sec (a % 128 / 32)
  mask != BitVec.allOnes 32 && s.valid && s.parBad && (s.dirty || rangeOf a != .dram)

/-- Bytes merged into a sector of a present line (R298): all 32 bytes clear poison, fewer keep it. -/
def sliceMerge (m : MemSys) (t : BitVec 64) (ln i : Nat) (mask : BitVec 32) (d : BitVec 256) (bad : Bool) : MemSys :=
  if mask = BitVec.allOnes 32 then
    let l := m.lineAt ln
    m.setLine ln (l.setSec i { valid := true, dirty := true, poison := bad, data := d })
  else if mask = 0 then m
  else
    let m := sliceFetchSec m t ln i false
    let l := m.lineAt ln
    let s := l.sec i
    m.setLine ln (l.setSec i { s with dirty := true, poison := s.poison || bad, data := overlay mask s.data d })

/-- Dirty sectors an L1 line carries back: place, mask, data, and whether their parity has failed. -/
def l1Carried (x : L1Line) : List (SecPart × Bool) :=
  (List.range 4).filterMap fun i =>
    let s := x.sec i
    if s.dmask = 0 then none else some (⟨i, s.dmask, s.data⟩, s.parBad &&& s.dmask != 0)

/-- The same as they reach the slice from cluster `c`: its path may have lost their parity (R25). -/
def MemSys.carriedFrom (m : MemSys) (c : Nat) (x : L1Line) : List (SecPart × Bool) :=
  (l1Carried x).map fun p => (p.1, p.2 || m.vertIn.contains c)

/-- Carried sectors merged into a present line; where the line is not in the slice they go to stack DRAM. -/
def mergeCarried (m : MemSys) (t : BitVec 64) (ln : Nat) : List (SecPart × Bool) → MemSys
  | [] => m
  | (p, bad) :: ps => mergeCarried (sliceMerge m t ln p.sec p.mask p.data bad) t ln ps

/-- The copy an L1 holds of a line, in its array or its writeback buffer (R281). -/
def l1Copy (m : MemSys) (c ln : Nat) : L1Line :=
  let x := m.l1At c
  let w := NMap.get {} x.wbuf ln
  if w.present then w else NMap.get {} x.lines ln

/-- An L1 left without the line. -/
def l1Drop (m : MemSys) (c ln : Nat) : MemSys :=
  let x := m.l1At c
  m.setL1 c { x with lines := NMap.set {} x.lines ln {}, wbuf := NMap.set {} x.wbuf ln {} }

/-- An L1 line with every sector clean: a sector that held dirty bytes over a partial mask is dropped, one that was
whole stays as a clean copy. -/
def L1Line.clean (x : L1Line) : L1Line :=
  (List.range 4).foldl (fun l i =>
    let s := l.sec i
    l.setSec i (if s.mask = BitVec.allOnes 32 then { s with dmask := 0 } else { s with mask := 0, dmask := 0, data := 0, parBad := 0 })) x

/-- The district of a cluster (R194): the gathering row of its home site (R192, R193). -/
def districtOf (c : Nat) : Nat :=
  let f := c / 37500
  let r := c % 37500
  let l := r / 18750
  let y := (r % 18750) / 150
  let q := y + (if 47 ≤ y then 1 else 0) + (if 94 ≤ y then 1 else 0)
  16 * f + 8 * l + q / 16

/-- RCLI to one cluster: its dirty sectors merged, its copy gone (R279). -/
def snoopInvalidate (m : MemSys) (t : BitVec 64) (ln c : Nat) : MemSys :=
  let x := l1Copy m c ln
  let m := l1Drop m c ln
  if x.present then mergeCarried m t ln (m.carriedFrom c x) else m

/-- Clusters that hold a copy of a line. -/
def holders (m : MemSys) (ln : Nat) : List Nat :=
  (m.l1.filter fun e => (NMap.get {} e.2.lines ln).present || (NMap.get {} e.2.wbuf ln).present).map Prod.fst

/-- Every copy but `keep`'s invalidated, dirty data merged (R280, R282). -/
def invalidateOthers (m : MemSys) (t : BitVec 64) (ln : Nat) (keep : Option Nat) : MemSys :=
  let m := match (m.lineAt ln).dir with
    | .shc ds => m.observe t {
        ev := 0x23, kind := 5, src := homeSlice m (ln * 128)
        payload := ln * 128 + (packFields (ds.map fun d => (1, d, 1)) <<< 48) }
    | _ => m
  ((holders m ln).filter fun c => some c ≠ keep).foldl (fun m c => snoopInvalidate m t ln c) m

/-- RCL to the owner (R280): its dirty sectors merged, a clean copy left, the entry SH{o}. -/
def recallOwner (m : MemSys) (t : BitVec 64) (ln : Nat) : MemSys :=
  match (m.lineAt ln).dir with
  | .own o =>
    let x := l1Copy m o ln
    let m := mergeCarried m t ln (m.carriedFrom o x)
    let m := if (NMap.get {} (m.l1At o).wbuf ln).present then l1Drop m o ln
      else if x.present then m.setL1Line o ln x.clean else m
    m.setLine ln { m.lineAt ln with dir := .sh [o] }
  | _ => m

/-- Sector i written back where it is dirty: a parity error found on the way is logged and poisons it (R298). -/
def writeBackSec (t : BitVec 64) (ln : Nat) (m : MemSys) (i : Nat) : MemSys :=
  let a := ln * 128 + i * 32
  let s := (m.lineAt ln).sec i
  if s.valid && s.dirty && rangeOf a == .dram then
    let m := sliceFetchSec m t ln i false
    let s := (m.lineAt ln).sec i
    dramWrite m t a s.data s.poison
  else m

/-- The slice evicts a line (R269, R280): copies invalidated, dirty sectors written back, line freed. -/
def evictLine (m : MemSys) (t : BitVec 64) (ln : Nat) : MemSys :=
  ((List.range 4).foldl (writeBackSec t ln) (invalidateOthers m t ln none)).setLine ln {}

/-- Bytes of a sector of stack DRAM written past the slices. -/
def dramMerge (m : MemSys) (t : BitVec 64) (a : Nat) (mask : BitVec 32) (d : BitVec 256) (bad : Bool) : MemSys :=
  if mask = BitVec.allOnes 32 then dramWrite m t a d bad
  else
    let (m, sd) := dramRead m t a false
    dramWrite m t a (overlay mask sd.data d) (sd.err || bad)

/-- Tag and directory errors found in a line (R299). On a clean line the multicast's answers bring back what the owner of the
line has written (R279), which goes to stack DRAM. -/
def checkLine (m : MemSys) (t : BitVec 64) (ln : Nat) (scrub : Bool) : MemSys :=
  let l := m.lineAt ln
  if l.tagBad then
    let dirty := (List.range 4).any fun i => (l.sec i).valid && (l.sec i).dirty
    let m := slcLog m t ln 2 l.way 0 dirty scrub
    if dirty then ((holders m ln).foldl (fun m c => l1Drop m c ln) { m with lost := m.lost ++ [homeSlice m (ln * 128)] }).setLine ln {}
    else
      let parts := (holders m ln).flatMap fun c => m.carriedFrom c (l1Copy m c ln)
      let m := ((holders m ln).foldl (fun m c => l1Drop m c ln) m).setLine ln {}
      parts.foldl (fun m p => dramMerge m t (ln * 128 + 32 * p.1.sec) p.1.mask p.1.data p.2) m
  else if l.dirBad then
    let m := slcLog m t ln 3 l.way 0 false scrub
    let m := invalidateOthers m t ln none
    m.setLine ln { m.lineAt ln with dir := .unc, dirBad := false }
  else m

/-- The lines a slice holds in a set: line numbers. -/
def linesOfSet (m : MemSys) (s set : Nat) : List Nat :=
  NMap.keysWhere (fun ln l => l.present && homeSlice m (ln * 128) == s && homeSet m (ln * 128) == set) m.lines

def checkSet (m : MemSys) (t : BitVec 64) (a : Nat) : MemSys :=
  ((linesOfSet m (homeSlice m a) (homeSet m a)).filter fun ln => (m.lineAt ln).tagBad || (m.lineAt ln).dirBad).foldl
    (fun m ln => checkLine m t ln false) m

/-- Cacheable ways as a mask (R287). -/
def cacheableWays (m : MemSys) : BitVec 16 := BitVec.ofNat 16 (2 ^ (16 - m.anchorWays) - 1)

/-- The line with the smallest last use. -/
def leastUsed (m : MemSys) : List Nat → Option Nat
  | [] => none
  | ln :: rest =>
    match leastUsed m rest with
    | none => some ln
    | some x => if (m.lineAt x).used < (m.lineAt ln).used then some x else some ln

/-- Where a miss allocates (R289): a way of the mask, and the line that must leave it. -/
def pickWay (m : MemSys) (a : Nat) (mask : BitVec 16) : Option (Nat × Option Nat) :=
  let inSet := linesOfSet m (homeSlice m a) (homeSet m a)
  match lowestBelow 16 (fun w => mask.getLsbD w && !(inSet.any fun ln => (m.lineAt ln).way = w)) with
  | some w => some (w, none)
  | none =>
    let cand := inSet.filter fun ln =>
      mask.getLsbD (m.lineAt ln).way && (m.lineAt ln).anchored.isNone && !(m.lineAt ln).trace && !m.lineBusy ln
    let unc := cand.filter fun ln => (m.lineAt ln).dir = .unc
    match leastUsed m unc with
    | some v => some ((m.lineAt v).way, some v)
    | none => (leastUsed m cand).map fun v => ((m.lineAt v).way, some v)

/-- The line of `a` brought into its slice where a miss may allocate; its use recorded. -/
def ensureLine (m : MemSys) (t : BitVec 64) (a : Nat) (mask : BitVec 16) : MemSys :=
  let m := (checkSet m t a).tick
  let ln := a / 128
  let l := m.lineAt ln
  let hit := l.present && (l.sec (a % 128 / 32)).valid
  let m := m.observe t { ev := if hit then 0x20 else 0x21, kind := 5, src := homeSlice m a }
  if l.present then m.setLine ln { l with used := m.useCtr }
  else if rangeOf a != .dram then m
  else
    match pickWay m a mask with
    | none => m
    | some (w, victim) =>
      let m := match victim with | some v => evictLine m t v | none => m
      m.setLine ln { present := true, way := w, used := m.useCtr }

/-- A spine-only sector that no line backs holds no defined contents: a free value of its address. -/
def absentSector (a : Nat) : BitVec 256 := BitVec.ofNat 256 (Config.freeNat (a / 32))

/-- The sector of `a` read at the slice, after `ensureLine`. -/
def sliceRead (m : MemSys) (t : BitVec 64) (a : Nat) : MemSys × SecData :=
  let ln := a / 128
  let i := a % 128 / 32
  if (m.lineAt ln).present then
    let m := sliceFetchSec m t ln i false
    let s := (m.lineAt ln).sec i
    (m, ⟨s.data, s.poison⟩)
  else if rangeOf a == .dram then dramRead m t a false
  else (m, ⟨absentSector a, false⟩)

/-- Bytes of the sector of `a` written at the slice, after `ensureLine`. -/
def sliceWrite (m : MemSys) (t : BitVec 64) (a : Nat) (mask : BitVec 32) (d : BitVec 256) : MemSys :=
  let ln := a / 128
  let i := a % 128 / 32
  if (m.lineAt ln).present then sliceMerge m t ln i mask d false
  else if rangeOf a == .dram then dramMerge m t a mask d false
  else m

/-- An uncached agent's read of the sector of `a` (R280, R326): the owner is recalled, then the read performed. -/
def uncachedReadSec (m : MemSys) (t : BitVec 64) (mask : BitVec 16) (a : Nat) : MemSys × SecData :=
  if isNbRaw m a then dramRead m t a false
  else
    let m := ensureLine m t a mask
    sliceRead (recallOwner m t (a / 128)) t a

/-- An uncached agent's write to bytes of the sector of `a` (R176, R280): every copy invalidated, reservations on
the sector broken, then performed. -/
def uncachedWriteSec (m : MemSys) (t : BitVec 64) (mask : BitVec 16) (a : Nat) (bm : BitVec 32) (d : BitVec 256) : MemSys :=
  let m := (m.breakSector a).markDirty a
  if isNbRaw m a then sliceWrite m t a bm d
  else
    let ln := a / 128
    let m := ensureLine m t a mask
    let m := invalidateOthers m t ln none
    let m := if (m.lineAt ln).present then m.setLine ln { m.lineAt ln with dir := .unc } else m
    sliceWrite m t a bm d

/-- `n` bytes read uncached from `a` on, at most `fuel` sectors; the second result is the offset of the first byte that
came with an error. -/
def uncachedReadGo (t : BitVec 64) (mask : BitVec 16) : Nat → MemSys → Nat → Nat → Nat → MemSys × List Byte × Option Nat
  | 0, m, _, _, _ => (m, [], none)
  | fuel + 1, m, a, n, off =>
    if n = 0 then (m, [], none)
    else
      let k := min n (32 - a % 32)
      let (m, sd) := uncachedReadSec m t mask a
      let bytes := leBytes (sd.data.toNat >>> (8 * (a % 32))) k
      let (m, rest, e) := uncachedReadGo t mask fuel m (a + k) (n - k) (off + k)
      (m, bytes ++ rest, if sd.err then some off else e)

def uncachedRead (m : MemSys) (t : BitVec 64) (mask : BitVec 16) (a n : Nat) : MemSys × List Byte × Option Nat :=
  uncachedReadGo t mask (n / 32 + 2) m a n 0

/-- Bytes written uncached from `a` on, at most `fuel` sectors. -/
def uncachedWriteGo (t : BitVec 64) (mask : BitVec 16) : Nat → MemSys → Nat → List Byte → MemSys
  | 0, m, _, _ => m
  | fuel + 1, m, a, bs =>
    if bs.isEmpty then m
    else
      let o := a % 32
      let k := min bs.length (32 - o)
      let d := BitVec.ofNat 256 (leNat (bs.take k) <<< (8 * o))
      uncachedWriteGo t mask fuel (uncachedWriteSec m t mask a (byteMask o k) d) (a + k) (bs.drop k)

def uncachedWrite (m : MemSys) (t : BitVec 64) (mask : BitVec 16) (a : Nat) (bs : List Byte) : MemSys :=
  uncachedWriteGo t mask (bs.length / 32 + 2) m a bs

/-! #### The L1 side -/

/-- The directory with cluster `c` added as a sharer (R280). -/
def Dir.addSharer (d : Dir) (c : Nat) : Dir :=
  match d with
  | .unc => .sh [c]
  | .sh cs =>
    if cs.contains c then .sh cs
    else if cs.length < 4 then .sh (cs ++ [c])
    else .shc ((cs ++ [c]).map districtOf).eraseDups
  | .shc ds => if ds.contains (districtOf c) then .shc ds else .shc (ds ++ [districtOf c])
  | .own o => if o = c then .own o else .sh [o, c]

/-- The directory after an EVC from `c` (R280). -/
def Dir.evc (d : Dir) (c : Nat) : Dir :=
  match d with
  | .sh cs => let r := cs.filter (· ≠ c); if r.isEmpty then .unc else .sh r
  | d => d

/-- A clean line dropped by an L1 (EVC), or a dirty one written back (WB) (R279, R280). -/
def l1Evict (m : MemSys) (t : BitVec 64) (c ln : Nat) : MemSys :=
  let parts := m.carriedFrom c (m.l1Line c ln)
  let m := l1Drop m c ln
  if parts.isEmpty then m.setLine ln { m.lineAt ln with dir := (m.lineAt ln).dir.evc c }
  else
    let m := mergeCarried m t ln parts
    m.setLine ln { m.lineAt ln with dir := if (m.lineAt ln).dir = .own c then .unc else (m.lineAt ln).dir }

/-- Room for line `ln` in the L1 of `c`: 4 ways of 16 sets, least recently used leaves (R81); a victim whose
line has a transaction in progress moves to the writeback buffer. -/
def l1Room (m : MemSys) (t : BitVec 64) (c ln : Nat) : MemSys :=
  let x := m.l1At c
  if (NMap.get {} x.lines ln).present then m
  else
    let inSet := x.lines.filter fun e => e.1 % 16 = ln % 16
    if inSet.length < 4 then m
    else
      match inSet with
      | [] => m
      | e :: es =>
        let v := es.foldl (fun b e => if e.2.used < b.2.used then e else b) e
        if m.lineBusy v.1 then
          m.setL1 c { x with lines := NMap.set {} x.lines v.1 {}, wbuf := NMap.set {} x.wbuf v.1 v.2 }
        else l1Evict m t c v.1

/-- A cached load of `n` bytes at `a` by cluster `c` (R81, R82, R280): the value, and whether a bus error comes
with it. -/
def l1Load (m : MemSys) (t : BitVec 64) (mask : BitVec 16) (c a n : Nat) : MemSys × Nat × Bool :=
  let val (d : BitVec 256) : Nat := (d.toNat >>> (8 * (a % 32))) % 2 ^ (8 * n)
  if isNbRaw m a then
    let (m, sd) := dramRead m t a false
    (m, val sd.data, sd.err)
  else
    let ln := a / 128
    let i := a % 128 / 32
    let bm := byteMask (a % 32) n
    let x := m.l1Line c ln
    let s := x.sec i
    if x.present && s.mask &&& bm == bm && s.parBad &&& bm == 0 then
      let m := m.tick
      (m.setL1Line c ln { x with used := m.useCtr }, val s.data, false)
    else if x.present && s.parBad &&& s.dmask &&& bm != 0 then (m, 0, true)
    else
      let m := ensureLine m t a mask
      if !(m.lineAt ln).present then
        let (m, sd) := sliceRead m t a
        (m, val sd.data, sd.err || m.vertOut.contains c)
      else
        let m := if (m.lineAt ln).dir = .own c then m else recallOwner m t ln
        let m := m.setLine ln { m.lineAt ln with dir := (m.lineAt ln).dir.addSharer c }
        let (m, sd) := sliceRead m t a
        if sd.err || m.vertOut.contains c then
          let m := if (m.l1Line c ln).present then m else m.setLine ln { m.lineAt ln with dir := (m.lineAt ln).dir.evc c }
          (m, val sd.data, true)
        else
          let m := (l1Room m t c ln).tick
          let x := m.l1Line c ln
          let s := x.sec i
          let d := overlay s.dmask sd.data s.data
          (m.setL1Line c ln ({ x with present := true, used := m.useCtr }.setSec i
            { mask := BitVec.allOnes 32, dmask := s.dmask, data := d, parBad := s.parBad &&& s.dmask }), val d, false)

/-- A cached store of `n` bytes at `a` by cluster `c` (R165, R176, R279, R280, R283). -/
def l1Store (m : MemSys) (t : BitVec 64) (mask : BitVec 16) (c a n v : Nat) : MemSys :=
  let bm := byteMask (a % 32) n
  let d := BitVec.ofNat 256 ((v % 2 ^ (8 * n)) <<< (8 * (a % 32)))
  let ln := a / 128
  let i := a % 128 / 32
  if isNbRaw m a || m.rsv ln then uncachedWriteSec m t mask a bm d
  else
    let m := ensureLine m t a mask
    if !(m.lineAt ln).present then sliceWrite m t a bm d
    else
      let m := if (m.lineAt ln).dir = .own c then m
        else
          let m := invalidateOthers (m.markDirty a) t ln (some c)
          m.setLine ln { m.lineAt ln with dir := .own c }
      let m := (l1Room m t c ln).tick
      let x := m.l1Line c ln
      let s := x.sec i
      m.setL1Line c ln ({ x with present := true, used := m.useCtr }.setSec i
        { mask := s.mask ||| bm, dmask := s.dmask ||| bm, data := overlay bm s.data d, parBad := s.parBad &&& ~~~bm })

/-! #### Reservations (R175-R177) -/

/-- A new reservation: the lane's earlier one is replaced, and a slice with 1,024 displaces its oldest. -/
def addResv (m : MemSys) (g : Grp) (lane a width : Nat) : MemSys :=
  let s := homeSlice m a
  let rs := m.resvs.filter fun r => !(r.grp = g && r.lane = lane)
  let inS := rs.filter fun r => r.slice = s
  let rs := if 1024 ≤ inS.length then
      match inS with
      | [] => rs
      | r :: t =>
        let old := t.foldl (fun b x => if x.seq < b.seq then x else b) r
        rs.filter fun x => x.seq ≠ old.seq
    else rs
  { m with resvs := rs ++ [⟨g, lane, a, width, s, m.resvSeq⟩], resvSeq := m.resvSeq + 1 }

def findResv (m : MemSys) (g : Grp) (lane : Nat) : Option Resv := m.resvs.find? fun r => r.grp = g && r.lane = lane

def dropResv (m : MemSys) (g : Grp) (lane : Nat) : MemSys :=
  { m with resvs := m.resvs.filter fun r => !(r.grp = g && r.lane = lane) }

/-- Reservations of a whole group broken (R176). -/
def dropGroupResvs (m : MemSys) (g : Grp) : MemSys := { m with resvs := m.resvs.filter fun r => r.grp ≠ g }

/-! #### Slice atomics (R284, R285) -/

/-- Width in bytes of a slice operation. -/
def sliceOpWidth : SliceOp → Nat
  | .add64 _ | .xchg64 _ | .cas64 .. => 8
  | .addX128 _ => 16
  | .saddX128 .. => 32
  | _ => 4

/-- ADD.X128 of one word on a memory word (R285). -/
def xAddMem (old v : BitVec 128) : BitVec 128 := ((XAcc.add (XAcc.load old) (XAcc.load v)).store).1

/-- The new contents of the location from the old. -/
def sliceOpApply (op : SliceOp) (old : Nat) : Nat :=
  let o32 := BitVec.ofNat 32 old
  let o64 := BitVec.ofNat 64 old
  match op with
  | .add32 v => (o32 + v).toNat
  | .minS32 v => if v.slt o32 then v.toNat else o32.toNat
  | .minU32 v => if v.ult o32 then v.toNat else o32.toNat
  | .maxS32 v => if o32.slt v then v.toNat else o32.toNat
  | .maxU32 v => if o32.ult v then v.toNat else o32.toNat
  | .and32 v => (o32 &&& v).toNat
  | .or32 v => (o32 ||| v).toNat
  | .xor32 v => (o32 ^^^ v).toNat
  | .xchg32 v => v.toNat
  | .cas32 c n => if o32 = c then n.toNat else o32.toNat
  | .add64 v => (o64 + v).toNat
  | .xchg64 v => v.toNat
  | .cas64 c n => if o64 = c then n.toNat else o64.toNat
  | .addX128 v => (xAddMem (BitVec.ofNat 128 old) v).toNat
  | .saddX128 lo hi => (xAddMem (BitVec.ofNat 128 old) lo).toNat +
      ((xAddMem (BitVec.ofNat 128 (old >>> 128)) hi).toNat <<< 128)

/-- One slice operation at `a` (R172, R280, R284): every copy invalidated, the old value read, the new one written
as one step. A poisoned sector gives a bus error and nothing is written (R298). -/
def sliceAtomicAt (m : MemSys) (t : BitVec 64) (mask : BitVec 16) (a : Nat) (op : SliceOp) : MemSys × Nat × Bool :=
  let n := sliceOpWidth op
  let ln := a / 128
  let m := m.observe t { ev := 0x22, kind := 5, src := homeSlice m a }
  let m := ensureLine m t a mask
  let m := invalidateOthers m t ln none
  let m := if (m.lineAt ln).present then m.setLine ln { m.lineAt ln with dir := .unc } else m
  let (m, sd) := sliceRead m t a
  let old := (sd.data.toNat >>> (8 * (a % 32))) % 2 ^ (8 * n)
  if sd.err then (m, old, true)
  else
    let m := (m.breakSector a).markDirty a
    (sliceWrite m t a (byteMask (a % 32) n) (BitVec.ofNat 256 (sliceOpApply op old <<< (8 * (a % 32)))), old, false)

end Sys2Proof.Machine
end

