-- ==== Sys2Proof/Machine/Ops.lean ====
section
/-! DEFINITION. The shared operations over the state: access to clusters, groups, partitions and queues, raising a
fault (R88), and the issue of one instruction by a group (R69-R74, R84, R94). -/

namespace Sys2Proof.Machine

def State.cluster (s : State) (c : Nat) : Cluster := NMap.get {} s.cl c
def State.setCluster (s : State) (c : Nat) (x : Cluster) : State := { s with cl := NMap.set {} s.cl c x }
def State.part (s : State) (p : Nat) : Part := NMap.get {} s.parts p
def State.setPart (s : State) (p : Nat) (x : Part) : State := { s with parts := NMap.set {} s.parts p x }
def State.ctx (s : State) (k : Nat) : Ctx := NMap.get {} s.ctxs k
def State.setCtx (s : State) (k : Nat) (x : Ctx) : State := { s with ctxs := NMap.set {} s.ctxs k x }
def State.queue (s : State) (f q : Nat) : Queue := NMap.get {} s.queues (16 * f + q)
def State.setQueue (s : State) (f q : Nat) (x : Queue) : State := { s with queues := NMap.set {} s.queues (16 * f + q) x }

/-- Key of group slot `slot` of core `core` in a cluster's map. -/
def gKey (core slot : Nat) : Nat := 4 * core + slot

def Cluster.group (c : Cluster) (core slot : Nat) : Group := NMap.get {} c.groups (gKey core slot)
def Cluster.setGroup (c : Cluster) (core slot : Nat) (g : Group) : Cluster :=
  { c with groups := NMap.set {} c.groups (gKey core slot) g }
def Cluster.block (c : Cluster) (b : Nat) : Block := NMap.get {} c.blocks b
def Cluster.setBlock (c : Cluster) (b : Nat) (x : Block) : Cluster := { c with blocks := NMap.set {} c.blocks b x }

def State.group (s : State) (g : Grp) : Group := (s.cluster g.cl).group g.core g.slot
def State.setGroup (s : State) (g : Grp) (x : Group) : State :=
  s.setCluster g.cl ((s.cluster g.cl).setGroup g.core g.slot x)

/-- Everything sent out of the block, with one more item. -/
def State.send (s : State) (o : Out) : State := { s with out := s.out ++ [o] }

/-- A free bit, and the counter advanced. -/
def State.freeBool (s : State) : Bool × State := (Config.freeBool s.freeCtr, { s with freeCtr := s.freeCtr + 1 })

/-- A free number, and the counter advanced. -/
def State.freeNat (s : State) : Nat × State := (Config.freeNat s.freeCtr, { s with freeCtr := s.freeCtr + 1 })

/-- The ways a partition's misses may allocate in (R288); an agent that acts for no partition (64) uses all cacheable ways
(R289). -/
def State.ways (s : State) (p : Nat) : BitVec 16 := if p < 64 then (NMap.get {} s.mem.partq p).allocMask else cacheableWays s.mem

/-- The partition an agent acts for; 64 for none. -/
def partOpt (p : Nat) : Option Nat := if p < 64 then some p else none

/-- The function whose requests a partition's work sends to the host (R335). -/
def hostFn (p : Nat) : Nat := if p < 64 then p + 1 else 0

/-- The scalar register `sN` of a group. -/
def Group.s (g : Group) (n : Nat) : Word := NMap.get 0 g.sregs n
def Group.setS (g : Group) (n : Nat) (v : Word) : Group := { g with sregs := NMap.set 0 g.sregs n v, sBad := g.sBad.filter (· ≠ n) }

/-- The predicate register `pN` of a group; all ones at the start of a block (R65). -/
def Group.p (g : Group) (n : Nat) : BitVec 8 := NMap.get 0xFF#8 g.preds n
def Group.setP (g : Group) (n : Nat) (v : BitVec 8) : Group :=
  { g with preds := NMap.set 0xFF#8 g.preds n v, pBad := g.pBad.filter (· ≠ n) }

/-- The 48-bit address in scalar pair k (R97). -/
def Group.pair (g : Group) (k : Nat) : Nat := (g.s (2 * k)).toNat + 2 ^ 32 * ((g.s (2 * k + 1)).toNat % 2 ^ 16)

/-- Place of lane `i` of vector register `r` of a group in its core's register file (R63). -/
def vIndex (g : Grp) (gr : Group) (r i : Nat) : Nat := g.core * 1024 + gr.vbase + 8 * r + i

/-- A vector register's value in one lane. -/
def Cluster.v (c : Cluster) (g : Grp) (gr : Group) (r i : Nat) : Word := NMap.get 0 c.vrf (vIndex g gr r i)
def Cluster.setV (c : Cluster) (g : Grp) (gr : Group) (r i : Nat) (x : Word) : Cluster :=
  { c with vrf := NMap.set 0 c.vrf (vIndex g gr r i) x, vrfBad := c.vrfBad.filter (· ≠ vIndex g gr r i) }

/-- `n` consecutive registers of a lane as one little-endian number (R97, R112). -/
def Cluster.vWide (c : Cluster) (g : Grp) (gr : Group) (r i : Nat) : Nat → Nat
  | 0 => 0
  | n + 1 => (c.v g gr r i).toNat + 2 ^ 32 * Cluster.vWide c g gr (r + 1) i n

def Cluster.setVWide (c : Cluster) (g : Grp) (gr : Group) (r i x : Nat) : Nat → Cluster
  | 0 => c
  | n + 1 => Cluster.setVWide (c.setV g gr r i (BitVec.ofNat 32 x)) g gr (r + 1) i (x / 2 ^ 32) n

/-! #### Allocation tables (R78, R247) -/

/-- Whether an address range lies in one entry of type `typ` of an allocation table. -/
def allocCovers (al : NMap Alloc) (typ : BitVec 2) (a n : Nat) : Bool :=
  al.any fun e => e.2.typ = typ && decide (e.2.basePage * 4096 ≤ a) && decide (a + n ≤ (e.2.basePage + e.2.pages) * 4096)

/-- Whether a range touches an entry of type `typ`. -/
def allocTouches (al : NMap Alloc) (typ : BitVec 2) (a n : Nat) : Bool :=
  al.any fun e => e.2.typ = typ && decide (e.2.basePage * 4096 < a + n) && decide (a < (e.2.basePage + e.2.pages) * 4096)

/-- A data access a context may make: inside one data entry, and no control register (R78, R84, R560). -/
def dataAllowed (s : State) (p a n : Nat) : Bool :=
  allocCovers (s.part p).allocs 1#2 a n && rangeOf a != .control && rangeOf a != .unbacked

/-- A fetch a context may make (R84). -/
def codeAllowed (s : State) (p a n : Nat) : Bool := allocCovers (s.part p).allocs 2#2 a n

/-! #### Faults (R88 steps 1 and 2) -/

/-- Every group of partition `p` in a cluster stops issue (R88 step 2). -/
def stopGroups (c : Cluster) (p : Nat) : Cluster :=
  { c with groups := NMap.mapVals {} (fun _ g =>
      if g.live && (c.block g.bslot).part = p then { g with stopped := true } else g) c.groups }

/-- A fault of partition `p` detected: stamped, noted for the fault event, and the detecting cluster's groups of
the partition stopped (R88, R90). -/
def noteFault (s : State) (p : Nat) (n : FaultNote) : State :=
  let s := s.setPart p { s.part p with notes := (s.part p).notes ++ [n] }
  s.setCluster n.cluster (stopGroups (s.cluster n.cluster) p)

/-- A fault raised by an instruction of a group (R87, R91). -/
def groupFault (s : State) (g : Grp) (cls : Nat) (lanes : BitVec 8) (addr : Nat) : State :=
  let gr := s.group g
  let b := (s.cluster g.cl).block gr.bslot
  noteFault s b.part {
    cls := cls, time := s.time, cluster := g.cl, inGroup := true, core := g.core, slot := g.slot,
    gidx := gr.gidx, ctx := some b.ctx, pc := gr.pc, laneMask := lanes, addr := addr }

/-- A fault of an asynchronous operation: it names the group that issued it, even if that group has exited
(R154, R563, R564). -/
def ownerFault (s : State) (cl : Nat) (o : ChainOwner) (cls : Nat) (pc : BitVec 48) (addr : Nat) : State :=
  noteFault s o.part {
    cls := cls, time := s.time, cluster := cl, inGroup := true, core := o.core, slot := o.slot,
    gidx := o.gidx, ctx := some o.ctx, pc := pc, laneMask := 0, addr := addr }

/-! #### Issue (R69-R76) -/

/-- The pops before a fetch (R74). -/
def popRec : List RcEntry → Group → Group
  | [], g => g
  | e :: es, g =>
    if g.pc = g.rpc then popRec es { g with pc := e.pc, active := e.mask, rpc := e.rpc, stack := es } else g

/-- RECONVERGENCE_POP: while pc = rpc the group takes the top of its stack (R74). -/
def Group.pop (g : Group) : Group := popRec g.stack g

/-- What the fields of an instruction use: vector registers named (R97) and those whose values are read, scalar registers and
those read, whether a field is illegal, its guard, the predicates read, and its length in words. -/
structure Uses where
  vr : List Nat := []
  vsrc : List Nat := []
  sr : List Nat := []
  ssrc : List Nat := sr
  ill : Bool := false
  pg : Nat := 0
  psrc : List Nat := if pg = 0 then [] else [pg]
  words : Nat := 1
  /-- whether it issues on the vector path (R69, R71) -/
  vector : Bool := true
  deriving DecidableEq, Repr

/-- What an instruction's own effect comes to: done (with the next pc where it is not the next word), a fault found
before any lane is performed, a fault found as lanes' data returned, or an instruction that cannot issue yet. -/
inductive Eff where
  | done (s : State) (npc : Option (BitVec 48) := none)
  | flt (cls : Nat) (lanes : BitVec 8) (addr : Nat)
  | late (s : State) (cls : Nat) (lanes : BitVec 8) (addr : Nat)
  | hold
  /-- as hold, with a hold of R407 counted -/
  | held (s : State)

/-- The executing lanes of R73. -/
def execLanes (gr : Group) (pg : Nat) : BitVec 8 := if pg = 0 then gr.active else gr.active &&& gr.p pg

/-- Registers of a group that await a result (R72, R121): destinations of host reads in flight. -/
def pendingV (s : State) (g : Grp) (r : Nat) : Bool :=
  s.hostReads.any fun h => match h.kind with
    | .lane g' _ vd n _ _ => g' = g && decide (vd ≤ r) && decide (r < vd + n)
    | _ => false

def pendingS (s : State) (g : Grp) (r : Nat) : Bool :=
  s.hostReads.any fun h => match h.kind with
    | .scalar g' sd _ => g' = g && sd == r
    | _ => false

/-- Whether a group holds a reservation. -/
def holdsResv (s : State) (g : Grp) : Bool := s.mem.resvs.any fun r => r.grp = g

/-- A group that may issue: resident, started, not ended, stopped or waiting at a barrier, in a running partition,
or in a freezing one while it holds a reservation (R77, R88, R354, R562). -/
def canIssue (s : State) (g : Grp) : Bool :=
  let c := s.cluster g.cl
  let gr := c.group g.core g.slot
  let b := c.block gr.bslot
  gr.live && !gr.ended && !gr.stopped && gr.barrier.isNone && b.used && !b.zeroing &&
    (match (s.part b.part).st with
     | .running => true
     | .frozen => (s.part b.part).freezing.isSome && holdsResv s g
     | _ => false)

/-- Lanes of `lanes` in which a source register's parity has failed (R86, R87). -/
def parityLanes (s : State) (g : Grp) (gr : Group) (lanes : BitVec 8) (vsrc : List Nat) : BitVec 8 :=
  let bad := (s.cluster g.cl).vrfBad
  if bad.isEmpty then 0
  else BitVec.ofNat 8 (packFields ((List.range 8).map fun i =>
    (b2n (lanes.getLsbD i && vsrc.any fun r => bad.contains (vIndex g gr r i)), i, 1)))

/-- Whether the parity of a scalar or predicate register that an instruction reads has failed (R86, R503); a vector instruction
reads its scalars in executing lanes only. -/
def parityScalar (gr : Group) (u : Uses) (lanes : BitVec 8) : Bool :=
  u.psrc.any gr.pBad.contains || ((!u.vector || lanes != 0) && u.ssrc.any gr.sBad.contains)

/-- The bytes a slice holds of a line, or stack DRAM behind it (R85). -/
def lineData (m : MemSys) (ln : Nat) : BitVec 1024 :=
  let sec (i : Nat) : BitVec 256 :=
    let x := (m.lineAt ln).sec i
    if x.valid then x.data else m.dramSector (ln * 128 + 32 * i)
  sec 3 ++ sec 2 ++ sec 1 ++ sec 0

/-- The instruction cache holds a line afterwards, filled from its slice where it was absent (R85). -/
def icTouch (m : MemSys) (c : Cluster) (ln : Nat) : Cluster :=
  let now := c.icache.foldl (fun m l => max m (l.used + 1)) 0
  let data := match c.icache.find? fun l => l.line = ln with
    | some l => l.data
    | none => lineData m ln
  let rest := c.icache.filter fun l => l.line ≠ ln
  let inSet := rest.filter fun l => l.line % 8 = ln % 8
  let rest := if inSet.length < 4 then rest
    else
      let least := inSet.foldl (fun m l => min m l.used) now
      rest.filter fun l => !(l.line % 8 = ln % 8 && l.used = least)
  { c with icache := rest ++ [⟨ln, now, data⟩] }

/-- The group with its pops done (R74). -/
def popped (s : State) (g : Grp) : State := s.setGroup g (s.group g).pop

/-- The lines that hold an instruction of `words` words. -/
def fetchLines (pc : BitVec 48) (words : Nat) : List Nat := (pc.toNat / 128) :: (if words = 2 then [(pc + 4).toNat / 128] else [])

/-- The state in which a group is about to execute: pops done, the instruction's lines in the instruction cache. -/
def fetched (s : State) (g : Grp) (words : Nat) : State :=
  let c := s.cluster g.cl
  let gr := (c.group g.core g.slot).pop
  s.setCluster g.cl (((fetchLines gr.pc words).foldl (icTouch s.mem) c).setGroup g.core g.slot gr)

/-- The group's pc moved past an instruction of `words` words, or to where it went; the state otherwise as the
instruction's effect left it. -/
def advance (s : State) (g : Grp) (words : Nat) (npc : Option (BitVec 48)) : State :=
  let gr := s.group g
  s.setGroup g { gr with pc := match npc with | some p => p | none => gr.pc + BitVec.ofNat 48 (4 * words) }

/-- The class and address of a fetch that is no fetch of code (R84, R94): the first word that lies outside. -/
def fetchFault (s : State) (p : Nat) (pc : BitVec 48) (words : Nat) : Option Nat :=
  if !codeAllowed s p pc.toNat 4 then some pc.toNat
  else if words = 2 && !codeAllowed s p (pc + 4).toNat 4 then some (pc + 4).toNat
  else none

/-- Whether the belay controller holds a cycle of a class: the first of every 16, as many as the level (R461). -/
def heldCycle (s : State) (cls cycle : Nat) : Bool := decide (cycle % 16 < NMap.get 0 s.pwr.levels cls)

/-- Whether the present fabric cycle is held in the half of a cluster (R437): no vector-path issue, no matrix beat (R461). -/
def halfHeld (s : State) (cl : Nat) : Bool := heldCycle s (2 * (cl / 37500) + cl % 150 / 75) s.fab.cycle

/-- One instruction issued by a group: turned away where the group may not issue or a register it names awaits a
result; else its pops and fetch, its encoding checks, its parity checks, then `body`. An illegal encoding faults whether or not a
lane executes: R97 and R126 name no exception, and the Situations row of spec/04 for an instruction without executing lanes is
read of what its lanes would do (log 29). -/
def coreStep (s : State) (g : Grp) (u : Uses) (body : State → Group → Block → BitVec 8 → Eff) : State :=
  if !canIssue s g || (u.vector && halfHeld s g.cl) then s
  else if u.vr.any (pendingV s g) || u.sr.any (pendingS s g) then s
  else
    let gr := (s.group g).pop
    let b := (s.cluster g.cl).block gr.bslot
    match fetchFault s b.part gr.pc u.words with
    | some a => groupFault (popped s g) g 3 0 a
    | none =>
      let s1 := fetched s g u.words
      if u.ill || u.vr.any (fun r => decide (b.vregs ≤ r)) then groupFault s1 g 1 0 0
      else
        let lanes := execLanes gr u.pg
        let par := parityLanes s1 g gr lanes u.vsrc
        let bad := par != 0 || parityScalar gr u lanes
        let s1 := (s1.acting (some b.part)).observe { ev := if u.vector then 0x01 else 0x02, part := some b.part, kind := 4, src := g.cl }
        match body s1 gr b lanes with
        | .done s2 npc => if bad then groupFault s1 g 5 par 0 else advance s2 g u.words npc
        | .flt cls ls a => if bad && decide (5 < cls) then groupFault s1 g 5 par 0 else groupFault s1 g cls ls a
        | .late s2 cls ls a => if bad then groupFault s1 g 5 par 0 else groupFault s2 g cls ls a
        | .hold => s
        | .held s2 => s2

/-- Sticky exception flags of a group raised (R57, R123). -/
def raiseFlags (s : State) (g : Grp) (f : BitVec 5) : State :=
  let gr := s.group g
  s.setGroup g { gr with flags := gr.flags ||| f }

end Sys2Proof.Machine
end

