-- ==== Sys2Proof/Machine/CmdOps.lean ====
section
/-! DEFINITION. Shared operations of the command processor: packets, replies, partitions' clusters and the step 4 of
R88 that drops a partition's work (spec/12_host_command_protocol.md R344-R347, spec/03 R62, R88, R89). -/

namespace Sys2Proof.Machine

/-- A little-endian field of a packet: `n` bytes from byte `o`. -/
def Cmd.field (c : Cmd) (o n : Nat) : Nat := leNat ((c.bytes.drop o).take n)
def Cmd.opcode (c : Cmd) : Nat := c.field 0 1
def Cmd.irq (c : Cmd) : Bool := bitOf (c.field 1 1) 0
def Cmd.fence (c : Cmd) : Bool := bitOf (c.field 1 1) 1
def Cmd.chain (c : Cmd) : Bool := bitOf (c.field 1 1) 2

/-- The partition a command of function f acts for: named by the PF, implied by a VF (R346). -/
def Cmd.part (c : Cmd) (f : Nat) : Option Nat :=
  if f ≠ 0 then some (f - 1) else if bitOf (c.field 2 1) 6 then some (bitsOf (c.field 2 1) 5 0) else none

/-- A queue whose replies are still written: OPEN, or closing from OPEN (R342, R345). -/
def Queue.replying (q : Queue) : Bool := q.state = 1 || (q.state = 3 && q.closingOpen)

/-- A closing queue is CLOSED once its last started command has completed and its replies have been written (R342). -/
def Queue.settle (q : Queue) : Queue :=
  if q.state = 3 && !q.opening && q.cmds.isEmpty && (q.replies.isEmpty || !q.closingOpen) then
    { q with state := 0, enable := false, version := 0, closingOpen := false, replies := [], fetching := false, lastSeq := none, lastFailed := false }
  else q

/-- A command completed (R346, R347): its reply queued unless its outcome is lost (R345), and a later command that
chains on it told of a failure. -/
def completeCmd (s : State) (r : CmdRef) (status detail : Nat) (lo hi : BitVec 64) : State :=
  let q := s.queue r.f r.q
  match q.cmds.find? fun c => c.seq = r.seq with
  | none => s
  | some c =>
    let rep : Reply := {
      status := status, opcode := BitVec.ofNat 8 c.opcode, detail := detail, tag := BitVec.ofNat 32 (c.field 4 4)
      lo := lo, hi := hi, irq := c.irq, seq := r.seq, part := c.part r.f }
    let cmds := (q.cmds.filter fun x => x.seq ≠ r.seq).map fun x =>
      if x.prev = some r.seq && status ≠ 0 then { x with prevFailed := true } else x
    let q := { q with
      cmds := cmds
      replies := if q.replying then q.replies ++ [rep] else q.replies
      lastFailed := if q.lastSeq = some r.seq then decide (status ≠ 0) else q.lastFailed }
    let s := s.setQueue r.f r.q q.settle
    if s.cfgBusy = some r then { s with cfgBusy := none } else s

/-- Success with a result. -/
def succeed (s : State) (r : CmdRef) (lo hi : BitVec 64) : State := completeCmd s r 0 0 lo hi

/-- Success without a result. -/
def succeed0 (s : State) (r : CmdRef) : State := completeCmd s r 0 0 0 0

/-- A refusal. -/
def refuseCmd (s : State) (r : CmdRef) (status : Nat) : State := completeCmd s r status 0 0 0

/-- The clock of a domain runs again: its STOPPED mark clears (R432). -/
def clockBack (s : State) (code : Nat) : State :=
  if s.clk.stopped.isEmpty then s else { s with clk := { s.clk with stopped := s.clk.stopped.filter (· ≠ code) } }

/-! #### A partition's clusters (R62, R214) -/

def Rect.contains (r : Rect) (x y : Nat) : Bool := decide (r.x0 ≤ x) && decide (x ≤ r.x1) && decide (r.y0 ≤ y) && decide (y ≤ r.y1)
def Rect.width (r : Rect) : Nat := r.x1 + 1 - r.x0
def Rect.height (r : Rect) : Nat := r.y1 + 1 - r.y0
def rectSize : Option Rect → Nat
  | none => 0
  | some r => r.width * r.height

/-- The folio, leaf, y and x of a logical cluster number (R13). -/
def clFolio (c : Nat) : Nat := c / 37500
def clLeaf (c : Nat) : Nat := c % 37500 / 18750
def clY (c : Nat) : Nat := c % 18750 / 150
def clX (c : Nat) : Nat := c % 150
def clNum (f l y x : Nat) : Nat := f * 37500 + l * 18750 + y * 150 + x

def Part.rect (p : Part) (f : Nat) : Option Rect := if f = 0 then p.f0 else p.f1

/-- Whether a cluster belongs to a partition. -/
def Part.hasCluster (p : Part) (c : Nat) : Bool :=
  match p.rect (clFolio c) with
  | some r => r.contains (clX c) (clY c)
  | none => false

/-- The number of clusters of a partition: both leaves of each rectangle. -/
def Part.size (p : Part) : Nat := 2 * rectSize p.f0 + 2 * rectSize p.f1

/-- The clusters of one folio's part in increasing logical number. -/
def rectClusters (f : Nat) : Option Rect → List Nat
  | none => []
  | some r => (List.range 2).flatMap fun l => (List.range r.height).flatMap fun j =>
      (List.range r.width).map fun i => clNum f l (r.y0 + j) (r.x0 + i)

/-- All clusters of a partition in increasing logical number (R62). -/
def Part.clusters (p : Part) : List Nat := rectClusters 0 p.f0 ++ rectClusters 1 p.f1

/-- The partition cluster number of a cluster (R62). -/
def Part.index (p : Part) (c : Nat) : Nat :=
  let inRect (r : Rect) : Nat := clLeaf c * (r.width * r.height) + (clY c - r.y0) * r.width + (clX c - r.x0)
  if clFolio c = 0 then (match p.f0 with | some r => inRect r | none => 0)
  else 2 * rectSize p.f0 + (match p.f1 with | some r => inRect r | none => 0)

/-- The cluster with a given partition cluster number. -/
def Part.nth (p : Part) (n : Nat) : Nat :=
  let at_ (f : Nat) (r : Rect) (k : Nat) : Nat :=
    let a := r.width * r.height
    clNum f (k / a) (r.y0 + k % a / r.width) (r.x0 + k % a % r.width)
  match p.f0, p.f1 with
  | some r, none => at_ 0 r n
  | none, some r => at_ 1 r n
  | some r, some r' => if n < 2 * rectSize (some r) then at_ 0 r n else at_ 1 r' (n - 2 * rectSize (some r))
  | none, none => 0

/-- The partition that holds a cluster. -/
def partOf (s : State) (c : Nat) : Option Nat :=
  (s.parts.find? fun e => e.2.st ≠ .absent && e.2.hasCluster c).map Prod.fst

/-- Running contexts of a partition (R353), as keys of State.ctxs. -/
def State.runningCtxs (s : State) (p : Nat) : List Nat := NMap.keysWhere (fun _ c => c.live && c.part == p) s.ctxs

/-- Whether no context runs anywhere. -/
def State.noContext (s : State) : Bool := !(s.ctxs.any fun e => e.2.live)

/-- The present phase of a partition changed (R463). -/
def setPhase (s : State) (p : Nat) (t : Option (BitVec 6)) : State :=
  if NMap.get none s.pwr.pphase p = t then s
  else { s with pwr := { s.pwr with
    pphase := NMap.set none s.pwr.pphase p t
    phaseMoved := if s.pwr.phaseMoved.contains p then s.pwr.phaseMoved else s.pwr.phaseMoved ++ [p] } }

/-- A partition that becomes IDLE or ABSENT has no present phase (R463). -/
def clearPhase (s : State) (p : Nat) : State := setPhase s p none

/-- State of a partition when a context ends: IDLE after its last one, unless frozen (R353). -/
def endCtx (s : State) (k : Nat) : State :=
  let p := (s.ctx k).part
  let s := s.setCtx k {}
  if (s.part p).st = .running && (s.runningCtxs p).isEmpty then clearPhase (s.setPart p { s.part p with st := .idle }) p else s

/-- Whether the reply of a command waits to be written. -/
def replyWaits (s : State) (r : CmdRef) : Bool := (s.queue r.f r.q).replies.any fun x => x.seq = r.seq

/-- A context's LAUNCH completed; the context runs on until its reply is written (R353). -/
def finishCtx (s : State) (k status detail : Nat) (lo hi : BitVec 64) : State :=
  let x := s.ctx k
  completeCmd (s.setCtx k { x with ended := true }) x.cmd status detail lo hi

/-- Contexts whose reply has been written, or is lost, end. -/
def reapCtxs (s : State) : State :=
  (NMap.keysWhere (fun _ x => x.live && x.ended && !replyWaits s x.cmd) s.ctxs).foldl endCtx s

/-- Running contexts whose outcome is open. -/
def State.openCtxs (s : State) (p : Nat) : List Nat := NMap.keysWhere (fun _ c => c.live && c.part == p && !c.ended) s.ctxs

/-- Whether an outcome of a fault event or reset of the partition has still to be written, or such an event is open (R348, R357). -/
def State.eventOpen (s : State) (p : Nat) : Bool :=
  let x := s.part p
  !x.notes.isEmpty || x.reset.isSome || x.awaits.any (replyWaits s)

/-- A live descriptor slot freed: its stream unbound; the generation stays (R244). -/
def freeTd (c : Cluster) (i : Nat) : Cluster :=
  let t := NMap.get {} c.td i
  let unbind (m : NMap StreamSt) : NMap StreamSt :=
    NMap.mapVals {} (fun _ st => if st.bound = some i then { st with bound := none } else st) m
  { c with
    td := NMap.set {} c.td i { t with live := false, closing := false, freedBy := none, image := 0, red := none }
    tdBad := c.tdBad.filter (· ≠ i)
    streamIn := unbind c.streamIn, streamOut := unbind c.streamOut }

/-- Step 4 of R88 in one cluster of the partition: queued work dropped, group slots, registers, scratch, block
slots and descriptor slots released, the array's work discarded without counting (R144). -/
def clearCluster (c : Cluster) : Cluster :=
  let c := (NMap.keysWhere (fun _ t => t.live || t.closing) c.td).foldl freeTd c
  { c with
    groups := [], blocks := [], offers := []
    mx := { c.mx with queues := [], current := none, drain := none, drained := [], incomplete := [], held := [] }
    tdOps := []
    streamIn := NMap.mapVals {} (fun _ st => { st with buf := [] }) c.streamIn
    streamOut := NMap.mapVals {} (fun _ st => { st with buf := [] }) c.streamOut }

/-- The units' side of step 4 of R88 for partition `p`: the clusters cleared, host reads of its work dropped, its requests
that wait at slices dropped, reservations broken, its near-bank queues aborted (R333). -/
def dropPartition (s : State) (p : Nat) : State :=
  let part := s.part p
  let s := { s with cl := NMap.mapVals {} (fun k c => if part.hasCluster k then clearCluster c else c) s.cl }
  let mem := { s.mem with
    resvs := s.mem.resvs.filter fun r => !part.hasCluster r.grp.cl
    nbu := NMap.mapVals {} (fun _ n =>
      if n.ownerValid && n.owner.toNat = p then nbAbort n else n) s.mem.nbu }
  let mine (q : SliceReq) : Bool := q.part == some p
  let cluster (r : SliceMsg) : Bool := match r with
    | .rd c _ | .own c _ | .evc c | .wb c _ => part.hasCluster c
    | _ => false
  { s with
    mem := { mem with txns := mem.txns.map fun x => if cluster x.req then { x with req := .maint 0 } else x }
    spine := { s.spine with
      sliceQ := NMap.mapVals {} (fun _ q => { q with
        ports := q.ports.filter fun r => !mine r, waiting := q.waiting.filter fun r => !mine r
        queue := q.queue.filter fun e => !mine e.req && !(e.taken && cluster e.req.msg), holds := q.holds.filter fun h => h.1 ≠ p }) s.spine.sliceQ
      chanQ := NMap.mapVals {} (fun _ q => { q with
        waiting := q.waiting.filter fun r => !mine r, queue := q.queue.filter fun r => !mine r }) s.spine.chanQ }
    hostReads := s.hostReads.filter fun h => match h.kind with
      | .lane g .. => !part.hasCluster g.cl
      | .scalar g .. => !part.hasCluster g.cl
      | .td cl => !part.hasCluster cl
      | .merge cl .. => !part.hasCluster cl
      | _ => true }

end Sys2Proof.Machine
end

