-- ==== Sys2Proof/Machine/Site.lean ====
section
/-! DEFINITION. Where routers lie: site codes, gatherings, spine ports, regions of partitions, renames, fences and the
registers of a router (spec/07_mesh_fabric.md R188-R196, R203, R214-R222; spec/08 R242). -/

namespace Sys2Proof.Machine

/-! #### Site codes and positions on the die (R191-R196) -/

def siteCode (folio leaf idx : Nat) : Nat := folio * 65536 + leaf * 32768 + idx
def siteFolio (c : Nat) : Nat := c / 65536
def siteLeaf (c : Nat) : Nat := c % 65536 / 32768
def siteIdx (c : Nat) : Nat := c % 32768

/-- P and Q of R193. -/
def homePx (x : Nat) : Nat := x + x / 25
def homePy (y : Nat) : Nat := y + b2n (decide (47 ≤ y)) + b2n (decide (94 ≤ y))

/-- Whether spare k exists in gathering g. -/
def spareExists (g k : Nat) : Bool := decide (k < 16) || (decide (k ≤ 40) && (g / 6 = 2 || g / 6 = 5 || g / 6 = 7))

def spareIdx (g k : Nat) : Nat := 18750 + 48 * k + g

/-- Whether a site index exists. -/
def idxValid (i : Nat) : Bool := decide (i < 18750) || spareExists ((i - 18750) % 48) ((i - 18750) / 48)

def siteValid (c : Nat) : Bool := decide (c < 131072) && idxValid (siteIdx c)

/-- Physical column and row of a site index. -/
def physOf (i : Nat) : Nat × Nat :=
  if i < 18750 then (homePx (i % 150), homePy (i / 150))
  else
    let (g, k) := ((i - 18750) % 48, (i - 18750) / 48)
    let (tx, ty) := (g % 6, g / 6)
    if k < 16 then (26 * tx + 25, 16 * ty + k) else (26 * tx + k - 16, 16 * ty + 15)

/-- Gathering of a physical site. -/
def physGath (px py : Nat) : Nat := 6 * (py / 16) + px / 26

/-- The site index at a physical column and row. -/
def idxAt (px py : Nat) : Nat :=
  let g := physGath px py
  if px % 26 = 25 then spareIdx g (py % 16)
  else if py = 47 || py = 95 || py = 127 then spareIdx g (px % 26 + 16)
  else
    let q := py - b2n (decide (48 ≤ py)) - b2n (decide (96 ≤ py))
    q * 150 + (px - px / 26)

/-- The gathering of a site code, with its folio: the key of State.fab.gaths. -/
def siteGath (c : Nat) : Nat := let (x, y) := physOf (siteIdx c); physGath x y
def gathKey (folio g : Nat) : Nat := 48 * folio + g
def siteGathKey (c : Nat) : Nat := gathKey (siteFolio c) (siteGath c)

/-- The spine rows of the die (R195). -/
def spineRows : List Nat := (List.range 16).map fun r => 4 + 39 * r / 4

def isSpinePort (c : Nat) : Bool := spineRows.contains (physOf (siteIdx c)).1

/-- Distance on a line. -/
def dist (a b : Nat) : Nat := (a - b) + (b - a)

/-- The column of the home spine port of a site in column px (R196). -/
def homeSpineCol (px : Nat) : Nat :=
  (spineRows.filter fun r => r / 26 = px / 26).foldl (fun best r => if dist r px < dist best px then r else best)
    (((spineRows.filter fun r => r / 26 = px / 26).headD 0))

/-- The home site code of a logical cluster number. -/
def homeSite (cl : Nat) : Nat := siteCode (clFolio cl) (clLeaf cl) (cl % 18750)

def State.gath (s : State) (k : Nat) : Gath := NMap.get {} s.fab.gaths k
def State.setGath (s : State) (k : Nat) (x : Gath) : State := { s with fab := { s.fab with gaths := NMap.set {} s.fab.gaths k x } }
def State.router (s : State) (c : Nat) : Router := NMap.get {} s.fab.routers c
def State.setRouter (s : State) (c : Nat) (x : Router) : State := { s with fab := { s.fab with routers := NMap.set {} s.fab.routers c x } }
def State.folio (s : State) (f : Nat) : Folio := if f = 0 then s.fab.folio0 else s.fab.folio1
def State.setFolio (s : State) (f : Nat) (x : Folio) : State :=
  { s with fab := if f = 0 then { s.fab with folio0 := x } else { s.fab with folio1 := x } }

/-- The rename entry of a home site index (R220). -/
def Gath.renameOf (g : Gath) (home : Nat) : Option Rename := (g.renames.find? fun e => e.2.valid && e.2.home = home).map Prod.snd
def Gath.fenced (g : Gath) (idx : Nat) : Bool := g.fences.any fun e => e.2.valid && e.2.site = idx

/-- The site index where a logical position runs, in its gathering. -/
def Gath.siteOf (g : Gath) (home : Nat) : Nat :=
  match g.renameOf home with
  | some r => r.site
  | none => home

/-- The logical cluster number at a site: its home position unless that is renamed away, or the position renamed onto
it. A dead position stands at no site (R31). -/
def clusterAt (s : State) (c : Nat) : Option Nat :=
  let g := s.gath (siteGathKey c)
  let i := siteIdx c
  let home := if i < 18750 then (if (g.renameOf i).isNone then some i else none)
    else (g.renames.find? fun e => e.2.valid && e.2.site = i).map fun e => e.2.home
  match home with
  | none => none
  | some h =>
    if (s.folio (siteFolio c)).dead.contains h || g.fenced i || g.sealed.contains i then none
    else some (siteFolio c * 37500 + siteLeaf c * 18750 + h)

/-! #### Regions (R214-R216) -/

/-- Logical row's gathering row (R192). -/
def tyOf (y : Nat) : Nat := homePy y / 16

/-- Gatherings that a rectangle touches. -/
def rectGaths : Option Rect → List Nat
  | none => []
  | some r => (List.range 48).filter fun g =>
      decide (r.x0 / 25 ≤ g % 6) && decide (g % 6 ≤ r.x1 / 25) && decide (tyOf r.y0 ≤ g / 6) && decide (g / 6 ≤ tyOf r.y1)

/-- The region of a partition: keys of its gatherings. -/
def Part.region (p : Part) : List Nat := rectGaths p.f0 ++ (rectGaths p.f1).map (48 + ·)

/-- The partition whose region holds a gathering. -/
def gathPart (s : State) (k : Nat) : Option Nat := (s.parts.find? fun e => e.2.st ≠ .absent && e.2.region.contains k).map Prod.fst

def sitePart (s : State) (c : Nat) : Option Nat := gathPart s (siteGathKey c)

/-- LOCAL_OPEN: the cluster at the site is in service and of the router's partition. -/
def localOpen (s : State) (c : Nat) : Bool :=
  (s.folio (siteFolio c)).inService &&
  match sitePart s c, clusterAt s c with
  | some p, some cl => (s.part p).hasCluster cl
  | _, _ => false

/-- The router across a planar port or V; none at the edge of the leaf (R188). -/
def neighbour (c port : Nat) : Option Nat :=
  let (x, y) := physOf (siteIdx c)
  let at_ (x y : Nat) : Nat := siteCode (siteFolio c) (siteLeaf c) (idxAt x y)
  match port with
  | 1 => if x < 155 then some (at_ (x + 1) y) else none
  | 2 => if 0 < x then some (at_ (x - 1) y) else none
  | 3 => if y < 127 then some (at_ x (y + 1)) else none
  | 4 => if 0 < y then some (at_ x (y - 1)) else none
  | 5 => some (siteCode (siteFolio c) (1 - siteLeaf c) (siteIdx c))
  | _ => none

/-- The port at the other end of a link. -/
def farPort (port : Nat) : Nat := ([0, 2, 1, 4, 3, 5, 6] : List Nat).getD port 0

/-- Whether a router has a port at all. -/
def hasPort (c port : Nat) : Bool :=
  port == 0 || (port == 6 && isSpinePort c) || (decide (1 ≤ port) && decide (port ≤ 5) && (neighbour c port).isSome)

/-- EDGE_CLOSED: a planar port between a region and what lies outside it, at both ends. -/
def edgeClosed (s : State) (c port : Nat) : Bool :=
  decide (1 ≤ port) && decide (port ≤ 4) &&
    match neighbour c port with
    | some n => sitePart s c != sitePart s n
    | none => false

/-- FAB_RTR_CFG (R216). -/
def rtrCfg (s : State) (c : Nat) : BitVec 64 :=
  let p := sitePart s c
  BitVec.ofNat 64 (packFields [
    (p.getD 0, 0, 6), (b2n p.isSome, 6, 1), (packFields ((List.range 4).map fun i => (b2n (edgeClosed s c (i + 1)), i, 1)), 7, 4),
    (b2n (localOpen s c), 11, 1), (b2n (isSpinePort c), 12, 1), (b2n (s.router c).vBroken, 13, 1), (c, 14, 17),
    (siteGath c, 31, 6), (b2n ((s.gath (siteGathKey c)).sealed.contains (siteIdx c)), 37, 1)])

/-- FAB_FL_CTRL (R210): a region's routers hold the schedule of their partition. -/
def flCtrl (s : State) (c : Nat) : BitVec 64 :=
  let g := s.gath (siteGathKey c)
  let (a, r) := match sitePart s c with
    | some p => ((s.part p).schedArmed, (s.part p).schedRunning)
    | none => (false, false)
  BitVec.ofNat 64 (packFields [(g.periodM1.toNat, 0, 10), (b2n a, 10, 1), (b2n r, 11, 1)])

/-- All site codes of a gathering, both leaves. -/
def gathSites (k : Nat) : List Nat :=
  (List.range 2).flatMap fun l => (List.range 416).map fun i =>
    siteCode (k / 48) l (idxAt (26 * (k % 48 % 6) + i % 26) (16 * (k % 48 / 6) + i / 26))

/-- Every listed router of a partition's region changed. -/
def mapRegion (s : State) (p : Nat) (f : Router → Router) : State :=
  let reg := (s.part p).region
  { s with fab := { s.fab with routers := NMap.mapVals {} (fun c r => if reg.contains (siteGathKey c) then f r else r) s.fab.routers } }

/-- The partition's schedule stops; a flit still in the region's links goes no further (R210). -/
def stopSched (s : State) (p : Nat) : State :=
  mapRegion (s.setPart p { s.part p with schedRunning := false, schedArmed := false, schedC0 := none }) p fun r => { r with fl := [], leaving := r.leaving.filter fun l => l.stream.isNone }

/-- SRC of a header. -/
def flitSrc (h : BitVec 32) : Nat := bitsOf h.toNat 24 8

/-- A router without fixed-line flits and without the arbitrated flits that satisfy `q`; a packet that lost a flit loses the
rest too, and holds no output. -/
def Router.without (r : Router) (q : Flit → Bool) : Router :=
  let arb := r.arb.filter fun a => !q a.flit
  let arbIn := r.arbIn.filter fun x => !q x.flit
  let lost (k : Nat) : Bool := r.arb.any (fun a => q a.flit && 4 * a.port + a.vc == k) ||
    r.arbIn.any fun x => q x.flit && 4 * x.port + bitsOf x.flit.hdr.toNat 5 4 == k
  { r with
    fl := [], arb := arb, arbIn := arbIn, leaving := r.leaving.filter fun l => l.stream.isNone && !q l.flit
    grants := r.grants.filter fun g => !lost g.1
    hold := NMap.mapVals none (fun _ h => match h with | some k => if lost k then none else some k | none => none) r.hold
    open_ := NMap.mapVals none (fun k o => if lost k then some [] else o) r.open_ }

/-- Routers' part of step 4 of R88: fixed-line flits of the region dropped, and arbitrated flits from sites of the
region (R215). -/
def dropFabric (s : State) (p : Nat) : State :=
  let reg := (s.part p).region
  mapRegion s p fun r => r.without fun f => reg.contains (siteGathKey (flitSrc f.hdr))

end Sys2Proof.Machine
end

