-- ==== Sys2Proof/Machine/Cycle.lean ====
section
/-! DEFINITION. The fabric cycle counter and the spine cycle counter that follows it: route-table entries and the slots they
cover, what keeps a cycle from ending, and how a command that names a cycle brings the device to it (spec/00 R4, spec/07
R189, R195, R203, R205, R207, R210, spec/10 R275, spec/15 R422). -/

namespace Sys2Proof.Machine

/-! #### Spine cycles (R4, R195, R275, R422) -/

/-- The spine cycle that begins, or last began, in fabric cycle c: three fabric cycles hold two spine cycles (R422). -/
def spineCycleOf (c : Nat) : Nat := 2 * (c / 3) + b2n (decide (c % 3 ≠ 0))

/-- The fabric cycle in which spine cycle n begins (R422). -/
def fabricCycleOf (n : Nat) : Nat := 3 * (n / 2) + n % 2

/-- The spine-aligned cycles (R195). -/
def spineAligned (c : Nat) : Bool := c % 3 != 2

/-- The first spine-aligned cycle after c, in which a flit sent through SP enters the spine (R197). -/
def nextAligned (c : Nat) : Nat := if c % 3 = 0 then c + 1 else if c % 3 = 1 then c + 2 else c + 1

/-- The spine cycle counter of R275. -/
def State.spineCycle (s : State) : Nat := spineCycleOf s.fab.cycle

/-- OWNER of a slot, and of the slot of a spine cycle (R276). -/
def slotOwner (s : State) (k : Nat) : Nat := if k = 0 || k = 32 then 0x41 else NMap.get 0x40 s.spine.slots k
def slotAt (s : State) (cycle : Nat) : Nat := slotOwner s (cycle / 16 % 64)

/-- Fabric cycles in a spine frame of 1,024 spine cycles. -/
def frameCycles : Nat := 1536

/-- The slice to which a spine port attaches (R195): 128 folio + 8 r + py / 16. -/
def portSlice (c : Nat) : Nat :=
  let (px, py) := physOf (siteIdx c)
  128 * siteFolio c + 8 * (spineRows.findIdx (· = px)) + py / 16

/-- The home spine port of a site (R196). -/
def homeSpinePort (c : Nat) : Nat :=
  let (px, py) := physOf (siteIdx c)
  siteCode (siteFolio c) (siteLeaf c) (idxAt (homeSpineCol px) py)

/-! #### Route-table entries (R203) -/

structure Route where
  start : Nat
  count : Nat
  stride : Nat
  inMask : Nat
  outMask : Nat
  reduce : Bool
  streamIn : Nat
  streamOut : Nat
  valid : Bool
  deriving DecidableEq, Repr

def routeOf (w : BitVec 64) : Route :=
  let v := w.toNat
  { start := bitsOf v 9 0, count := bitsOf v 19 10 + 1, stride := bitsOf v 29 20, inMask := bitsOf v 36 30, outMask := bitsOf v 43 37
    reduce := bitOf v 44, streamIn := bitsOf v 48 45, streamOut := bitsOf v 52 49, valid := bitOf v 53 }

/-- The slots an entry covers. -/
def Route.slots (r : Route) : List Nat := (List.range r.count).map fun i => r.start + i * r.stride

def Route.covers (r : Route) (t : Nat) : Bool :=
  r.valid && (if r.count = 1 then t == r.start
    else decide (r.start ≤ t) && r.stride != 0 && (t - r.start) % r.stride == 0 && decide ((t - r.start) / r.stride < r.count))

/-- Ports of a mask. -/
def portsOf (m : Nat) : List Nat := (List.range 7).filter fun i => bitOf m i

/-- The schedule that runs at a router: c0 and the period. -/
def runningAt (s : State) (c cycle : Nat) : Option (Nat × Nat) :=
  match sitePart s c with
  | some p =>
    let x := s.part p
    match x.schedC0, x.sched with
    | some c0, some (_, pm1) => if x.schedRunning && decide (c0 ≤ cycle) then some (c0, pm1 + 1) else none
    | _, _ => none
  | none => none

/-- Whether a valid entry of a router covers the slot of a cycle and satisfies `q`. -/
def entryAt (s : State) (c cycle : Nat) (q : Route → Bool) : Bool :=
  match runningAt s c cycle with
  | some (c0, period) => (s.router c).routes.any fun e => (routeOf e.2).covers ((cycle - c0) % period) && q (routeOf e.2)
  | none => false

/-- Output o of a router lies in its slot mask at a cycle (R207). -/
def reservedAt (s : State) (c cycle o : Nat) : Bool := entryAt s c cycle fun e => bitOf e.outMask o

/-- A valid entry consumes input p of a router at a cycle. -/
def consumedAt (s : State) (c cycle p : Nat) : Bool := entryAt s c cycle fun e => bitOf e.inMask p

/-! #### The end of a cycle (R189) -/

/-- Whether a router has something to do in a cycle: a flit that stands in an input or leaves, an output allocated, a flit that
waits for one, or an entry that covers the slot. -/
def routerBusy (s : State) (c cycle : Nat) : Bool :=
  let r := s.router c
  r.fl.any (fun f => decide (f.cycle ≤ cycle)) || r.leaving.any (fun f => decide (f.cycle ≤ cycle)) || !r.grants.isEmpty || !r.arb.isEmpty ||
    entryAt s c cycle fun _ => true

/-- Every router in service has carried out the present cycle: one synchronous domain (R189). -/
def cycleOver (s : State) : Bool :=
  s.fab.routers.all fun e => !(s.folio (siteFolio e.1)).inService ||
    (e.2.arbIn.all (fun f => decide (s.fab.cycle < f.cycle)) && (decide (s.fab.cycle < e.2.nextCycle) || !routerBusy s e.1 s.fab.cycle))

/-- Nothing moves in the fabric and no schedule runs. -/
def fabricIdle (s : State) : Bool :=
  s.parts.all (fun e => !e.2.schedRunning) &&
    s.fab.routers.all fun e => e.2.fl.isEmpty && e.2.leaving.isEmpty && e.2.grants.isEmpty && e.2.arb.isEmpty && e.2.arbIn.isEmpty

/-! #### The start of a schedule (R210) -/

/-- START_TIME of a partition's region. -/
def Part.startTime (s : State) (x : Part) : BitVec 64 := ((x.region.head?).map fun k => (s.gath k).start).getD 0

/-- The start tick of an armed schedule has come. -/
def startDue (s : State) (x : Part) : Bool :=
  x.schedArmed && decide ((x.startTime s).toNat ≤ s.clk.master.toNat) && decide (x.schedTick.toNat ≤ s.clk.master.toNat)

/-- The first fabric cycle with c mod 3 = 0 that no router of the region has carried out. -/
def firstStart (s : State) (x : Part) : Nat :=
  if s.fab.cycle % 3 = 0 && s.fab.routers.all (fun e => !x.region.contains (siteGathKey e.1) || decide (e.2.nextCycle ≤ s.fab.cycle)) then s.fab.cycle
  else 3 * (s.fab.cycle / 3 + 1)

/-- No schedule whose start has come begins before cycle n. -/
def startsKept (s : State) (n : Nat) : Bool := s.parts.all fun e => !startDue s e.2 || decide (n ≤ firstStart s e.2)

/-! #### Held cycles (R461, R523) -/

/-- In-service clusters of a partition in the half of a leaf domain. -/
def clustersIn (s : State) (p d : Nat) : Nat :=
  let f := d / 2
  match (s.part p).rect f with
  | none => 0
  | some r =>
    if !(s.folio f).inService then 0
    else
      let lo := if d % 2 = 0 then 0 else 75
      let x0 := max r.x0 lo
      let x1 := min r.x1 (lo + 74)
      let dead := (s.folio f).dead.filter fun n => decide (x0 ≤ n % 150) && decide (n % 150 ≤ x1) && r.contains (n % 150) (n / 150)
      2 * ((x1 + 1 - x0) * r.height - dead.length)

/-- The clusters of a half that the scope of a selection word takes in; a folio out of service has none (R521, R522). -/
def halfInScope (s : State) (sel d : Nat) : Nat :=
  let k := bitsOf sel 10 8
  let v := bitsOf sel 27 11
  let dead := (s.folio (d / 2)).dead
  let ofPos (q : Nat → Bool) : Nat := (List.range 18750).countP fun i => i % 150 / 75 = d % 2 && !dead.contains i && q (gathOfPos (i % 150) (i / 150))
  if !(s.folio (d / 2)).inService then 0
  else if k = 1 then clustersIn s v d
  else if k = 4 then b2n (decide (2 * (v / 37500) + v % 150 / 75 = d) && !dead.contains (v % 18750))
  else if k = 3 then (if v / 96 = d / 2 then ofPos (· = v % 96 / 2) else 0)
  else if k = 0 || v = d / 2 then 2 * ofPos fun _ => true
  else 0

/-- Cycles of 0 to n - 1 that a level h holds. -/
def heldBefore (h n : Nat) : Nat := n / 16 * h + min (n % 16) h

/-- HELD events of the fabric cycles after the present one up to n: one per cluster of a half and held cycle (R523). -/
def countHeld (s : State) (n : Nat) : State :=
  let o := s.mem.obs
  let held (d : Nat) : Nat := let h := NMap.get 0 s.pwr.levels d; heldBefore h (n + 1) - heldBefore h (s.fab.cycle + 1)
  let sels := o.sel.filter fun e => bitOf e.2.toNat 29 && bitsOf e.2.toNat 7 0 == 0x09
  if sels.isEmpty then s
  else
    let acc := sels.foldl (fun m e => NMap.set 0 m e.1 (NMap.get 0 m e.1 +
      ((List.range 4).map fun d => if held d = 0 then 0 else held d * halfInScope s e.2.toNat d).sum)) o.acc
    { s with mem := { s.mem with obs := { o with acc := acc } } }

/-! #### Reaching a cycle -/

/-- The fabric brought to cycle n: it goes on by one when every router has carried out the present cycle, and over a run of
cycles in which nothing moves; never past the start of a schedule that is due, nor into a new spine frame, which
SPINE_FRAME_START begins. -/
def State.reach (s : State) (n limit : Nat) : Option State :=
  if n = s.fab.cycle then some s
  else if n < s.fab.cycle || !startsKept s n || decide (limit ≤ n) then none
  else if (if n = s.fab.cycle + 1 then cycleOver s else cycleOver s && fabricIdle s) then some { countHeld s n with fab := { s.fab with cycle := n } }
  else none

/-- The cycle at which the next spine frame begins. -/
def State.frameEnd (s : State) : Nat := frameCycles * (s.spine.frame.toNat + 1)

def State.toCycle (s : State) (n : Nat) : Option State := s.reach n s.frameEnd

end Sys2Proof.Machine
end

