-- ==== Sys2Proof/Machine/Events.lean ====
section
/-! DEFINITION. Events reported to the host, colophon records and RST_STATUS (spec/19_fault_coverage_and_colophon.md
R504-R515, spec/18 R497, spec/05 R155). -/

namespace Sys2Proof.Machine

/-- RST_STATUS (R497). -/
def rstStatus (r : Rst) : BitVec 64 :=
  BitVec.ofNat 64 (packFields [
    (r.step.toNat, 0, 4), (b2n r.ready, 4, 1), (b2n r.baseCamp, 5, 1), (r.failedStarts.toNat, 6, 2), (r.lastCause.toNat, 8, 4),
    (r.lastFailStep.toNat, 12, 4), (r.entry.toNat, 16, 3), (b2n r.exitArmed, 19, 1), (b2n r.fwImage, 20, 1),
    (b2n r.mgtImage, 21, 1), (b2n r.mgtRom, 22, 1), (b2n r.retainedPerr, 23, 1), (r.selftestRemaps.toNat, 24, 16),
    (r.linksQualified.toNat, 40, 7)])

/-- Whether `n` ns have passed on the supervisor's clock since a time. -/
def Rst.since (r : Rst) (t : BitVec 64) (n : Nat) : Bool := decide (n ≤ (r.sup - t).toNat)

/-- A wait or a step begins. -/
def Rst.enter (r : Rst) : Rst := { r with mark := r.sup, stepNs := 0 }

/-- The ring block after another. -/
def ringNext (b : Nat) : Nat := if b = 0x3FFF then 0x1810 else b + 1

def Clp.block (c : Clp) (b : Nat) : ClpBlock := NMap.get .erased c.ring b

/-- What the writer does next when it neither programs nor erases (R512): a POWER_FAIL record goes to the first erased block
from the write pointer on; else the write pointer's block and the two after it are erased before the oldest record is
programmed. -/
def Clp.kick (c : Clp) : Clp :=
  if c.writing.isSome || c.erasing.isSome then c
  else
    let (b1, b2) := (ringNext c.ptr, ringNext (ringNext c.ptr))
    let free (b : Nat) : Bool := c.block b = .erased
    match c.waiting with
    | r :: rest =>
      if r.typ = 7 then
        match [c.ptr, b1, b2].find? free with
        | some b => { c with ptr := b, writing := some r, waiting := rest }
        | none => { c with erasing := some c.ptr }
      else
        match [c.ptr, b1, b2].find? fun b => !free b with
        | some b => { c with erasing := some b }
        | none => { c with writing := some r, waiting := rest }
    | [] =>
      match [c.ptr, b1, b2].find? fun b => !free b with
      | some b => { c with erasing := some b }
      | none => c

/-- A record submitted to the colophon writer (R512): POWER_FAIL (0x07) and TRIP (0x06) go ahead of all others, and a
record submitted while 8 wait is dropped. -/
def submitRec (s : State) (typ : Nat) (body : List Byte) : State :=
  let r : ClpRec := { typ := typ, time := if s.clk.tbLock then s.time else 0, bootSeq := s.clp.bootSeq, rst := rstStatus s.rst, body := body }
  if typ ≠ 7 && decide (8 ≤ s.clp.waiting.length) then { s with clp := { s.clp with dropped := satAdd s.clp.dropped 1 0xFFFF } }
  else
    let urgent (x : ClpRec) : Bool := x.typ == 6 || x.typ == 7
    let w := s.clp.waiting
    let w := if urgent r then w.filter urgent ++ [r] ++ w.filter (fun x => !urgent x) else w ++ [r]
    { s with clp := ({ s.clp with waiting := w }).kick }

/-- Little-endian bytes of record fields (value, bytes). -/
def bodyOf (fs : List (Nat × Nat)) : List Byte := fs.flatMap fun f => leBytes f.1 f.2

/-- An event bit of CMD_EVENT set (R504): an interrupt where it was 0, and a PLDM platform event. -/
def raiseEvent (s : State) (bit : Nat) (was : Bool) (e : CmdEvent) : State :=
  let s := { s with evt := e }
  let s := if !was && e.irqEn then s.send (.msix 0 e.irqVec.toNat) else s
  s.send (.pldm bit 0)

/-- CL_MXA_EVT (R155). -/
def MxEvt.word (e : MxEvt) : BitVec 64 :=
  BitVec.ofNat 64 (packFields [
    (e.events, 0, 8), (b2n e.suspect, 8, 1), (b2n e.secondRun, 9, 1), (b2n e.tagMismatch, 10, 1), (e.pack.toNat, 12, 2),
    (e.problem.toNat, 14, 2), (e.rowFail.toNat, 16, 8), (e.colFail.toNat, 24, 8), (e.cornerFail.toNat, 32, 4)])

/-- A cluster became suspect (R506): CMD_EVENT and a SUSPECT record. -/
def reportSuspect (s : State) (cl : Nat) : State :=
  let e := (s.cluster cl).evt
  let s := raiseEvent s 0 s.evt.suspect { s.evt with
    suspect := true, suspectCluster := BitVec.ofNat 17 cl, suspectCount := satAdd s.evt.suspectCount 1 0xFFFF }
  submitRec s 4 (bodyOf [(e.word.toNat, 8), (e.time0.toNat, 8), (e.time1.toNat, 8), (cl, 4)])

/-- Ticks of one hour (R155). -/
def hourTicks : Nat := 3600000000000

/-- A checksum event recorded in CL_MXA_EVT and CL_MXA_EVT_TIME (R154-R157). -/
def recordMxEvt (s : State) (cl : Nat) (e : MxEvt) : State :=
  let c := s.cluster cl
  let old := c.evt
  let near := decide (0 < old.events) && decide (s.time.toNat - old.time0.toNat ≤ hourTicks)
  let new := { e with
    events := satAdd old.events 1 255, suspect := old.suspect || near, time0 := s.time, time1 := old.time0 }
  let s := s.setCluster cl { c with evt := new }
  let s := s.observe { ev := 0x05, kind := 4, src := cl, part := partOf s cl, payload := new.word.toNat }
  if new.suspect && !old.suspect then reportSuspect s cl else s

end Sys2Proof.Machine
end

