-- ==== Sys2Proof/Machine/Flags.lean ====
section
/-! DEFINITION. Results and flags of the vector members: integer, floating-point, compare and conversion
(spec/04_instruction_set.md R100-R108). -/

namespace Sys2Proof.Machine

/-- Saturation to INT32, with OF when it saturates (R103). -/
def sat32 (v : Int) : Nat × FFlags :=
  if v < -2147483648 then (0x80000000, flOF)
  else if 2147483647 < v then (0x7FFFFFFF, flOF)
  else (wrapInt v 32, 0)

/-- Leading zeros of a 32-bit word: the positions from 31 down that hold zero. -/
def clzFrom (v : Nat) : Nat → Nat
  | 0 => 0
  | n + 1 => if v.testBit n then 0 else 1 + clzFrom v n

/-- The integer members of R100: va, b, vd to the new vd and its flags. -/
def vIntOp (op : VIntOp) (a b d : Word) : Nat × FFlags :=
  let a16s := (a.extractLsb' 0 16).toInt
  let b16s := (b.extractLsb' 0 16).toInt
  let a16u := a.toNat % 65536
  let b16u := b.toNat % 65536
  match op with
  | .iadd => ((a + b).toNat, 0)
  | .isub => ((a - b).toNat, 0)
  | .iadds => sat32 (a.toInt + b.toInt)
  | .isubs => sat32 (a.toInt - b.toInt)
  | .imul16S => (wrapInt (a16s * b16s) 32, 0)
  | .imul16U => (a16u * b16u, 0)
  | .imad16S => (wrapInt (a16s * b16s + d.toInt) 32, 0)
  | .imad16U => ((a16u * b16u + d.toNat) % 2 ^ 32, 0)
  | .imul => ((a * b).toNat, 0)
  | .imad => ((a * b + d).toNat, 0)
  | .imulhiS => (wrapInt ((a.toInt * b.toInt) / 2 ^ 32) 32, 0)
  | .imulhiU => ((a.toNat * b.toNat) >>> 32, 0)
  | .and => ((a &&& b).toNat, 0)
  | .or => ((a ||| b).toNat, 0)
  | .xor => ((a ^^^ b).toNat, 0)
  | .shl => ((a <<< (b.toNat % 32)).toNat, 0)
  | .shr => ((a >>> (b.toNat % 32)).toNat, 0)
  | .sar => ((a.sshiftRight (b.toNat % 32)).toNat, 0)
  | .minS => (if b.slt a then b.toNat else a.toNat, 0)
  | .minU => (if b.ult a then b.toNat else a.toNat, 0)
  | .maxS => (if a.slt b then b.toNat else a.toNat, 0)
  | .maxU => (if a.ult b then b.toNat else a.toNat, 0)
  | .clz => (clzFrom a.toNat 32, 0)
  | .popc => (popCount a.toNat 32, 0)

/-- CLZ and POPC read only VA (R101). -/
def vIntUnary : VIntOp → Bool
  | .clz | .popc => true
  | _ => false

/-- IMAD and IMAD16 read VD as well (R100). -/
def vIntReadsD : VIntOp → Bool
  | .imad | .imad16S | .imad16U => true
  | _ => false

/-- The layout of a core float format. -/
def ffmtSpec : FFmt → FpSpec
  | .fp16 => specFp16
  | .bf16 => specBf16
  | .fp32 => specFp32
  | .fp64 => specFp64

/-- Registers of one value: a pair for FP64 (R97). -/
def ffmtRegs : FFmt → Nat
  | .fp64 => 2
  | _ => 1

/-- Whether the opcode table has this member (R100). -/
def fopExists (f : FFmt) (op : FOp) : Bool :=
  match f, op with
  | _, .add | _, .sub | _, .mul | _, .fma => true
  | .fp64, .min | .fp64, .max => false
  | _, .min | _, .max => true
  | .fp32, .abs | .fp32, .neg | .fp32, .div | .fp32, .sqrt => true
  | .fp64, .div | .fp64, .sqrt => true
  | _, _ => false

def fopUnary : FOp → Bool
  | .abs | .neg | .sqrt => true
  | _ => false

def fopReadsD : FOp → Bool
  | .fma => true
  | _ => false

/-- An exact result rounded once to nearest-even, with the flags already raised. -/
def rneWith (f : FpSpec) (x : FVal × FFlags) : Nat × FFlags :=
  let r := f.round .rne x.1
  (r.1, r.2 ||| x.2)

/-- The floating-point members of R100 and R104 on encodings va, b, vd. -/
def fpOp (f : FFmt) (op : FOp) (a b d : Nat) : Nat × FFlags :=
  let sp := ffmtSpec f
  let w := sp.eb + sp.mb
  let x := sp.decode a
  let y := sp.decode b
  match op with
  | .add => rneWith sp (FVal.add x y)
  | .sub => rneWith sp (FVal.add x y.neg)
  | .mul => rneWith sp (FVal.mul x y)
  | .fma =>
    let p := FVal.mul x y
    let r := FVal.add p.1 (sp.decode d)
    rneWith sp (r.1, p.2 ||| r.2)
  | .min => ((sp.round .rne (FVal.minMax true x y)).1, 0)
  | .max => ((sp.round .rne (FVal.minMax false x y)).1, 0)
  | .abs => (if x = .nan then sp.qnan else a % 2 ^ w, 0)
  | .neg => (if x = .nan then sp.qnan else (a ^^^ 2 ^ w) % 2 ^ (w + 1), 0)
  | .div => rneWith sp (FVal.div x y)
  | .sqrt => rneWith sp (FVal.sqrt x)

/-- The comparison result of R102 on the operands of a compare. -/
def cmpResult (k : CmpKind) (a b : Nat) : Option Int :=
  match k with
  | .intS => let x := sextInt a 32; let y := sextInt b 32; some (if x < y then -1 else if x = y then 0 else 1)
  | .intU => some (if a % 2 ^ 32 < b % 2 ^ 32 then -1 else if a % 2 ^ 32 = b % 2 ^ 32 then 0 else 1)
  | .flt f => FVal.cmp ((ffmtSpec f).decode a) ((ffmtSpec f).decode b)

/-- Fields of the extension word of VCVT (R107). -/
structure CvtExt where
  src : Nat
  dst : Nat
  rm : Nat
  u : Bool
  slot : Nat
  table : Nat
  rsv : Nat
  deriving DecidableEq, Repr

def cvtExt (e : Word) : CvtExt :=
  { src := bitsOf e.toNat 4 0, dst := bitsOf e.toNat 9 5, rm := bitsOf e.toNat 12 10, u := bitOf e.toNat 13,
    slot := bitsOf e.toNat 15 14, table := bitsOf e.toNat 19 16, rsv := bitsOf e.toNat 31 20 }

def isCodebook (f : Nat) : Bool := f == 0x0B || f == 0x0C

/-- The cases in which VCVT is an illegal instruction (R96, R107). -/
def cvtIllegal (x : CvtExt) : Bool :=
  let okFmt (f : Nat) : Bool := decide (f ≤ 0x10)
  !okFmt x.src || !okFmt x.dst || (RMode.ofCode x.rm).isNone || x.rsv != 0 ||
  (x.u && (x.src == 0x05) == (x.dst == 0x05)) ||
  (x.slot != 0 && !isCodebook x.src && !isCodebook x.dst) ||
  (x.table != 0 && x.src != 0x0B && x.dst != 0x0B)

/-- Registers of a value of a format in the cores. -/
def cvtRegs (f : Nat) : Nat := if f = 0x10 then 2 else 1

/-- A result of a format as it stands in its register or pair (R98): signed integers sign-extended. -/
def extendResult (fmt : Nat) (u : Bool) (v : Nat) : Nat :=
  match intSpecOf fmt with
  | some (w, signed) => if signed && !u then wrapInt (sextInt v w) 32 else v % 2 ^ w
  | none => v

/-- VCVT of one lane (R36, R39, R54, R107, R108). -/
def convert (x : CvtExt) (cb : Codebook) (bits : Nat) : Nat × FFlags :=
  let v := if x.src = 0x05 ∧ x.u then FVal.fin false (bits % 2 ^ 32) 0 else decodeElem x.src bits cb
  let mode := (RMode.ofCode x.rm).getD .rne
  let r := if x.dst = 0x05 ∧ x.u then roundInt mode 32 false v else encodeElem x.dst mode cb bits v
  (extendResult x.dst x.u r.1, r.2)

end Sys2Proof.Machine
end

