-- ==== Sys2Proof/Machine/Turn.lean ====
section
/-! DEFINITION. The request queue of a slice as the requests' own commands meet it: in what order requests to one line are
performed (spec/10_spine_cache.md R277, R281; spec/06_memory_model.md R172). -/

namespace Sys2Proof.Machine

/-- Requester index of the home spine port of a cluster (R277, R196). -/
def homeRequester (s : State) (cl : Nat) : Nat :=
  let idx := (s.gath (gathKey (clFolio cl) (gathOfPos (clX cl) (clY cl)))).siteOf (cl % 18750)
  let (px, py) := physOf idx
  let r := (spineRows.findIdx fun c => c = homeSpineCol px)
  2048 * (2 * clFolio cl + clLeaf cl) + 128 * r + py

def State.sliceQ (s : State) (k : Nat) : SliceQ := NMap.get {} s.spine.sliceQ k
def State.setSliceQ (s : State) (k : Nat) (q : SliceQ) : State := { s with spine := { s.spine with sliceQ := NMap.set {} s.spine.sliceQ k q } }

/-- The oldest entry for a line at its home slice. -/
def State.firstFor (s : State) (ln : Nat) : Option QEntry :=
  (s.sliceQ (homeSlice s.mem (ln * 128))).queue.find? fun e => e.req.line = ln

/-- The first element that satisfies `p` gone. -/
def dropFirst {α : Type} (p : α → Bool) : List α → List α
  | [] => []
  | x :: xs => if p x then xs else x :: dropFirst p xs

/-- The oldest entry for a line leaves the queue. -/
def State.popFor (s : State) (ln : Nat) : State :=
  let k := homeSlice s.mem (ln * 128)
  s.setSliceQ k { s.sliceQ k with queue := dropFirst (fun e => e.req.line = ln) (s.sliceQ k).queue }

/-- Requests to one line are performed in admission order (R277): a request may be performed when no entry for its line is
older, that is when none stands there or the oldest is its own (`mine`). -/
def State.inTurn (s : State) (ln : Nat) (mine : SliceReq → Bool) : Bool :=
  match s.firstFor ln with
  | some e => mine e.req
  | none => true

/-- The request's own entry, if it has one, leaves the queue. -/
def State.takeTurn (s : State) (ln : Nat) : State :=
  match s.firstFor ln with
  | some _ => s.popFor ln
  | none => s

/-- Lines of a range. -/
def linesOf (a n : Nat) : List Nat := (List.range ((a + n - 1) / 128 + 1 - a / 128)).map (a / 128 + ·)

/-- Every line of a range has the agent's request as its oldest entry, or none (R277). -/
def turnOf (s : State) (a n : Nat) (mine : SliceReq → Bool) : Bool := (linesOf a n).all fun ln => s.inTurn ln mine

def takeLines (s : State) (a n : Nat) : State := (linesOf a n).foldl State.takeTurn s

/-- The entry of an atomic, LDR or STC of a cluster. -/
def atomicOf (s : State) (cl : Nat) (r : SliceReq) : Bool := r.msg == .atomic && r.requester == homeRequester s cl

/-! #### The channels' queues (R317) -/

def State.chanQ (s : State) (c : Nat) : ChanQ := NMap.get {} s.spine.chanQ c
def State.setChanQ (s : State) (c : Nat) (q : ChanQ) : State := { s with spine := { s.spine with chanQ := NMap.set {} s.spine.chanQ c q } }

/-- Whether the oldest entry of channel c that `sel` takes satisfies `mine`, or none stands there. -/
def State.chanTurn (s : State) (c : Nat) (sel mine : SliceReq → Bool) : Bool :=
  match (s.chanQ c).queue.find? sel with
  | some r => mine r
  | none => true

/-- The oldest entry of channel c that `sel` takes leaves its queue. -/
def State.chanPop (s : State) (c : Nat) (sel : SliceReq → Bool) : State :=
  if (s.chanQ c).queue.any sel then s.setChanQ c { s.chanQ c with queue := dropFirst sel (s.chanQ c).queue } else s

def reqMaint (r : SliceReq) : Bool := match r.msg with | .maint _ => true | _ => false

/-! #### Tokens (R292) -/

def NMapTok (s : State) (p : Nat) : Token := NMap.get {} s.spine.tokens p

/-- The bucket of a requester for partition p (R292). -/
def bucketOf (s : State) (req p : Nat) : Nat := (NMap.get none s.spine.buckets (64 * req + p)).getD (NMapTok s p).tokens

def refill (x : Token) (v : Nat) : Nat := min x.burst.toNat (v + x.rate.toNat)

/-- A bucket holding v, listed where it differs from its partition's common value. -/
def bucketSet (m : NMap (Option Nat)) (common key v : Nat) : NMap (Option Nat) := NMap.set none m key (if v = common then none else some v)

/-- Whether a requester's port lets `n` sectors of partition p leave: those of no partition, of an unregulated one, or with tokens. -/
def hasTokens (s : State) (req : Nat) (p : Option Nat) (n : Nat) : Bool :=
  match p with
  | none => true
  | some p => (NMapTok s p).unregulated || decide (n ≤ bucketOf s req p)

/-- The tokens of `n` sectors taken. -/
def spendTokens (s : State) (req : Nat) (p : Option Nat) (n : Nat) : State :=
  match p with
  | none => s
  | some p =>
    let x := NMapTok s p
    if x.unregulated || n = 0 then s
    else { s with spine := { s.spine with buckets := bucketSet s.spine.buckets x.tokens (64 * req + p) (bucketOf s req p - n) } }

/-- Requester indices of the host port, the command processor and engine k (R277). -/
def hostRequester : Nat := 8192
def cmdRequester : Nat := 8193
def engineRequester (k : Nat) : Nat := 8194 + k

/-- The requests into the spine that `n` bytes within a sector make: one where a slice holds the address, none elsewhere. -/
def spineSectors (a : Nat) : Nat := match rangeOf a with | .dram | .spine => 1 | _ => 0

end Sys2Proof.Machine
end

