-- ==== Sys2Proof/Machine/Nbu.lean ====
section
/-! DEFINITION. Near-bank units: the command window, mode entry and exit, doorbells and the commands
(spec/11_memory_stacks.md R322-R333). -/

namespace Sys2Proof.Machine

/-- Channel index of a command window address. -/
def nbChan (a : Nat) : Nat :=
  let o := a - 0x020000000000
  32 * (o / 0x40000000) + o % 0x40000000 / 0x02000000

/-- Offset within its command window. -/
def nbOff (a : Nat) : Nat := (a - 0x020000000000) % 0x02000000

/-- NBU_MODE as it reads (R324). -/
def nbModeWord (n : Nbu) : Nat :=
  packFields [(b2n n.nb, 0, 1), (b2n n.enter, 1, 1), (n.version.toNat, 2, 4), (b2n n.busy, 6, 1), (n.owner.toNat, 7, 6),
    (b2n n.ownerValid, 13, 1), (n.refusal.toNat, 14, 3), (n.foreign, 17, 16), (n.dbDrops, 33, 16)]

/-- NBU_SLOT_STAT[s] as it reads (R331). -/
def nbStatWord (x : NbSlot) : Nat :=
  packFields [(x.status.toNat, 0, 8), (b2n x.done, 8, 1), (x.rowsDone.toNat, 32, 32), (x.tag.toNat, 64, 64)]

/-- One byte of the command window (R323). -/
def nbByte (n : Nbu) (off : Nat) : Byte :=
  if off < 0x8 then BitVec.ofNat 8 (nbModeWord n >>> (8 * off))
  else if off < 0x10 then BitVec.ofNat 8 (0x11 >>> (8 * (off - 0x8)))
  else if 0x18 ≤ off ∧ off < 0x20 then BitVec.ofNat 8 (n.done.toNat >>> (8 * (off - 0x18)))
  else if 0x100 ≤ off ∧ off < 0x200 then
    BitVec.ofNat 8 (nbStatWord (NMap.get {} n.slotStat ((off - 0x100) / 16)) >>> (8 * (off % 16)))
  else if 0x1000 ≤ off ∧ off < 0x1400 then ByteMap.get n.slots (off - 0x1000)
  else if 0x10000 ≤ off ∧ off < 0x20000 then ByteMap.get n.result (off - 0x10000)
  else 0

/-- `k` bytes of the window as a number. -/
def nbRead (m : MemSys) (a k : Nat) : Nat :=
  leNat ((List.range k).map fun i => nbByte (m.nbuAt (nbChan a)) (nbOff a + i))

/-- Stack DRAM lines of a channel that lie in raw regions and stand in a slice. -/
def rawLinesOf (m : MemSys) (c : Nat) : List Nat :=
  NMap.keysWhere (fun ln l => l.present && rangeOf (ln * 128) == .dram && isRaw m (ln * 128) && chanOf (ln * 128) == c) m.lines

/-- A write that another partition than the owner makes: ignored and counted (R324, R325). -/
def nbForeign (n : Nbu) (refusal : BitVec 3) : Nbu := { n with foreign := satAdd n.foreign 1 0xFFFF, refusal := refusal }

/-- Whether partition p is not the one that has the channel. -/
def Nbu.foreignTo (n : Nbu) (p : Nat) : Bool := n.ownerValid && n.owner.toNat != p

/-- A write of ENTER and VERSION by partition p (R324, R325). ENTER = 1 with the mode neither in force nor being entered or left
starts an entry; ENTER = 0 in the mode starts the exit, which takes no doorbell any more; the rest comes at the next steps
(nbNext). -/
def nbMode (n : Nbu) (p : Nat) (enter : Bool) (version : BitVec 4) : Nbu :=
  if n.foreignTo p then nbForeign n (if enter then 2 else n.refusal)
  else
    let start := enter && !n.nb && !n.busy
    let n := { n with enter := enter, version := version }
    if start then { n with foreign := 0, dbDrops := 0, refusal := 0, busy := true, owner := BitVec.ofNat 6 p, ownerValid := true }
    else if !enter && n.nb then { n with busy := true }
    else n

/-- The mode is left, or an entry comes to nothing. -/
def nbLeave (n : Nbu) : Nbu := { n with nb := false, busy := false, ownerValid := false }

/-- Whether a raw range change in progress touches channel c (R325 step 1). -/
def rawChanging (m : MemSys) (c : Nat) : Bool :=
  match m.rawWork with
  | some w => [NMap.get {} m.raws w.entry, w.new].any fun x => x.valid &&
      spansMeet (x.base2m * 0x200000) (x.size2m * 0x200000) (0x006000000000 + chanToSlice c * 0x20000000) 0x20000000
  | none => false

/-- An entry comes to its outcome (R325): refused with a reason, given up where ENTER is 0 again, or, once no raw line of the channel
has a transaction, in force with the raw lines out of every slice and L1. -/
def nbEnter (m : MemSys) (t : BitVec 64) (c : Nat) : MemSys :=
  let n := m.nbuAt c
  let ls := rawLinesOf m c
  let refuse (k : BitVec 3) : MemSys := m.setNbu c { nbLeave n with refusal := k }
  if n.version ≠ 1 then refuse 1
  else if rawChanging m c then refuse 4
  else if ls.any fun ln => (m.lineAt ln).anchored.isSome then refuse 3
  else if !n.enter then m.setNbu c (nbLeave n)
  else if ls.any fun ln => m.txns.any fun x => x.line = ln then m
  else (ls.foldl (fun m ln => evictLine m t ln) m).setNbu c { n with nb := true, busy := false, done := 0 }

/-- The next step of an entry or an exit of channel c (R325). -/
def nbNext (t : BitVec 64) (m : MemSys) (c : Nat) : MemSys :=
  let n := m.nbuAt c
  if !n.busy then m
  else if !n.nb then nbEnter m t c
  else if n.queue.isEmpty then m.setNbu c (nbLeave n)
  else m

/-- The fields of a command (R327). -/
structure NbFields where
  opc : Nat
  fmt : Nat
  flags : Nat
  ofmt : Nat
  count : Nat
  table : Nat
  index : Nat
  weights : Nat
  dest : Nat
  rowBytes : Nat
  rows : Nat
  param : Nat
  s : Nat
  tag : Nat
  deriving DecidableEq, Repr

def nbFields (w : List Byte) : NbFields :=
  let f (o n : Nat) : Nat := leNat ((w.drop o).take n)
  { opc := f 0 1, fmt := f 1 1, flags := f 2 1, ofmt := f 3 1, count := f 4 4, table := f 8 8, index := f 16 8,
    weights := f 24 8, dest := f 32 8, rowBytes := f 40 4, rows := f 44 4, param := f 48 4, s := f 52 4, tag := f 56 8 }

def NbFields.weighted (f : NbFields) : Bool := bitOf f.flags 0
def NbFields.toResult (f : NbFields) : Bool := bitOf f.flags 1
/-- Element size in bytes. -/
def NbFields.es (f : NbFields) : Nat := (fmtWidth f.fmt).getD 8 / 8
def NbFields.os (f : NbFields) : Nat := (fmtWidth f.ofmt).getD 8 / 8
def NbFields.op (f : NbFields) : Nat := f.param % 8
def NbFields.k (f : NbFields) : Nat := bitsOf f.param 22 16

/-- Source ranges of a command: (address, bytes). -/
def NbFields.sources (f : NbFields) : List (Nat × Nat) :=
  match f.opc with
  | 0x01 => [(f.table, f.rows * f.rowBytes), (f.index, 4 * f.count)]
  | 0x02 => [(f.table, f.rows * f.rowBytes), (f.index, 4 * f.count)] ++ (if f.weighted then [(f.weights, 4 * f.count)] else [])
  | 0x03 => [(f.index, 4 * f.count), (f.weights, f.count * f.rowBytes)]
  | 0x04 => [(f.table, f.count * f.es), (f.index, f.count * f.es)]
  | 0x05 => [(f.table, f.count * f.es)]
  | 0x06 => [(f.table, f.count * f.es)] ++ (if f.op = 5 then [] else [(f.index, f.count * f.es)])
  | _ => []

/-- The destination range of a command: (address or result offset, bytes). -/
def NbFields.destRange (f : NbFields) : Nat × Nat :=
  match f.opc with
  | 0x01 => (f.dest, f.count * f.rowBytes)
  | 0x02 => (f.dest, f.rowBytes / f.es * f.os)
  | 0x03 => (f.table, f.rows * f.rowBytes)
  | 0x04 | 0x06 | 0x07 => (f.dest, f.count * f.es)
  | 0x05 => (f.dest, 4 * f.k + f.k * f.es)
  | _ => (0, 0)

/-- BAD_FIELD of R330; of a NOP, which uses no field, only the reserved bits count. -/
def NbFields.bad (f : NbFields) : Bool :=
  if decide (4 ≤ f.flags) || bitsOf f.param 15 3 != 0 || bitsOf f.param 31 23 != 0 then true
  else if f.opc = 0 then false
  else
    let fmtOk := if f.opc = 1 then (match fmtWidth f.fmt with | some w => w == 8 || w == 16 || w == 32 | none => false)
      else f.fmt == 0x02 || f.fmt == 0x0D || f.fmt == 0x0E
    let rowOp := f.opc == 1 || f.opc == 2 || f.opc == 3
    let rowOk := [1, 2, 4, 8, 16, 32, 64, 128].contains f.rowBytes && decide (f.es ≤ f.rowBytes)
    let ofmtOk := if f.fmt = 0x02 then f.ofmt == 0x05 else [0x0D, 0x0E, 0x0F].contains f.ofmt
    let d := f.destRange
    let toRes := f.toResult && f.opc != 3
    decide (f.count = 0) || decide (2 ^ 24 < f.count) || !fmtOk ||
    (rowOp && !rowOk) || (f.opc == 2 && !ofmtOk) || (f.weighted && f.fmt == 0x02) ||
    (f.opc == 6 && f.op == 7) || (f.opc == 4 && f.fmt == 0x02 && decide (6 ≤ f.op)) ||
    (f.opc == 5 && (f.k == 0 || decide (64 < f.k))) ||
    (f.opc != 7 && f.table % 128 != 0) ||
    (toRes && decide (65536 < d.1 + d.2)) ||
    (!toRes && f.sources.any fun r => r != d && decide (r.1 < d.1 + d.2) && decide (d.1 < r.1 + r.2))

/-- Whether every byte from `a` up to `e` lies in some raw region: region after region, at most `fuel` of them. -/
def rawCovers (m : MemSys) (e : Nat) : Nat → Nat → Bool
  | 0, a => decide (e ≤ a)
  | fuel + 1, a =>
    decide (e ≤ a) ||
    match m.raws.find? fun x => x.2.valid && decide (x.2.base2m * 0x200000 ≤ a) && decide (a < (x.2.base2m + x.2.size2m) * 0x200000) with
    | some x => rawCovers m e fuel ((x.2.base2m + x.2.size2m) * 0x200000)
    | none => false

/-- The lowest code of R330 that operand ranges bring on channel c. -/
def nbRanges (m : MemSys) (al : NMap Alloc) (c : Nat) (ranges : List (Nat × Nat)) : Nat :=
  let blk := 0x006000000000 + chanToSlice c * 0x20000000
  if ranges.any fun r => !(decide (r.1 + r.2 ≤ 0x008000000000) && rawCovers m (r.1 + r.2) 16 r.1) then 3
  else if ranges.any fun r => !(decide (blk ≤ r.1) && decide (r.1 + r.2 ≤ blk + 0x20000000)) then 4
  else if ranges.any fun r => !allocCovers al 1#2 r.1 r.2 then 5
  else 0

/-- The status of a command at its doorbell (R330): the lowest code that applies. -/
def nbValidate (m : MemSys) (al : NMap Alloc) (c : Nat) (f : NbFields) : Nat :=
  if 8 ≤ f.opc then 1
  else if f.bad then 2
  else if f.opc = 0 then 0
  else nbRanges m al c (f.sources ++ (if f.toResult && f.opc != 3 then [] else [f.destRange]))

/-- The status of an index as the unit reaches it (R330): its row is checked again. -/
def nbIndexStatus (m : MemSys) (al : NMap Alloc) (c : Nat) (f : NbFields) (ix : Nat) : Nat :=
  if f.rows ≤ ix then 6 else nbRanges m al c [(f.table + ix * f.rowBytes, f.rowBytes)]

/-- A write to NBU_DOORBELL by partition `p` (R331). -/
def nbDoorbell (m : MemSys) (al : NMap Alloc) (c p size : Nat) (v : BitVec 64) : MemSys :=
  let n := m.nbuAt c
  if n.foreignTo p then m.setNbu c (nbForeign n n.refusal)
  else
    let sl := v.toNat % 16
    let st := NMap.get {} n.slotStat sl
    if size ≠ 8 ∨ v.toNat / 16 ≠ 0 ∨ !n.nb ∨ !n.enter ∨ n.busy ∨ st.busy then
      m.setNbu c { n with dbDrops := satAdd n.dbDrops 1 0xFFFF }
    else
      let w := ByteMap.read n.slots (0x40 * sl) 64
      let f := nbFields w
      let cmd : NbCmd := { slot := sl, words := w, status := BitVec.ofNat 8 (nbValidate m al c f) }
      m.setNbu c { n with
        queue := n.queue ++ [cmd]
        slotStat := NMap.set {} n.slotStat sl { st with busy := true, done := false } }

/-- A store of `k` bytes into a command window (R323, R324). -/
def nbWrite (m : MemSys) (al : NMap Alloc) (p a k v : Nat) : MemSys :=
  let c := nbChan a
  let off := nbOff a
  let n := m.nbuAt c
  if off = 0 then m.setNbu c (nbMode n p (v.testBit 1) (BitVec.ofNat 4 (v >>> 2)))
  else if off < 0x8 then (if n.foreignTo p then m.setNbu c (nbForeign n n.refusal) else m)
  else if 0x10 ≤ off ∧ off < 0x18 then nbDoorbell m al c p k (BitVec.ofNat 64 v)
  else if 0x1000 ≤ off ∧ off < 0x1400 then
    m.setNbu c (if n.foreignTo p then nbForeign n n.refusal else { n with slots := ByteMap.writeNat n.slots (off - 0x1000) k v })
  else if 0x10000 ≤ off ∧ off < 0x20000 then m.setNbu c { n with result := ByteMap.writeNat n.result (off - 0x10000) k v }
  else m

/-! #### The operations (R328, R329) -/

def nbGet (m : MemSys) (a k : Nat) : Nat := ByteMap.readNat m.dram a k

/-- A result written: to the bank, breaking reservations (R176), or to the result buffer. -/
def nbPut (m : MemSys) (c : Nat) (toRes : Bool) (a k v : Nat) : MemSys :=
  if toRes then
    let n := m.nbuAt c
    m.setNbu c { n with result := ByteMap.writeNat n.result a k v }
  else { (m.breakSector a).breakSector (a + k - 1) with dram := ByteMap.writeNat m.dram a k v }

/-- Saturation to INT8 as its encoding. -/
def sat8 (v : Int) : Nat := wrapInt (max (-128) (min 127 v)) 8

def nbSpec (fmt : Nat) : FpSpec := (fpSpecOf fmt).getD specFp32

/-- The scalar operand in the element format (R329). -/
def nbScalar (f : NbFields) : Nat :=
  if f.fmt = 0x02 then sat8 (sextInt f.s 32) else ((nbSpec f.fmt).round .rne (specFp32.decode f.s)).1

/-- One arithmetic operation of EWISE on encodings (R328, R329). -/
def nbEwise (f : NbFields) (a b : Nat) : Nat :=
  if f.fmt = 0x02 then
    let x := sextInt a 8
    let y := sextInt b 8
    let sv := sextInt f.s 32
    sat8 (match f.op with
      | 0 => x + y
      | 1 => x - y
      | 2 => x * y
      | 3 => min x y
      | 4 => max x y
      | 5 => x * sv
      | _ => x * sv + y)
  else
    let ff : FFmt := if f.fmt = 0x0E then .bf16 else .fp16
    let sv := nbScalar f
    (match f.op with
      | 0 => fpOp ff .add a b 0
      | 1 => fpOp ff .sub a b 0
      | 2 => fpOp ff .mul a b 0
      | 3 => fpOp ff .min a b 0
      | 4 => fpOp ff .max a b 0
      | 5 => fpOp ff .mul a sv 0
      | _ => fpOp ff .fma a sv b).1

/-- SELECT's condition on an element (R102, R328). -/
def nbSelect (f : NbFields) (a : Nat) : Bool :=
  let cc := BitVec.ofNat 3 f.op
  if f.fmt = 0x02 then
    let x := sextInt a 8
    let y := sextInt f.s 32
    ccHolds cc (some (if x < y then -1 else if x = y then 0 else 1))
  else ccHolds cc (FVal.cmp ((nbSpec f.fmt).decode a) ((nbSpec f.fmt).decode (nbScalar f)))

/-- Whether element a ranks before element b in TOPK when a has the lower index (R329). -/
def nbRanks (f : NbFields) (a b : Nat) : Bool :=
  if f.fmt = 0x02 then decide (sextInt b 8 ≤ sextInt a 8)
  else
    let x := (nbSpec f.fmt).decode a
    let y := (nbSpec f.fmt).decode b
    match FVal.cmp x y with
    | some c => decide (0 ≤ c)
    | none => decide (y = .nan)

/-- Insertion of an element behind those that rank before it. -/
def nbInsert (f : NbFields) (e : Nat × Nat) : List (Nat × Nat) → List (Nat × Nat)
  | [] => [e]
  | x :: xs => if nbRanks f x.2 e.2 then x :: nbInsert f e xs else e :: x :: xs

/-- What running a command did: the memory, the rows or elements completed, and the status. -/
structure NbRun where
  m : MemSys
  rows : Nat
  status : Nat

/-- The rows of GATHER and SCATTER_ADD in index order from row `i` on; they stop at an index that fails its check. -/
def nbRows (al : NMap Alloc) (c : Nat) (f : NbFields) (scatter : Bool) : Nat → MemSys → Nat → NbRun
  | 0, m, i => ⟨m, i, 0⟩
  | n + 1, m, i =>
    let ix := nbGet m (f.index + 4 * i) 4
    let st := nbIndexStatus m al c f ix
    if st ≠ 0 then ⟨m, i, st⟩
    else
      let row := f.table + ix * f.rowBytes
      let m := if scatter then
          (List.range (f.rowBytes / f.es)).foldl (fun m e =>
            nbPut m c false (row + e * f.es) f.es
              (nbEwise { f with param := 0 } (nbGet m (row + e * f.es) f.es) (nbGet m (f.weights + i * f.rowBytes + e * f.es) f.es))) m
        else
          (List.range f.rowBytes).foldl (fun m j => nbPut m c f.toResult (f.dest + i * f.rowBytes + j) 1 (nbGet m (row + j) 1)) m
      nbRows al c f scatter n m (i + 1)

/-- The sum of GATHER_SUM for element `e` of a row: index order, each FP32 product and sum rounded; the count of
rows taken, and the status of the index that failed its check, if one did. -/
def nbSumElem (m : MemSys) (al : NMap Alloc) (c : Nat) (f : NbFields) (e : Nat) : Nat → Nat → Nat → Nat × Nat × Nat
  | 0, i, acc => (acc, i, 0)
  | n + 1, i, acc =>
    let ix := nbGet m (f.index + 4 * i) 4
    let st := nbIndexStatus m al c f ix
    if st ≠ 0 then (acc, i, st)
    else
      let x := nbGet m (f.table + ix * f.rowBytes + e * f.es) f.es
      if f.fmt = 0x02 then nbSumElem m al c f e n (i + 1) (wrapInt ((acc : Int) + sextInt x 8) 32)
      else
        let v := (specFp32.round .rne ((nbSpec f.fmt).decode x)).1
        let v := if f.weighted then (fpOp .fp32 .mul v (nbGet m (f.weights + 4 * i) 4) 0).1 else v
        nbSumElem m al c f e n (i + 1) (fpOp .fp32 .add acc v 0).1

/-- A whole command run (R328). -/
def nbRun (m : MemSys) (al : NMap Alloc) (c : Nat) (f : NbFields) : NbRun :=
  match f.opc with
  | 0x01 => nbRows al c f false f.count m 0
  | 0x02 =>
    let sums := (List.range (f.rowBytes / f.es)).map fun e => nbSumElem m al c f e f.count 0 0
    match sums with
    | [] => ⟨m, 0, 0⟩
    | (_, i, st) :: _ =>
      if st ≠ 0 then ⟨m, i, st⟩
      else
        let m := ((List.range (f.rowBytes / f.es)).zip sums).foldl (fun m p =>
          let v := if f.fmt = 0x02 then p.2.1 else ((nbSpec f.ofmt).round .rne (specFp32.decode p.2.1)).1
          nbPut m c f.toResult (f.dest + p.1 * f.os) f.os v) m
        ⟨m, f.count, 0⟩
  | 0x03 => nbRows al c f true f.count m 0
  | 0x04 =>
    let m := (List.range f.count).foldl (fun m e =>
      let a := nbGet m (f.table + e * f.es) f.es
      let b := nbGet m (f.index + e * f.es) f.es
      nbPut m c f.toResult (f.dest + e * f.es) f.es (if nbSelect f a then a else b)) m
    ⟨m, f.count, 0⟩
  | 0x05 =>
    let order := (List.range f.count).foldl (fun l e => nbInsert f (e, nbGet m (f.table + e * f.es) f.es) l) []
    let pick (j : Nat) : Nat × Nat := (order[j]?).getD (Config.freeNat j, Config.freeNat (64 + j))
    let m := (List.range f.k).foldl (fun m j => nbPut m c f.toResult (f.dest + 4 * j) 4 (pick j).1) m
    let m := (List.range f.k).foldl (fun m j => nbPut m c f.toResult (f.dest + 4 * f.k + j * f.es) f.es (pick j).2) m
    ⟨m, f.count, 0⟩
  | 0x06 =>
    let m := (List.range f.count).foldl (fun m e =>
      nbPut m c f.toResult (f.dest + e * f.es) f.es
        (nbEwise f (nbGet m (f.table + e * f.es) f.es) (nbGet m (f.index + e * f.es) f.es))) m
    ⟨m, f.count, 0⟩
  | 0x07 =>
    let m := (List.range f.count).foldl (fun m e => nbPut m c f.toResult (f.dest + e * f.es) f.es (nbScalar f)) m
    ⟨m, f.count, 0⟩
  | _ => ⟨m, 0, 0⟩

/-- The front command of a channel run to its end where its opcode is `opc` (R331): a command that failed its
validation writes nothing. The unit's request, if one stands in the channel's queue, leaves it (R317). -/
def nbRunFront (s : State) (c opc : Nat) : State :=
  let n := s.mem.nbuAt c
  match n.queue with
  | [] => s
  | cmd :: rest =>
    let f := nbFields cmd.words
    if !n.nb || cmd.finished || f.opc ≠ opc then s
    else if cmd.status ≠ 0 then
      { s with mem := s.mem.setNbu c { n with queue := { cmd with finished := true } :: rest } }
    else
      let s := s.chanPop c reqMaint
      let r := nbRun s.mem (s.part n.owner.toNat).allocs c f
      let n := r.m.nbuAt c
      { s with mem := r.m.setNbu c { n with
          queue := { cmd with finished := true, at_ := r.rows, status := BitVec.ofNat 8 r.status } :: rest } }

/-- R325. -/
def execNbuModeEnter (chan p : Nat) (version : BitVec 4) (s : State) : Host.Outcome State Fault Refusal :=
  .next { s with mem := s.mem.setNbu chan (nbMode (s.mem.nbuAt chan) p true version) }

/-- R325; the row names no VERSION: the write leaves it as it is. -/
def execNbuModeExit (chan p : Nat) (s : State) : Host.Outcome State Fault Refusal :=
  .next { s with mem := s.mem.setNbu chan (nbMode (s.mem.nbuAt chan) p false (s.mem.nbuAt chan).version) }

/-- R331. -/
def execNbuDoorbell (chan p size : Nat) (val : BitVec 64) (s : State) : Host.Outcome State Fault Refusal :=
  .next { s with mem := nbDoorbell s.mem (s.part p).allocs chan p size val }

/-- R328. -/
def execNbuNop (chan : Nat) (s : State) : Host.Outcome State Fault Refusal := .next (nbRunFront s chan 0x00)
/-- R328. -/
def execGather (chan : Nat) (s : State) : Host.Outcome State Fault Refusal := .next (nbRunFront s chan 0x01)
/-- R328, R329. -/
def execGatherSum (chan : Nat) (s : State) : Host.Outcome State Fault Refusal := .next (nbRunFront s chan 0x02)
/-- R328, R329. -/
def execScatterAdd (chan : Nat) (s : State) : Host.Outcome State Fault Refusal := .next (nbRunFront s chan 0x03)
/-- R328. -/
def execSelect (chan : Nat) (s : State) : Host.Outcome State Fault Refusal := .next (nbRunFront s chan 0x04)
/-- R328, R329. -/
def execTopk (chan : Nat) (s : State) : Host.Outcome State Fault Refusal := .next (nbRunFront s chan 0x05)
/-- R328, R329. -/
def execEwise (chan : Nat) (s : State) : Host.Outcome State Fault Refusal := .next (nbRunFront s chan 0x06)
/-- R328. -/
def execNbuFill (chan : Nat) (s : State) : Host.Outcome State Fault Refusal := .next (nbRunFront s chan 0x07)

/-- R331: status, DONE and the increment of NBU_DONE together; a command with a reserved opcode, which no unit
runs, completes here too. -/
def execNearBankCommandComplete (chan : Nat) (s : State) : Host.Outcome State Fault Refusal :=
  let n := s.mem.nbuAt chan
  match n.queue with
  | [] => .next s
  | cmd :: rest =>
    let f := nbFields cmd.words
    if !(cmd.finished || cmd.status ≠ 0) then .next s
    else
      let n := { n with
        queue := rest, done := n.done + 1
        slotStat := NMap.set {} n.slotStat cmd.slot {
          status := cmd.status, done := true, rowsDone := BitVec.ofNat 32 cmd.at_, tag := BitVec.ofNat 64 f.tag, busy := false } }
      let s := s.observe { ev := 0x32, part := if n.ownerValid then some n.owner.toNat else none, kind := 6, src := chan / 32, payload := packFields [
        (f.opc, 0, 8), (cmd.status.toNat, 8, 8), (cmd.at_, 16, 32), (f.tag, 48, 64)] }
      .next { s with mem := s.mem.setNbu chan n }

end Sys2Proof.Machine
end

