-- ==== Sys2Proof/Machine/Operands.lean ====
section
/-! DEFINITION. Operand forms: registers a field names, operand B, lane-wise reads and writes
(spec/04_instruction_set.md R97-R101). -/

namespace Sys2Proof.Machine

/-- The lanes of a mask in increasing order. -/
def lanesOf (m : BitVec 8) : List Nat := (List.range 8).filter fun i => m.getLsbD i

/-- Registers r to r + n - 1. -/
def regRun (r n : Nat) : List Nat := (List.range n).map (r + ·)

/-- A pair or quad field that is not aligned (R97). -/
def misReg (r n : Nat) : Bool := r % n != 0

/-- The vector registers operand B names, for values of `n` registers. -/
def bRegs (b : BSrc) (n : Nat) : List Nat :=
  match b with
  | .vec vb => regRun vb.toNat n
  | .sca _ => []

def bSRegs (b : BSrc) (n : Nat) : List Nat :=
  match b with
  | .vec _ => []
  | .sca sb => regRun sb.toNat n

def bMis (b : BSrc) (n : Nat) : Bool :=
  match b with
  | .vec vb => misReg vb.toNat n
  | .sca sb => misReg sb.toNat n

/-- A unary member reads only VA: VB zero and BS = 0 (R101). -/
def unaryBad (b : BSrc) : Bool := b != .vec 0

/-- Operand B's value in lane `i` (R100). -/
def bVal (c : Cluster) (g : Grp) (gr : Group) (b : BSrc) (n i : Nat) : Nat :=
  match b with
  | .vec vb => c.vWide g gr vb.toNat i n
  | .sca sb => (gr.s sb.toNat).toNat + (if n = 2 then (gr.s (sb.toNat + 1)).toNat <<< 32 else 0)

/-- Fields of a V word with values of `n` registers. -/
def vUses (vd va : BitVec 7) (b : BSrc) (pg : BitVec 3) (n : Nat) (unary readsD illegal : Bool) : Uses :=
  { vr := regRun vd.toNat n ++ regRun va.toNat n ++ (if unary then [] else bRegs b n)
    vsrc := regRun va.toNat n ++ (if unary then [] else bRegs b n) ++ (if readsD then regRun vd.toNat n else [])
    sr := if unary then [] else bSRegs b n
    ill := illegal || misReg vd.toNat n || misReg va.toNat n || (if unary then unaryBad b else bMis b n)
    pg := pg.toNat }

/-- Each lane's result written to `n` registers from vd, and the flags raised: `f` gives a lane's value and flags
from the state before. -/
def laneWrite (s : State) (g : Grp) (gr : Group) (vd n : Nat) (lanes : BitVec 8) (f : Nat → Nat × BitVec 5) : State :=
  let c := s.cluster g.cl
  let c' := (lanesOf lanes).foldl (fun c i => c.setVWide g gr vd i (f i).1 n) c
  let fl := (lanesOf lanes).foldl (fun x i => x ||| (f i).2) 0
  raiseFlags (s.setCluster g.cl c') g fl

/-- Bits of a predicate register written in some lanes; a parity error of the register stays until every lane is written. -/
def predWrite (gr : Group) (pd : Nat) (lanes : BitVec 8) (f : Nat → Bool) : Group :=
  let g' := gr.setP pd ((lanesOf lanes).foldl (fun p i => if f i then p ||| (1#8 <<< i) else p &&& ~~~(1#8 <<< i)) (gr.p pd))
  if lanes = 0xFF then g' else { g' with pBad := gr.pBad }

/-- A byte of a cluster's codebooks: free where its table was lost and has not been loaded since (R46). -/
def cbByte (c : Cluster) (i : Nat) : Byte :=
  match c.cbLost with
  | some n => if c.cbLoaded.contains (i / 32) then ByteMap.get c.codebook i else Config.lostCodebook n i
  | none => ByteMap.get c.codebook i

/-- A codebook table of a cluster: 16 or 256 FP16 entries (R45). -/
def cbTable (c : Cluster) (slot table : Nat) (cb8 : Bool) : Codebook :=
  let base := 512 * slot + (if cb8 then 0 else 32 * table)
  (List.range (if cb8 then 256 else 16)).map fun k => leNat [cbByte c (base + 2 * k), cbByte c (base + 2 * k + 1)]

/-- Whether a byte of a codebook table fails its parity (R503). -/
def cbTableBad (c : Cluster) (slot table : Nat) (cb8 : Bool) : Bool :=
  let base := 512 * slot + (if cb8 then 0 else 32 * table)
  c.cbBad.any fun b => decide (base ≤ b) && decide (b < base + (if cb8 then 512 else 32))

/-- Whether a codebook load into a slot of the cluster is in progress (R108). -/
def cbLoading (s : State) (cl slot : Nat) : Bool :=
  (s.cluster cl).tdOps.any fun o => match o.work with
    | .cb sl _ _ => sl == slot
    | _ => false

end Sys2Proof.Machine
end

