-- ==== Sys2Proof/Machine/MemAcc.lean ====
section
/-! DEFINITION. Core memory accesses: loads, stores, atomics and reservations over every range of the address map
(spec/03 R78-R84, R87; spec/04 R112, R114-R117; spec/06 R163-R177, R563). -/

namespace Sys2Proof.Machine

/-- Bytes, registers and signedness of a vector load (R112). -/
def ldInfo : LdWidth → Nat × Nat × Bool
  | .u8 => (1, 1, false)
  | .s8 => (1, 1, true)
  | .u16 => (2, 1, false)
  | .s16 => (2, 1, true)
  | .w32 => (4, 1, false)
  | .w64 => (8, 2, false)
  | .w128 => (16, 4, false)

/-- Bytes and registers of a vector store (R112). -/
def stInfo : StWidth → Nat × Nat
  | .b8 => (1, 1)
  | .b16 => (2, 1)
  | .w32 => (4, 1)
  | .w64 => (8, 2)
  | .w128 => (16, 4)

/-- The fields of an M word. -/
def mUses (vd va : BitVec 7) (sp pg : BitVec 3) (n : Nat) (readsD : Bool) (align : Nat) : Uses :=
  { vr := regRun vd.toNat n ++ [va.toNat]
    vsrc := [va.toNat] ++ (if readsD then regRun vd.toNat n else [])
    sr := [2 * sp.toNat, 2 * sp.toNat + 1]
    ill := misReg vd.toNat align
    pg := pg.toNat }

/-- The global address of a lane (R112). -/
def laneAddr (c : Cluster) (g : Grp) (gr : Group) (va sp i : Nat) : Nat :=
  wrapInt ((gr.pair sp : Int) + (c.v g gr va i).toInt) 48

/-- The scratch offset of a lane (R112). -/
def laneOff (c : Cluster) (g : Grp) (gr : Group) (va sp i : Nat) : Nat :=
  ((gr.s (2 * sp)) + c.v g gr va i).toNat

/-- The fault of an instruction whose lanes raise classes `cls` (R87): the lowest class, every lane that raised it,
the address of the lowest of them. -/
def lanesFault (lanes : List Nat) (cls : Nat → List Nat) (addr : Nat → Nat) : Option (Nat × BitVec 8 × Nat) :=
  match (lanes.flatMap cls).min? with
  | none => none
  | some k =>
    let ls := lanes.filter fun i => (cls i).contains k
    some (k, ls.foldl (fun m i => m ||| (1#8 <<< i)) 0, addr (ls.headD 0))

/-- The faults of a global access of `n` bytes by a cluster: protection and alignment, and a parity error of the entry of its copy of
the allocation table (R78, R79, R84, R503). -/
def globalClasses (s : State) (cl p a n : Nat) : List Nat :=
  (if dataAllowed s p a n then [] else [2]) ++ (if a % n = 0 then [] else [4]) ++
    (if (s.cluster cl).allocBad.any fun e => allocTouches [(e, NMap.get {} (s.part p).allocs e)] 1#2 a n then [5] else [])

/-- The faults of a scratch access: alignment and bound (R78, R79). -/
def scratchClasses (b : Block) (o n : Nat) : List Nat :=
  (if o % n = 0 then [] else [4]) ++ (if o < b.scrSize then [] else [7])

/-- Whether a range overlaps a held one (R133, R226). -/
def heldAt (c : Cluster) (base len : Nat) : Bool :=
  c.mx.held.any fun h => decide (h.base < base + len) && decide (base < h.base + h.len)

/-- Whether a range overlaps a held reduction buffer, whose reads return unspecified values (R226). -/
def rbufAt (c : Cluster) (base len : Nat) : Bool :=
  c.mx.held.any fun h => h.rbuf && decide (h.base < base + len) && decide (base < h.base + h.len)

/-- Cluster and offset of an address in the global scratch window. -/
def winCluster (a : Nat) : Nat := (a - 0x030000000000) / 0x4000
def winOff (a : Nat) : Nat := (a - 0x030000000000) % 0x4000

/-- `n` bytes of a cluster's scratch: a bus error where a byte's parity has failed, a free value where they lie in
a held reduction buffer. -/
def scratchRead (s : State) (cl off n : Nat) : State × Nat × Bool :=
  let c := s.cluster cl
  if rbufAt c off n then
    let (v, s) := s.freeNat
    (s, v % 2 ^ (8 * n), false)
  else (s, ByteMap.readNat c.scratch off n, (List.range n).any fun i => c.scratchBad.contains (off + i))

/-- Bytes of a cluster's scratch written. -/
def scratchWrite (c : Cluster) (off : Nat) (bs : List Byte) : Cluster :=
  { c with
    scratch := ByteMap.write c.scratch off bs
    scratchBad := if c.scratchBad.isEmpty then [] else c.scratchBad.filter fun b => !(decide (off ≤ b) && decide (b < off + bs.length)) }

/-- The scratch cycles of a group access to sectors at `addrs`: the most distinct sectors in one of the four banks
(R80). -/
def scratchCycles (addrs : List Nat) : Nat :=
  let secs := (addrs.map fun a => a / 32).eraseDups
  (List.range 4).foldl (fun m k => max m (secs.filter fun x => x % 4 = k).length) 0

/-- The bank cycles beyond the first that a group access takes, counted as SCR_EXTRA (R80, R523). -/
def countScratch (s : State) (cl part : Nat) (addrs : List Nat) : State :=
  if scratchCycles addrs ≤ 1 then s
  else s.observe { ev := 0x08, part := some part, kind := 4, src := cl, count := scratchCycles addrs - 1 }

/-- Whether a global access must wait: its line has a transaction in progress or older requests wait for it at the slice
(R277, R281), or it writes a held range (R133). -/
def accessHeld (s : State) (a n : Nat) (write : Bool) : Bool :=
  match rangeOf a with
  | .dram | .spine => s.mem.lineBusy (a / 128) || (s.firstFor (a / 128)).isSome || (write && s.mem.ropeHolds a)
  | .scratchWin => write && heldAt (s.cluster (winCluster a)) (winOff a) n
  | _ => false

/-- The same for an atomic, LDR or STC of a cluster, whose own request may be the oldest (R172). -/
def atomicHeld (s : State) (cl a n : Nat) (write : Bool) : Bool :=
  match rangeOf a with
  | .dram | .spine => s.mem.lineBusy (a / 128) || !s.inTurn (a / 128) (atomicOf s cl) || (write && s.mem.ropeHolds a)
  | _ => accessHeld s a n write

/-- The requests of an atomic, LDR or STC leave their slices' queues. -/
def takeTurns (s : State) (as : List Nat) : State :=
  ((as.filter fun a => rangeOf a == .dram || rangeOf a == .spine).map (· / 128)).eraseDups.foldl State.takeTurn s

/-- A store turned away: where a hold of R407 is the cause it is counted in HOLD_EVENTS. -/
def holdStore (s : State) (as : List Nat) : Eff :=
  if as.any s.mem.ropeHolds then .held { s with rope := { s.rope with holds := satAdd s.rope.holds 1 0xFFFF } } else .hold

/-- A global load of `n` bytes by cluster `cl` for partition `p`, not to the host window: value and bus error. -/
def globalLoad (s : State) (cl p a n : Nat) : State × Nat × Bool :=
  match rangeOf a with
  | .dram | .spine =>
    let (m, v, e) := l1Load s.mem s.time (s.ways p) cl a n
    ({ s with mem := m }, v, e)
  | .scratchWin => scratchRead s (winCluster a) (winOff a) n
  | .nbWin => (s, nbRead s.mem a n, false)
  | _ => (s, 0, false)

/-- A global store of `n` bytes (R78, R163, R184). -/
def globalStore (s : State) (cl p a n v : Nat) : State :=
  match rangeOf a with
  | .dram | .spine => { s with mem := l1Store s.mem s.time (s.ways p) cl a n v }
  | .scratchWin =>
    let k := winCluster a
    s.setCluster k (scratchWrite (s.cluster k) (winOff a) (leBytes v n))
  | .nbWin => { s with mem := nbWrite s.mem (s.part p).allocs p a n v }
  | .hostWin => s.send (.hostWrite (hostFn p) (a - hostBase) (leBytes v n))
  | _ => s

/-- A host read sent, to be completed later (R563). -/
def sendHostRead (s : State) (f : Nat) (segs : List (Nat × Nat)) (k : HrKind) : State :=
  let s := s.send (.hostRead s.hrNext f segs)
  { s with hostReads := s.hostReads ++ [⟨s.hrNext, f, segs, k, s.time⟩], hrNext := s.hrNext + 1 }

/-- A loaded value as it stands in its registers (R98). -/
def loadExtend (v n : Nat) (signed : Bool) : Nat := if signed then wrapInt (sextInt v (8 * n)) 32 else v

/-- State, lanes that received a bus error and their addresses, as lanes are performed in order. -/
structure LaneRun where
  s : State
  bad : List (Nat × Nat) := []

/-- The outcome of lanes performed: done, or a bus error found as data returned (R87). -/
def LaneRun.eff (r : LaneRun) : Eff :=
  match r.bad with
  | [] => .done r.s
  | (_, a) :: _ => .late r.s 5 (r.bad.foldl (fun m e => m ||| (1#8 <<< e.1)) 0) a

/-- Whether bytes of the L1 of a cluster serve an access: those a load wants, or a line that a store may write (R81, R279). -/
def l1Hits (m : MemSys) (c a n : Nat) (write : Bool) : Bool :=
  let x := m.l1Line c (a / 128)
  let y := x.sec (a % 128 / 32)
  x.present && if write then (m.lineAt (a / 128)).dir == .own c
    else y.mask &&& byteMask (a % 32) n == byteMask (a % 32) n && y.parBad &&& byteMask (a % 32) n == 0

/-- L1_HIT and L1_MISS of a group access: one for each distinct sector that its lanes touch (R82, R523). -/
def countL1 (s : State) (cl part : Nat) (as : List Nat) (n : Nat) (write : Bool) : State :=
  let as := as.filter fun a => (rangeOf a == .dram || rangeOf a == .spine) && !isNbRaw s.mem a
  let secs := (as.map (· / 32)).eraseDups
  let hit (k : Nat) : Bool := as.all fun a => a / 32 ≠ k || l1Hits s.mem cl a n write
  let count (s : State) (ev n : Nat) : State := if n = 0 then s else s.observe { ev := ev, part := some part, kind := 4, src := cl, count := n }
  count (count s 0x06 (secs.filter hit).length) 0x07 (secs.filter fun k => !hit k).length

/-- Whether a store finds a sector of its slice whose parity error cannot be masked: it goes past the L1 only to raw lines of a
channel in near-bank mode, to lines under a reservation and to lines no slice can hold (R280, R298). -/
def storeFinds (s : State) (a n : Nat) : Bool :=
  (rangeOf a == .dram || rangeOf a == .spine) && s.mem.rsv (a / 128) && writeFinds s.mem a (byteMask (a % 32) n)

/-- A register result of one lane. -/
def setLane (s : State) (g : Grp) (gr : Group) (vd n i v : Nat) : State :=
  s.setCluster g.cl ((s.cluster g.cl).setVWide g gr vd i v n)

/-- R112: global load. -/
def execLdg (g : Grp) (w : LdWidth) (vd va : BitVec 7) (sp pg : BitVec 3) (s : State) : Host.Outcome State Fault Refusal :=
  let (n, regs, signed) := ldInfo w
  .next (coreStep s g (mUses vd va sp pg regs false regs) fun s gr b lanes =>
    let ls := lanesOf lanes
    let addr := laneAddr (s.cluster g.cl) g gr va.toNat sp.toNat
    match lanesFault ls (fun i => globalClasses s g.cl b.part (addr i) n) addr with
    | some (k, m, a) => .flt k m a
    | none =>
      if ls.any fun i => accessHeld s (addr i) n false then .hold
      else LaneRun.eff (ls.foldl (fun (r : LaneRun) i =>
        let a := addr i
        if rangeOf a = .hostWin then
          { r with s := sendHostRead r.s (b.part + 1) [(a - hostBase, n)] (.lane g i vd.toNat regs signed gr.pc) }
        else
          let (s', v, e) := globalLoad r.s g.cl b.part a n
          if e then { s := s', bad := r.bad ++ [(i, a)] }
          else { r with s := setLane s' g gr vd.toNat regs i (loadExtend v n signed) })
        { s := countL1 s g.cl b.part (ls.map addr) n false }))

/-- R112: global store; the highest lane's byte remains (R79). -/
def execStg (g : Grp) (w : StWidth) (vd va : BitVec 7) (sp pg : BitVec 3) (s : State) : Host.Outcome State Fault Refusal :=
  let (n, regs) := stInfo w
  .next (coreStep s g (mUses vd va sp pg regs true regs) fun s gr b lanes =>
    let ls := lanesOf lanes
    let c := s.cluster g.cl
    let addr := laneAddr c g gr va.toNat sp.toNat
    match lanesFault ls (fun i => globalClasses s g.cl b.part (addr i) n) addr with
    | some (k, m, a) => .flt k m a
    | none =>
      if ls.any fun i => accessHeld s (addr i) n true then holdStore s (ls.map addr)
      else LaneRun.eff (ls.foldl (fun (r : LaneRun) i =>
        { s := globalStore r.s g.cl b.part (addr i) n (c.vWide g gr vd.toNat i regs)
          bad := if storeFinds r.s (addr i) n then r.bad ++ [(i, addr i)] else r.bad })
        { s := countL1 s g.cl b.part (ls.map addr) n true }))

/-- R112: scratch load. ADDRESS of a fault of a core's scratch instruction is the offset in the block, not an address of the scratch
window (DESIGN CHOICE, log entry 30: R91 says only 'faulting address'). -/
def execLds (g : Grp) (w : LdWidth) (vd va : BitVec 7) (sp pg : BitVec 3) (s : State) : Host.Outcome State Fault Refusal :=
  let (n, regs, signed) := ldInfo w
  .next (coreStep s g (mUses vd va sp pg regs false regs) fun s gr b lanes =>
    let ls := lanesOf lanes
    let off := laneOff (s.cluster g.cl) g gr va.toNat sp.toNat
    match lanesFault ls (fun i => scratchClasses b (off i) n) off with
    | some (k, m, a) => .flt k m a
    | none =>
      LaneRun.eff (ls.foldl (fun (r : LaneRun) i =>
        let (s', v, e) := scratchRead r.s g.cl (b.scrBase + off i) n
        if e then { s := s', bad := r.bad ++ [(i, off i)] }
        else { r with s := setLane s' g gr vd.toNat regs i (loadExtend v n signed) })
        { s := countScratch s g.cl b.part (ls.map fun i => b.scrBase + off i) }))

/-- R112: scratch store; a write to a held range waits (R133). -/
def execSts (g : Grp) (w : StWidth) (vd va : BitVec 7) (sp pg : BitVec 3) (s : State) : Host.Outcome State Fault Refusal :=
  let (n, regs) := stInfo w
  .next (coreStep s g (mUses vd va sp pg regs true regs) fun s gr b lanes =>
    let ls := lanesOf lanes
    let c := s.cluster g.cl
    let off := laneOff c g gr va.toNat sp.toNat
    match lanesFault ls (fun i => scratchClasses b (off i) n) off with
    | some (k, m, a) => .flt k m a
    | none =>
      if ls.any fun i => heldAt c (b.scrBase + off i) n then .hold
      else .done ((countScratch s g.cl b.part (ls.map fun i => b.scrBase + off i)).setCluster g.cl (ls.foldl (fun c' i =>
        scratchWrite c' (b.scrBase + off i) (leBytes (c.vWide g gr vd.toNat i regs) n)) c)))

/-- Faults of an access that only the slices serve: LDR, STC and the atomics they perform (R173, R175, R326). -/
def sliceClasses (s : State) (cl p a n : Nat) : List Nat :=
  globalClasses s cl p a n ++
    (if (rangeOf a == .dram || rangeOf a == .spine) && !isNbRaw s.mem a then [] else [2])

/-- R175: a load that records a reservation for each executing lane. -/
def execLdr (g : Grp) (wide : Bool) (vd va : BitVec 7) (sp pg : BitVec 3) (s : State) : Host.Outcome State Fault Refusal :=
  let regs := if wide then 2 else 1
  let n := 4 * regs
  .next (coreStep s g (mUses vd va sp pg regs false regs) fun s gr b lanes =>
    let ls := lanesOf lanes
    let addr := laneAddr (s.cluster g.cl) g gr va.toNat sp.toNat
    match lanesFault ls (fun i => sliceClasses s g.cl b.part (addr i) n) addr with
    | some (k, m, a) => .flt k m a
    | none =>
      if ls.any fun i => atomicHeld s g.cl (addr i) n false then .hold
      else LaneRun.eff (ls.foldl (fun (r : LaneRun) i =>
        let a := addr i
        let (m, sd) := uncachedReadSec r.s.mem r.s.time (r.s.ways b.part) a
        if sd.err || m.vertOut.contains g.cl then { s := { r.s with mem := dropResv m g i }, bad := r.bad ++ [(i, a)] }
        else
          let v := (sd.data.toNat >>> (8 * (a % 32))) % 2 ^ (8 * n)
          { r with s := setLane { r.s with mem := addResv m g i a n } g gr vd.toNat regs i v }) { s := takeTurns s (ls.map addr) }))

/-- R177: store-conditional, lanes in increasing order: 0 on success, 1 on failure; the reservation is consumed. -/
def execStc (g : Grp) (wide : Bool) (vd va : BitVec 7) (sp pg : BitVec 3) (s : State) : Host.Outcome State Fault Refusal :=
  let regs := if wide then 2 else 1
  let n := 4 * regs
  .next (coreStep s g (mUses vd va sp pg regs true regs) fun s gr b lanes =>
    let ls := lanesOf lanes
    let c := s.cluster g.cl
    let addr := laneAddr c g gr va.toNat sp.toNat
    match lanesFault ls (fun i => sliceClasses s g.cl b.part (addr i) n) addr with
    | some (k, m, a) => .flt k m a
    | none =>
      if ls.any fun i => atomicHeld s g.cl (addr i) n true then holdStore s (ls.map addr)
      else .done (ls.foldl (fun s i =>
        let a := addr i
        let ok := match findResv s.mem g i with
          | some r => r.addr == a && r.width == n
          | none => false
        let m := dropResv s.mem g i
        let m := if ok then
            uncachedWriteSec m s.time (s.ways b.part) a (byteMask (a % 32) n)
              (BitVec.ofNat 256 (c.vWide g gr vd.toNat i regs <<< (8 * (a % 32))))
          else m
        setLane { s with mem := m } g gr vd.toNat regs i (if ok then 0 else 1)) (takeTurns s (ls.map addr))))

/-- Registers, alignment and bytes of an atomic (R114). -/
def atomInfo : AtomOp → Nat × Nat × Nat
  | .cas32 => (2, 2, 4)
  | .add64 | .xchg64 => (2, 2, 8)
  | .cas64 => (4, 4, 8)
  | .addX128 => (4, 4, 16)
  | _ => (1, 1, 4)

/-- The slice operation of an atomic on its data registers (R114, R284). -/
def atomSliceOp (op : AtomOp) (v : Nat) : SliceOp :=
  let a := BitVec.ofNat 32 v
  match op with
  | .add32 => .add32 a
  | .minS32 => .minS32 a
  | .minU32 => .minU32 a
  | .maxS32 => .maxS32 a
  | .maxU32 => .maxU32 a
  | .and32 => .and32 a
  | .or32 => .or32 a
  | .xor32 => .xor32 a
  | .xchg32 => .xchg32 a
  | .cas32 => .cas32 a (BitVec.ofNat 32 (v >>> 32))
  | .add64 => .add64 (BitVec.ofNat 64 v)
  | .xchg64 => .xchg64 (BitVec.ofNat 64 v)
  | .cas64 => .cas64 (BitVec.ofNat 64 v) (BitVec.ofNat 64 (v >>> 64))
  | .addX128 => .addX128 (BitVec.ofNat 128 v)

/-- The PCIe AtomicOp of an atomic on the host window (R173); none: a protection fault. -/
def atomHostOp (op : AtomOp) (v : Nat) : Option (PcieAtomic × BitVec 64 × BitVec 64) :=
  match op with
  | .add32 | .add64 => some (.fetchAdd, BitVec.ofNat 64 v, 0)
  | .xchg32 | .xchg64 => some (.swap, BitVec.ofNat 64 v, 0)
  | .cas32 => some (.cas, BitVec.ofNat 64 (v % 2 ^ 32), BitVec.ofNat 64 (v >>> 32))
  | .cas64 => some (.cas, BitVec.ofNat 64 v, BitVec.ofNat 64 (v >>> 64))
  | _ => none

/-- Faults of an atomic access (R173, R326). -/
def atomClasses (s : State) (cl p a n : Nat) (op : AtomOp) : List Nat :=
  if rangeOf a = .hostWin then globalClasses s cl p a n ++ (if (atomHostOp op 0).isSome then [] else [2])
  else sliceClasses s cl p a n

/-- R114, R115: atomics as if in increasing lane order, each returning what its own operation found. -/
def execAtom (g : Grp) (op : AtomOp) (vd va : BitVec 7) (sp pg : BitVec 3) (s : State) : Host.Outcome State Fault Refusal :=
  let (regs, al, n) := atomInfo op
  let wr := (n + 3) / 4
  .next (coreStep s g (mUses vd va sp pg regs true al) fun s gr b lanes =>
    let ls := lanesOf lanes
    let c := s.cluster g.cl
    let addr := laneAddr c g gr va.toNat sp.toNat
    match lanesFault ls (fun i => atomClasses s g.cl b.part (addr i) n op) addr with
    | some (k, m, a) => .flt k m a
    | none =>
      if ls.any fun i => atomicHeld s g.cl (addr i) n true then holdStore s (ls.map addr)
      else LaneRun.eff (ls.foldl (fun (r : LaneRun) i =>
        let a := addr i
        let v := c.vWide g gr vd.toNat i regs
        match (if rangeOf a = .hostWin then atomHostOp op v else none) with
        | some (pop, x, y) =>
          let id := r.s.hrNext
          let s' := r.s.send (.hostAtomic id (b.part + 1) (a - hostBase) pop n x y)
          { r with s := { s' with
              hostReads := s'.hostReads ++ [⟨id, b.part + 1, [(a - hostBase, n)], .lane g i vd.toNat wr false gr.pc, s'.time⟩]
              hrNext := id + 1 } }
        | none =>
          let (m, old, e) := sliceAtomicAt r.s.mem r.s.time (r.s.ways b.part) a (atomSliceOp op v)
          if e || m.vertOut.contains g.cl then { s := { r.s with mem := m }, bad := r.bad ++ [(i, a)] }
          else { r with s := setLane { r.s with mem := m } g gr vd.toNat wr i old }) { s := takeTurns s (ls.map addr) }))

/-! #### Scalar loads and stores (R116, R117) -/

/-- The address of an SM word. -/
def smAddr (gr : Group) (sp : BitVec 3) (imm : BitVec 16) : Nat := wrapInt ((gr.pair sp.toNat : Int) + imm.toInt) 48
def smOff (gr : Group) (sp : BitVec 3) (imm : BitVec 16) : Nat := (gr.s (2 * sp.toNat) + imm.signExtend 32).toNat

def smUses (sd : BitVec 4) (sp : BitVec 3) (pairUsed store : Bool) : Uses :=
  let addr := 2 * sp.toNat :: (if pairUsed then [2 * sp.toNat + 1] else [])
  { sr := sd.toNat :: addr, ssrc := if store then sd.toNat :: addr else addr, vector := false }

/-- R116: global 32-bit scalar load. -/
def execSldg (g : Grp) (sd : BitVec 4) (sp : BitVec 3) (imm : BitVec 16) (s : State) : Host.Outcome State Fault Refusal :=
  .next (coreStep s g (smUses sd sp true false) fun s gr b _ =>
    let a := smAddr gr sp imm
    match (globalClasses s g.cl b.part a 4).min? with
    | some k => .flt k 0 a
    | none =>
      if accessHeld s a 4 false then .hold
      else if rangeOf a = .hostWin then
        .done (sendHostRead s (b.part + 1) [(a - hostBase, 4)] (.scalar g sd.toNat gr.pc))
      else
        let (s', v, e) := globalLoad (countL1 s g.cl b.part [a] 4 false) g.cl b.part a 4
        if e then .late s' 5 0 a
        else .done (s'.setGroup g ((s'.group g).setS sd.toNat (BitVec.ofNat 32 v))))

/-- R116: global 32-bit scalar store. -/
def execSstg (g : Grp) (sd : BitVec 4) (sp : BitVec 3) (imm : BitVec 16) (s : State) : Host.Outcome State Fault Refusal :=
  .next (coreStep s g (smUses sd sp true true) fun s gr b _ =>
    let a := smAddr gr sp imm
    match (globalClasses s g.cl b.part a 4).min? with
    | some k => .flt k 0 a
    | none =>
      if accessHeld s a 4 true then holdStore s [a]
      else
        let t := globalStore (countL1 s g.cl b.part [a] 4 true) g.cl b.part a 4 (gr.s sd.toNat).toNat
        if storeFinds s a 4 then .late t 5 0 a else .done t)

/-- R116: scratch 32-bit scalar load. -/
def execSlds (g : Grp) (sd : BitVec 4) (sp : BitVec 3) (imm : BitVec 16) (s : State) : Host.Outcome State Fault Refusal :=
  .next (coreStep s g (smUses sd sp false false) fun s gr b _ =>
    let o := smOff gr sp imm
    match (scratchClasses b o 4).min? with
    | some k => .flt k 0 o
    | none =>
      let (s', v, e) := scratchRead s g.cl (b.scrBase + o) 4
      if e then .late s' 5 0 o
      else .done (s'.setGroup g ((s'.group g).setS sd.toNat (BitVec.ofNat 32 v))))

/-- R116: scratch 32-bit scalar store. -/
def execSsts (g : Grp) (sd : BitVec 4) (sp : BitVec 3) (imm : BitVec 16) (s : State) : Host.Outcome State Fault Refusal :=
  .next (coreStep s g (smUses sd sp false true) fun s gr b _ =>
    let o := smOff gr sp imm
    match (scratchClasses b o 4).min? with
    | some k => .flt k 0 o
    | none =>
      if heldAt (s.cluster g.cl) (b.scrBase + o) 4 then .hold
      else .done (s.setCluster g.cl
        (scratchWrite (s.cluster g.cl) (b.scrBase + o) (leBytes (gr.s sd.toNat).toNat 4))))

end Sys2Proof.Machine
end

