-- ==== Sys2Proof/Machine/TdImage.lean ====
section
/-! DEFINITION. Descriptor images: fields, validation, views, element addresses
(spec/09_tensor_descriptors.md R243-R256, R265, spec/08_reduction_in_flight.md R224, R225). -/

namespace Sys2Proof.Machine

/-- A window of a tensor image (R249). -/
structure Win where
  dim : Nat
  taps : Nat
  stride : Nat
  dil : Nat
  pad : Nat
  deriving DecidableEq, Repr

/-- The fields of a tensor image (R249). -/
structure TImg where
  fmt : Nat
  sfmt : Nat
  ndim : Nat
  layout : Nat
  rm : Nat
  anchorScale : Int
  retile : Nat
  transpose : Bool
  partOff0 : Nat
  partOff1 : Nat
  scrInner : Nat
  sbind : Nat
  base : Nat
  stream : Nat
  scaled : Bool
  block32 : Bool
  blockDim : Nat
  ext : List Nat
  stride : List Nat
  tile : List Nat
  nwin : Nat
  wins : List Win
  auxH : Nat
  deriving DecidableEq, Repr

def winAt (v w : Nat) : Win :=
  { dim := bitsOf v (w + 2) w, taps := bitsOf v (w + 6) (w + 3) + 1, stride := bitsOf v (w + 8) (w + 7) + 1,
    dil := bitsOf v (w + 10) (w + 9) + 1, pad := bitsOf v (w + 13) (w + 11) }

def extAt (v d : Nat) : Nat :=
  (if d < 4 then bitsOf v (128 + 24 * d + 23) (128 + 24 * d) else bitsOf v (224 + 16 * (d - 4) + 15) (224 + 16 * (d - 4))) + 1

def strideAt (v d : Nat) : Nat := if d = 0 then 0 else bitsOf v (224 + 32 * d + 31) (224 + 32 * d)

def tImg (img : BitVec 512) : TImg :=
  let v := img.toNat
  let ndim := bitsOf v 20 18 + 1
  let nwin := bitsOf v 465 464
  { fmt := bitsOf v 12 8, sfmt := bitsOf v 17 13, ndim := ndim, layout := bitsOf v 22 21, rm := bitsOf v 25 23,
    anchorScale := sextInt (bitsOf v 35 26) 10, retile := bitsOf v 37 36, transpose := bitOf v 38,
    partOff0 := bitsOf v 48 39, partOff1 := bitsOf v 58 49, scrInner := bitsOf v 61 59, sbind := bitsOf v 63 62,
    base := bitsOf v 111 64, stream := bitsOf v 115 112, scaled := bitOf v 116, block32 := bitOf v 117,
    blockDim := bitsOf v 120 118, ext := (List.range ndim).map (extAt v), stride := (List.range ndim).map (strideAt v),
    tile := (List.range (ndim + nwin)).map (fun d => bitsOf v (416 + 8 * d + 7) (416 + 8 * d) + 1),
    nwin := nwin, wins := (List.range (min nwin 2)).map (fun w => winAt v (466 + 14 * w)), auxH := bitsOf v 509 494 }

def imgKind (img : BitVec 512) : Nat := bitsOf img.toNat 3 0
def imgVersion (img : BitVec 512) : Nat := bitsOf img.toNat 7 4

def TImg.bk (t : TImg) : Nat := if t.block32 then 32 else 16
def TImg.extD (t : TImg) (d : Nat) : Nat := t.ext.getD d 1
def TImg.strideD (t : TImg) (d : Nat) : Nat := t.stride.getD d 0
def TImg.tileD (t : TImg) (d : Nat) : Nat := t.tile.getD d 1
def TImg.ebits (t : TImg) : Nat := (fmtWidth t.fmt).getD 8
def TImg.sbits (t : TImg) : Nat := (fmtWidth t.sfmt).getD 8

/-- Bytes of a packed run of n elements of `bits` bits (R253). -/
def packedBytes (n bits : Nat) : Nat := ceilDiv (n * bits) 8

/-- The window on a piece dimension, if any. -/
def TImg.winOn (t : TImg) (d : Nat) : Option Win := t.wins.find? fun w => w.dim = d

/-- OUT of R254; 0 where it is below 1. -/
def winOut (e : Nat) (w : Win) : Nat :=
  if e + 2 * w.pad < w.dil * (w.taps - 1) + 1 then 0 else (e + 2 * w.pad - w.dil * (w.taps - 1) - 1) / w.stride + 1

/-- Extents of the view (R254). -/
def TImg.view (t : TImg) : List Nat :=
  (List.range t.ndim).map (fun d => match t.winOn d with
    | some w => winOut (t.extD d) w
    | none => t.extD d) ++ t.wins.map Win.taps

def listProd : List Nat → Nat
  | [] => 1
  | x :: xs => x * listProd xs

/-- The bytes of a tile image in scratch (R256), or of the panel layout of a scaled load (R259). -/
def TImg.imageBytes (t : TImg) : Nat := packedBytes (listProd t.tile) t.sbits

def TImg.panelBytes (t : TImg) : Nat :=
  let n := t.tileD t.scrInner
  let k := if t.blockDim = t.scrInner then 1 else t.tileD t.blockDim
  ceilDiv k t.bk * n + packedBytes (n * k) t.sbits

/-- Highest byte of a tensor (R253). -/
def TImg.high (t : TImg) : Nat :=
  if t.layout = 0 then
    t.base + ((List.range t.ndim).map fun d => if d = 0 then 0 else (t.extD d - 1) * t.strideD d).sum +
      packedBytes (t.extD 0) t.ebits - 1
  else
    t.base + ((List.range t.ndim).map fun d => if d < 2 then 0 else (t.extD d - 1) * t.strideD d).sum +
      (ceilDiv (t.extD 1) 8 - 1) * t.strideD 1 + packedBytes (64 * ceilDiv (t.extD 0) 8) t.ebits - 1

/-- Byte address of the row and bit position in it of the element at piece coordinates `c` (R251). -/
def TImg.elemAt (t : TImg) (c : List Nat) : Nat × Nat :=
  let x (d : Nat) : Nat := c.getD d 0
  if t.layout = 0 then
    (t.base + ((List.range t.ndim).map fun d => if d = 0 then 0 else x d * t.strideD d).sum, x 0 * t.ebits)
  else
    (t.base + ((List.range t.ndim).map fun d => if d < 2 then 0 else x d * t.strideD d).sum + x 1 / 8 * t.strideD 1,
      (x 0 / 8 * 64 + x 1 % 8 * 8 + x 0 % 8) * t.ebits)

/-- The view coordinate an element index names (R255). -/
def coordOf : List Nat → Nat → List Nat
  | [], _ => []
  | e :: es, n => n % e :: coordOf es (n / e)

/-- The piece coordinates a view coordinate reads (R254); none: outside the view or the piece. -/
def TImg.pieceOf (t : TImg) (v : List Nat) : Option (List Nat) :=
  if (List.range (t.ndim + t.nwin)).any fun d => decide (t.view.getD d 1 ≤ v.getD d 0) then none
  else
    let c := (List.range t.ndim).map fun d =>
      match (List.range t.wins.length).find? fun w => (t.wins[w]?.map Win.dim) == some d with
      | some w =>
        let win := t.wins.getD w ⟨0, 1, 1, 1, 0⟩
        (v.getD d 0 * win.stride + v.getD (t.ndim + w) 0 * win.dil : Int) - win.pad
      | none => (v.getD d 0 : Int)
    if (List.range t.ndim).any fun d => decide (c.getD d 0 < 0) || decide ((t.extD d : Int) ≤ c.getD d 0) then none
    else some (c.map Int.toNat)

/-- The view dimensions in scratch order, fastest first (R256). -/
def TImg.scrOrder (t : TImg) : List Nat :=
  t.scrInner :: (List.range (t.ndim + t.nwin)).filter (· ≠ t.scrInner)

/-- The view coordinate of scratch element `n` of the tile at `origin`. -/
def TImg.tileCoord (t : TImg) (origin : List Nat) (n : Nat) : List Nat :=
  let ord := t.scrOrder
  let offs := coordOf (ord.map t.tileD) n
  (List.range (t.ndim + t.nwin)).map fun d =>
    origin.getD d 0 + ((List.range ord.length).find? fun i => ord.getD i 0 = d).elim 0 (fun i => offs.getD i 0)

/-- Number of elements of a tile. -/
def TImg.tileCount (t : TImg) : Nat := listProd t.tile

/-! #### Validation (R246-R254, R265) -/

/-- INVALID_FIELD of a tensor image but for stream binding (R249, R250). -/
def TImg.badField (t : TImg) (v : Nat) : Bool :=
  let vd := t.ndim + t.nwin
  let zero (hi lo : Nat) : Bool := bitsOf v hi lo == 0
  let raw (f : Nat) : Bool := f == 0x12 || isCodebook f
  decide (6 < t.ndim) || decide (2 < t.nwin) || !zero 127 121 || !zero 511 510 ||
  decide (2 ≤ t.layout) || t.sbind == 3 ||
  (List.range 6).any (fun d => decide (t.ndim ≤ d) &&
    !(if d < 4 then zero (128 + 24 * d + 23) (128 + 24 * d) else zero (224 + 16 * (d - 4) + 15) (224 + 16 * (d - 4)))) ||
  (List.range 6).any (fun d => decide (1 ≤ d) && decide (t.ndim ≤ d) && !zero (224 + 32 * d + 31) (224 + 32 * d)) ||
  (List.range 6).any (fun d => decide (vd ≤ d) && !zero (416 + 8 * d + 7) (416 + 8 * d)) ||
  (decide (t.nwin < 1) && !zero 479 466) || (decide (t.nwin < 2) && !zero 493 480) ||
  decide (0x12 < t.fmt) || decide (0x12 < t.sfmt) || (t.fmt == 0x11) != (t.sfmt == 0x11) || (t.fmt == 0x11 && t.scaled) ||
  (t.fmt != t.sfmt && (raw t.fmt || raw t.sfmt)) ||
  decide (5 ≤ t.rm) || (t.rm == 4 && t.scaled) || (t.rm != 0 && t.fmt == 0x12) ||
  (t.scaled && (!scaleAllowed t.fmt || t.nwin != 0 || decide (t.ndim ≤ t.blockDim))) ||
  (t.scaled && ((t.tileD t.scrInner != 8 && t.tileD t.scrInner != 16) ||
    (List.range vd).any fun d => d != t.scrInner && d != t.blockDim && decide (1 < t.tileD d))) ||
  (t.layout == 1 && (decide (t.ndim < 2) || t.nwin != 0)) ||
  t.wins.any (fun w => decide (t.ndim ≤ w.dim)) ||
  (match t.wins with | [a, b] => a.dim == b.dim | _ => false) || decide (6 < vd) ||
  decide (vd ≤ t.scrInner) ||
  (t.sbind == 1 && (t.base != 0 || t.stride.any (· != 0)))

/-- OUT_OF_BOUNDS of a tensor image (R254). -/
def TImg.outOfBounds (t : TImg) : Bool :=
  t.view.any (· == 0) || decide (2 ^ 32 < listProd t.view) ||
  (List.range (t.ndim + t.nwin)).any (fun d => decide (t.view.getD d 1 < t.tileD d)) || decide (16384 < t.imageBytes)

/-- MISALIGNED (R252). -/
def TImg.misaligned (t : TImg) : Bool :=
  let es := t.ebits / 8
  (decide (8 ≤ t.ebits) && (t.base % es != 0 || t.stride.any fun x => x % es != 0)) ||
  (t.ebits == 6 && t.stride.any fun x => x % 3 != 0) ||
  (t.layout == 1 && t.strideD 1 % (64 * t.ebits / 8) != 0)

/-- ALLOC_VIOLATION of a tensor image (R253). -/
def TImg.allocBad (t : TImg) (al : NMap Alloc) : Bool :=
  !(allocCovers al 1#2 t.base (t.high + 1 - t.base) && decide (t.high < 2 ^ 48) && rangeOf t.base != .nbWin &&
    rangeOf t.base != .control)

/-- Whether work of a cluster still names descriptor slot `i`, itself or through AUX_H (R244). -/
def tdBusy (s : State) (cl i : Nat) : Bool :=
  let c := s.cluster cl
  let names (h : Nat) : Bool := h % 64 == i || (NMap.get {} c.td (h % 64)).image.toNat >>> 494 % 64 == i &&
    (let t := tImg (NMap.get {} c.td (h % 64)).image; imgKind (NMap.get {} c.td (h % 64)).image == 1 && (t.scaled || t.rm == 4))
  let opNames (o : MxOp) : Bool := match o with
    | .store h _ => names h
    | .redAcc h _ => names h
    | _ => false
  let closes (ch : Option Chain) : Bool := match ch with
    | some ch => (match ch.closing with | some o => opNames o | none => false)
    | none => false
  (c.mx.queues.any fun q => q.2.any fun e => opNames e.op) || closes c.mx.current || closes c.mx.drain ||
  (c.mx.drained.any fun ch => closes (some ch)) || (c.tdOps.any fun o => names o.slot) ||
  (match (NMap.get {} c.td i).red with | some r => r.opActive || !r.outQ.isEmpty | none => false)

/-- A descriptor slot that a TD.CREATE may fill: neither live nor still named by an issued operation (R244). -/
def tdFree (s : State) (cl i : Nat) : Bool :=
  let t := NMap.get {} (s.cluster cl).td i
  !t.live && !(t.closing && tdBusy s cl i)

/-- Whether a stream is bound to a handle that is live or still in use (R260). -/
def streamBound (s : State) (cl : Nat) (m : NMap StreamSt) (n : Nat) : Bool :=
  match (NMap.get {} m n).bound with
  | none => false
  | some i => !tdFree s cl i

/-- The slot of a live handle of a block (R120, R244). -/
def tdLookup (c : Cluster) (b h : Nat) : Option Nat :=
  let t := NMap.get {} c.td (h % 64)
  if h < 65536 && t.live && t.bslot = b && t.gen.toNat = h / 64 then some (h % 64) else none

/-- The conditions on AUX_H (R250, R244). -/
def auxBad (c : Cluster) (b : Nat) (t : TImg) : Bool :=
  if t.scaled then
    match tdLookup c b t.auxH with
    | none => true
    | some i =>
      let img := (NMap.get {} c.td i).image
      let a := tImg img
      !(imgKind img == 1 && a.fmt == 0x11 && a.ndim == t.ndim && a.layout == 0 && a.nwin == 0 &&
        (List.range t.ndim).all fun d =>
          a.extD d == (if d = t.blockDim then ceilDiv (t.extD d) t.bk else t.extD d))
  else if t.rm = 4 then
    match tdLookup c b t.auxH with
    | none => true
    | some i => imgKind (NMap.get {} c.td i).image != 3
  else false

/-- The fields of a reduction image (R224). -/
def redImg (img : BitVec 512) : RedHandle :=
  let v := img.toNat
  { root := bitOf v 64, anchored := bitOf v 65, anchor := sextInt (bitsOf v 75 66) 10, redId := bitsOf v 91 76,
    words := bitsOf v 100 92 + 1, elemBase := bitsOf v 109 101, stream := bitsOf v 113 110,
    firstPeriod := bitsOf v 143 128, rbuf := 32 * bitsOf v 168 160, localContrib := bitsOf v 192 176,
    fabricContrib := bitsOf v 209 193, destKind := bitsOf v 211 210, outFmt := bitsOf v 216 212,
    rm := bitsOf v 219 217, dest := bitsOf v 271 224 }

/-- INVALID_FIELD of a reduction image but for stream binding (R225). -/
def redBadField (r : RedHandle) (v : Nat) : Bool :=
  let zero (hi lo : Nat) : Bool := bitsOf v hi lo == 0
  !zero 63 8 || !zero 127 114 || !zero 159 144 || !zero 175 169 || !zero 223 220 || !zero 511 272 ||
  decide (r.words ≤ r.elemBase) ||
  (if r.root then
    r.localContrib + r.fabricContrib == 0 || decide (65536 < r.localContrib + r.fabricContrib) ||
    [0x00, 0x01, 0x0B, 0x0C, 0x11].contains r.outFmt || decide (0x12 < r.outFmt) ||
    decide (4 ≤ r.rm) || (r.outFmt == 0x12 && r.rm != 0) || r.destKind == 3
  else !zero 168 160 || !zero 271 176)

/-- Bytes of a reduction's delivered elements. -/
def redDestBytes (r : RedHandle) : Nat := packedBytes r.words ((fmtWidth r.outFmt).getD 8)

/-- The creation-failure status of an image: the lowest that applies (R246); 0 for a valid image. -/
def tdStatus (s : State) (cl b : Nat) (img : BitVec 512) : Nat :=
  let c := s.cluster cl
  let bl := c.block b
  let al := (s.part bl.part).allocs
  let v := img.toNat
  let k := imgKind img
  let noSlot := !(List.range 64).any (tdFree s cl)
  if k ≠ 1 && k ≠ 2 && k ≠ 3 then 1
  else if imgVersion img ≠ 1 then 2
  else if k = 1 then
    let t := tImg img
    if t.badField v || (t.sbind != 0 && (streamBound s cl c.streamIn t.stream || streamBound s cl c.streamOut t.stream)) then 3
    else if t.outOfBounds then 4
    else if t.allocBad al then 5
    else if t.misaligned then 6
    else if auxBad c b t then 7
    else if noSlot then 8 else 0
  else if k = 2 then
    let r := redImg img
    if redBadField r v ||
      (if r.root then decide (0 < r.fabricContrib) && streamBound s cl c.streamOut r.stream
        else streamBound s cl c.streamIn r.stream) then 3
    else if r.root && (decide (bl.scrSize < r.rbuf + 32 * r.words) ||
        (r.destKind == 0 && decide (bl.scrSize < r.dest + redDestBytes r))) then 4
    else if r.root && r.destKind == 1 && !allocCovers al 1#2 r.dest (redDestBytes r) then 5
    else if noSlot then 8 else 0
  else if bitsOf v 63 8 ≠ 0 || bitsOf v 511 480 ≠ 0 then 3
  else if noSlot then 8 else 0

/-- sr_index of an element at piece coordinates (R56, R263, R265). -/
def srIndex (companion : BitVec 512) (c : List Nat) : BitVec 64 :=
  let v := companion.toNat
  BitVec.ofNat 64 (bitsOf v 191 128 + ((List.range 6).map fun d => c.getD d 0 * bitsOf v (192 + 48 * d + 47) (192 + 48 * d)).sum)

/-- The rounding mode of a descriptor for the element at piece coordinates (R53, R55, R56). -/
def rmodeOf (c : Cluster) (t : TImg) (coord : List Nat) : RMode :=
  if t.rm = 4 then
    let comp := (NMap.get {} c.td (t.auxH % 64)).image
    .sr (srDraw (BitVec.ofNat 64 (bitsOf comp.toNat 127 64)) (srIndex comp coord))
  else (RMode.ofCode t.rm).getD .rne

end Sys2Proof.Machine
end

