-- ==== Sys2Proof/Machine/Td.lean ====
section
/-! DEFINITION. The descriptor engine: TD.CREATE, TD.LOAD, TD.STORE, TD.FREE, TD.WAIT and CB.LOAD
(spec/09_tensor_descriptors.md R243-R262, spec/04 R118-R121, spec/02 R34, R43, R46, spec/06 R170, R563). -/

namespace Sys2Proof.Machine

/-! #### Memory as the engines see it -/

/-- Bytes an engine of partition `p` reads, not from the host window; the offset of the first byte in error. -/
def engineRead (s : State) (p a n : Nat) : State × List Byte × Option Nat :=
  match rangeOf a with
  | .dram | .spine =>
    let s := s.acting (partOpt p)
    let (m, bs, e) := uncachedRead s.mem s.time (s.ways p) a n
    ({ s with mem := m }, bs, e)
  | .scratchWin =>
    let (s, v, e) := scratchRead s (winCluster a) (winOff a) n
    (s, leBytes v n, if e then some 0 else none)
  | _ => (s, List.replicate n 0, none)

/-- Bytes an engine of partition `p` writes. -/
def engineWrite (s : State) (p a : Nat) (bs : List Byte) : State :=
  match rangeOf a with
  | .dram | .spine =>
    let s := s.acting (partOpt p)
    { s with mem := uncachedWrite s.mem s.time (s.ways p) a bs }
  | .scratchWin =>
    let k := winCluster a
    s.setCluster k (scratchWrite (s.cluster k) (winOff a) bs)
  | .hostWin => s.send (.hostWrite (hostFn p) (a - hostBase) bs)
  | _ => s

/-- An element write: bit address, width in bits, value. -/
abbrev BitWrite := Nat × Nat × Nat

/-- The bytes an element touches: address and count. -/
def bitSpan (w : BitWrite) : Nat × Nat := (w.1 / 8, ceilDiv (w.1 % 8 + w.2.1) 8)

/-- Whether an element fills its bytes. -/
def bitsWhole (w : BitWrite) : Bool := w.1 % 8 == 0 && w.2.1 % 8 == 0

/-- The bytes of an element's span with its bits replaced (R34). -/
def mergeBits (old : List Byte) (w : BitWrite) : List Byte :=
  let sh := w.1 % 8
  let o := leNat old
  leBytes (o % 2 ^ sh + ((w.2.2 % 2 ^ w.2.1) <<< sh) + ((o >>> (sh + w.2.1)) <<< (sh + w.2.1))) old.length

/-- One element written: the bits of others in its bytes keep their values (R34). -/
def putBits (s : State) (p : Nat) (w : BitWrite) : State :=
  let (a, n) := bitSpan w
  if bitsWhole w then engineWrite s p a (leBytes w.2.2 n)
  else
    let (s, bs, _) := engineRead s p a n
    engineWrite s p a (mergeBits bs w)

/-- An element cut where a sector ends. -/
def cutSector (w : BitWrite) : List BitWrite :=
  let k := 256 - w.1 % 256
  if w.2.1 ≤ k then [w] else [(w.1, k, w.2.2 % 2 ^ k), (w.1 + k, w.2.1 - k, w.2.2 >>> k)]

/-- Elements in order, those of one sector that follow each other together: one request (R261). -/
def sectorRuns (ws : List BitWrite) : List (Nat × List BitWrite) :=
  (ws.flatMap cutSector).foldr (fun w runs =>
    match runs with
    | (k, l) :: rest => if w.1 / 256 = k then (k, w :: l) :: rest else (w.1 / 256, [w]) :: runs
    | [] => [(w.1 / 256, [w])]) []

/-- The bits of a sector that elements replace, and their values, a later one winning. -/
def runBits (ws : List BitWrite) : BitVec 256 × BitVec 256 :=
  ws.foldl (fun (x : BitVec 256 × BitVec 256) w =>
    let m := BitVec.ofNat 256 ((2 ^ w.2.1 - 1) <<< (w.1 % 256))
    (x.1 ||| m, (x.2 &&& ~~~m) ||| (BitVec.ofNat 256 (w.2.2 <<< (w.1 % 256)) &&& m))) (0, 0)

/-- Bytes of a sector of which some bits, and of which all bits, are in a mask of bits. -/
def someBytes (m : BitVec 256) : BitVec 32 := BitVec.ofNat 32 (packFields ((List.range 32).map fun i => (b2n (bitsOf m.toNat (8 * i + 7) (8 * i) != 0), i, 1)))
def fullBytes (m : BitVec 256) : BitVec 32 := BitVec.ofNat 32 (packFields ((List.range 32).map fun i => (b2n (bitsOf m.toNat (8 * i + 7) (8 * i) == 0xFF), i, 1)))

/-- Elements written. -/
structure Put where
  s : State
  /-- the host read that partial bytes of host memory wait for (R34) -/
  host : Option Nat := none
  /-- the first address whose write found a parity error that cannot be masked: a bus error (R298) -/
  bad : Option Nat := none

/-- Elements of one sector written as one request: the slice merges partial bytes (R34). -/
def putSector (p : Nat) (r : Put) (k : Nat) (ws : List BitWrite) : Put :=
  let a := 32 * k
  match rangeOf a with
  | .dram | .spine =>
    let (m, d) := runBits ws
    let s := r.s.acting (partOpt p)
    let found := writeFinds s.mem a (someBytes m)
    let (mem, d) :=
      if someBytes m = fullBytes m then (s.mem, d)
      else
        let (mem, sd) := uncachedReadSec s.mem s.time (s.ways p) a
        (mem, (sd.data &&& ~~~m) ||| d)
    { r with
      s := { s with mem := uncachedWriteSec mem s.time (s.ways p) a (someBytes m) d }
      bad := match r.bad with | some x => some x | none => if found then ws.head?.map fun w => w.1 / 8 else none }
  | _ => { r with s := ws.foldl (fun s w => putBits s p w) r.s }

/-- Elements written in order. Elements of the host window that share bytes wait until those are read (R34). -/
def putAll (s : State) (cl p : Nat) (ws : List BitWrite) : Put :=
  let host (w : BitWrite) : Bool := rangeOf (w.1 / 8) == .hostWin
  let hw := ws.filter host
  let r := (sectorRuns (ws.filter fun w => !host w)).foldl (fun r x => putSector p r x.1 x.2) { s := s }
  if hw.all bitsWhole then { r with s := hw.foldl (fun s w => putBits s p w) r.s }
  else
    { r with
      s := sendHostRead r.s (hostFn p) ((hw.filter fun w => !bitsWhole w).map fun w => ((bitSpan w).1 - hostBase, (bitSpan w).2)) (.merge cl hw [])
      host := some r.s.hrNext }

/-- Whether an element write must wait for a held range or a line in transaction. -/
def writesHeld (s : State) (ws : List BitWrite) : Bool := ws.any fun w => accessHeld s (bitSpan w).1 (bitSpan w).2 true

/-! #### Tiles -/

/-- The code of an issuing group that an asynchronous operation keeps. -/
def ownerOf (g : Grp) (gr : Group) (b : Block) : ChainOwner :=
  { core := g.core, slot := g.slot, gidx := gr.gidx, bslot := gr.bslot, part := b.part, ctx := b.ctx }

/-- Whether group slot (core, slot) of a cluster still holds an operation's group. -/
def ownerHere (c : Cluster) (o : ChainOwner) : Bool :=
  let gr := c.group o.core o.slot
  gr.live && gr.bslot == o.bslot && gr.gidx == o.gidx

/-- Flags ORed into FLAGS of the issuing group when an operation completes (R257). -/
def raiseOwnerFlags (s : State) (cl : Nat) (o : ChainOwner) (f : BitVec 5) : State :=
  let c := s.cluster cl
  if ownerHere c o then
    let gr := c.group o.core o.slot
    s.setCluster cl (c.setGroup o.core o.slot { gr with flags := gr.flags ||| f })
  else s

/-- One piece of the scratch image of a TD.LOAD: an element or a scale, its bit address in memory if it has one, and
its piece coordinates. -/
structure LoadItem where
  src : Option Nat
  scale : Bool
  coord : List Nat
  deriving DecidableEq, Repr

/-- The bit address of the element at view coordinates, with its piece coordinates. -/
def TImg.srcOf (t : TImg) (v : List Nat) : Option (Nat × List Nat) :=
  match t.pieceOf v with
  | none => none
  | some c => let (row, bp) := t.elemAt c; some (8 * row + bp, c)

/-- A coordinate moved by `r` along SCR_INNER and by `k` along BLOCK_DIM. -/
def TImg.stepAt (t : TImg) (origin : List Nat) (r k : Nat) : List Nat :=
  (List.range (t.ndim + t.nwin)).map fun d =>
    origin.getD d 0 + (if d = t.scrInner then r else if d = t.blockDim then k else 0)

/-- The scale tensor's coordinates of the block that holds an element (R250). -/
def TImg.scaleCoord (t : TImg) (c : List Nat) : List Nat :=
  (List.range t.ndim).map fun d => if d = t.blockDim then c.getD d 0 / t.bk else c.getD d 0

/-- The image of the scale tensor or companion that a descriptor names. -/
def auxImage (c : Cluster) (t : TImg) : BitVec 512 := (NMap.get {} c.td (t.auxH % 64)).image

/-- The pieces of a tile image in scratch order (R256), or of a panel (R131, R259). -/
def loadItems (c : Cluster) (t : TImg) (origin : List Nat) : List LoadItem :=
  let elem (v : List Nat) : LoadItem := match t.srcOf v with
    | some (a, co) => ⟨some a, false, co⟩
    | none => ⟨none, false, []⟩
  if !t.scaled then (List.range t.tileCount).map fun n => elem (t.tileCoord origin n)
  else
    let a := tImg (auxImage c t)
    let n := t.tileD t.scrInner
    let k := if t.blockDim = t.scrInner then 1 else t.tileD t.blockDim
    (List.range (ceilDiv k t.bk)).flatMap fun b =>
      ((List.range n).map fun r =>
        match t.pieceOf (t.stepAt origin r (b * t.bk)) with
        | some co => let (row, bp) := a.elemAt (t.scaleCoord co); (⟨some (8 * row + bp), true, co⟩ : LoadItem)
        | none => ⟨none, true, []⟩) ++
      (List.range (min t.bk (k - b * t.bk))).flatMap fun j =>
        (List.range n).map fun r => elem (t.stepAt origin r (b * t.bk + j))

def TImg.itemBits (t : TImg) (i : LoadItem) : Nat := if i.scale then 8 else t.ebits

/-- The bytes to read for a tile, in order. -/
def itemSegs (t : TImg) (is : List LoadItem) : List (Nat × Nat) :=
  is.filterMap fun i => i.src.map fun a => bitSpan (a, t.itemBits i, 0)

/-- The items with the bits that the bytes read give them. -/
def itemVals (t : TImg) : List LoadItem → List Byte → List (LoadItem × Option Nat)
  | [], _ => []
  | i :: is, bs =>
    match i.src with
    | none => (i, none) :: itemVals t is bs
    | some a =>
      let n := (bitSpan (a, t.itemBits i, 0)).2
      (i, some ((leNat (bs.take n) >>> (a % 8)) % 2 ^ t.itemBits i)) :: itemVals t is (bs.drop n)

/-- An element converted from FMT to SFMT (R257); equal formats move unchanged. -/
def loadConvert (c : Cluster) (t : TImg) (co : List Nat) (x : Nat) : Nat × FFlags :=
  if t.fmt = t.sfmt then (x, 0) else encodeElem t.sfmt (rmodeOf c t co) [] x (decodeElem t.fmt x [])

/-- Little-endian packing of fields (value, width) from bit 0 up (R34). -/
def packBits : List (Nat × Nat) → Nat
  | [] => 0
  | (v, w) :: fs => v % 2 ^ w + (packBits fs <<< w)

/-- Bytes of what a TD.LOAD writes into scratch. -/
def TImg.loadBytes (t : TImg) : Nat := if t.scaled then t.panelBytes else t.imageBytes

/-- The tile image built from the bytes read, and the conversions' flags. A scale that lies outside the view is
stated nowhere and is a free value. Whole bytes are written: the bits of the last byte that no element fills are 0
(DESIGN CHOICE, log entry 30). -/
def tileImage (s : State) (c : Cluster) (t : TImg) (is : List LoadItem) (bs : List Byte) : State × List Byte × FFlags :=
  let r := (itemVals t is bs).foldl (fun (acc : State × List (Nat × Nat) × FFlags) iv =>
    let (s, out, fl) := acc
    match iv.1.scale, iv.2 with
    | true, some x => (s, (x, 8) :: out, fl)
    | true, none => let (x, s) := s.freeNat; (s, (x, 8) :: out, fl)
    | false, none => (s, (0, t.sbits) :: out, fl)
    | false, some x => let (y, f) := loadConvert c t iv.1.coord x; (s, (y, t.sbits) :: out, fl ||| f)) (s, [], 0)
  (r.1, leBytes (packBits r.2.1.reverse) t.loadBytes, r.2.2)

/-- The elements of a tile image that lie inside the view: piece coordinates and bits, in scratch order. -/
def tileElems (t : TImg) (origin : List Nat) (img : List Byte) : List (List Nat × Nat) :=
  let v := leNat img
  (List.range t.tileCount).filterMap fun n =>
    (t.pieceOf (t.tileCoord origin n)).map fun co => (co, (v >>> (n * t.sbits)) % 2 ^ t.sbits)

def TImg.writeAt (t : TImg) (co : List Nat) (x : Nat) : BitWrite :=
  let (row, bp) := t.elemAt co
  (8 * row + bp, t.ebits, x)

/-- What a TD.STORE writes, in order, and its flags: elements converted (R257, R258), or blocks quantised (R43, R258), the
scales first; elements in scratch order (R253). -/
def storeWrites (c : Cluster) (t : TImg) (es : List (List Nat × Nat)) : List BitWrite × FFlags :=
  if !t.scaled then
    let ws := es.map fun e =>
      let (x, f) := if t.fmt = t.sfmt then (e.2, 0)
        else encodeElem t.fmt (rmodeOf c t e.1) [] e.2 (decodeElem t.sfmt e.2 [])
      (t.writeAt e.1 x, f)
    (ws.map Prod.fst, ws.foldl (fun f w => f ||| w.2) 0)
  else
    let a := tImg (auxImage c t)
    let blocks := (es.map fun e => t.scaleCoord e.1).eraseDups
    let parts := blocks.map fun bc =>
      let mine := es.filter fun e => t.scaleCoord e.1 = bc
      let (sc, enc, fl) := quantBlock t.fmt (mine.map fun e => (decodeElem t.sfmt e.2 [], rmodeOf c t e.1))
      let (row, bp) := a.elemAt bc
      (((8 * row + bp, 8, sc) : BitWrite), mine.zip enc, fl)
    let found := parts.flatMap fun p => p.2.1
    let elems := es.filterMap fun e => (found.find? fun x => x.1.1 = e.1).map fun x => t.writeAt e.1 x.2
    (parts.map Prod.fst ++ elems, parts.foldl (fun f p => f ||| p.2.2) 0)

/-- 32-byte flits of an image, the last padded with zeros (R260). -/
def toFlits (bs : List Byte) : List (BitVec 256) :=
  (List.range (ceilDiv bs.length 32)).map fun i => BitVec.ofNat 256 (leNat ((bs.drop (32 * i)).take 32))

def ofFlits (fs : List (BitVec 256)) (n : Nat) : List Byte := (fs.flatMap fun f => leBytes f.toNat 32).take n

/-! #### Operations in progress -/

/-- The scratch bytes an operation reads or writes. -/
def tdRange (c : Cluster) (o : TdOp) : Option (Nat × Nat) :=
  let t := tImg (NMap.get {} c.td o.slot).image
  match o.work with
  | .load scr _ => if t.sbind = 2 then none else some (scr, t.loadBytes)
  | .store scr _ => if t.sbind = 2 then none else some (scr, t.imageBytes)
  | .cb .. => none

/-- The stream an operation uses: whether it sends, and the stream's number. -/
def tdStream (c : Cluster) (o : TdOp) : Option (Bool × Nat) :=
  let t := tImg (NMap.get {} c.td o.slot).image
  match o.work with
  | .load .. => if t.sbind = 0 then none else some (t.sbind == 2, t.stream)
  | .store .. => if t.sbind = 0 then none else some (t.sbind == 1, t.stream)
  | .cb .. => none

def rangesMeet : Option (Nat × Nat) → Option (Nat × Nat) → Bool
  | some (a, n), some (b, m) => decide (a < b + m) && decide (b < a + n)
  | _, _ => false

/-- Whether an operation must follow an earlier one: they share scratch bytes and a group (R256), or a stream. -/
def tdAfter (c : Cluster) (o : TdOp) (earlier : List TdOp) : Bool :=
  earlier.any fun e => (e.owner = o.owner && rangesMeet (tdRange c e) (tdRange c o)) ||
    ((tdStream c o).isSome && tdStream c e == tdStream c o)

/-- Format, slots and tables of the operands of an MXA.MMA extension (R119). -/
def extFmtA (e : BitVec 32) : Nat := bitsOf e.toNat 4 0
def extFmtB (e : BitVec 32) : Nat := bitsOf e.toNat 9 5
def extSlotA (e : BitVec 32) : Nat := bitsOf e.toNat 11 10
def extTableA (e : BitVec 32) : Nat := bitsOf e.toNat 15 12
def extSlotB (e : BitVec 32) : Nat := bitsOf e.toNat 17 16
def extTableB (e : BitVec 32) : Nat := bitsOf e.toNat 21 18
def extScaled (e : BitVec 32) : Bool := bitOf e.toNat 22
def extBk (e : BitVec 32) : Nat := if bitOf e.toNat 23 then 32 else 16

/-- Whether an MXA.MMA reads codebook slot `slot`, under the formats of its chain (R46, R135). -/
def mmaReads (slot : Nat) (chain e : BitVec 32) : Bool :=
  (isCodebook (extFmtA chain) && extSlotA e == slot) || (isCodebook (extFmtB chain) && extSlotB e == slot)

/-- Whether an MXA.MMA queued before order number `n` reads a codebook slot. -/
def queueReads (slot n : Nat) : Option (BitVec 32) → List MxEntry → Bool
  | _, [] => false
  | ch, e :: es =>
    match e.op with
    | .init .. => queueReads slot n none es
    | .mma _ _ _ x _ => (decide (e.order < n) && mmaReads slot (ch.getD x) x) || queueReads slot n (some (ch.getD x)) es
    | _ => queueReads slot n ch es

/-- Whether an MXA of the cluster issued before order number `n` still reads a codebook slot (R46). -/
def cbReaders (c : Cluster) (slot n : Nat) : Bool :=
  let cur := c.mx.current
  let first := cur.bind fun ch => ch.mmas.head?.map MmaRec.ext
  (match cur with
    | some ch => ch.mmas.any fun m => decide (m.order < n) && !m.multiplied && mmaReads slot (first.getD m.ext) m.ext
    | none => false) ||
  c.mx.queues.any fun q =>
    queueReads slot n (match cur with
      | some ch => if 4 * ch.owner.core + ch.owner.slot = q.1 then first else none
      | none => none) q.2

/-- Whether an MXA.MMA must wait for a table load issued before it into a slot that it reads (R46). -/
def cbAwaited (c : Cluster) (chain ext : BitVec 32) (order : Nat) : Bool :=
  c.tdOps.any fun o => match o.work with
    | .cb slot .. => decide (o.order ≤ order) && mmaReads slot chain ext
    | _ => false

/-- A range of bytes cut where sectors end, at most `fuel` pieces. -/
def cutRange : Nat → Nat → Nat → List (Nat × Nat)
  | 0, _, _ => []
  | fuel + 1, a, n =>
    if n = 0 then []
    else
      let k := min n (32 - a % 32)
      (a, k) :: cutRange fuel (a + k) (n - k)

/-- Bytes of a list of ranges read by an engine, those of host memory given; the first address in error ends it. Each range
lies in one sector, and a sector is read once for the ranges in it that follow each other (R261): `last` is that sector and
its bytes. -/
def engineReadAll (s : State) (p : Nat) (host : List Byte) (last : Option (Nat × List Byte)) :
    List (Nat × Nat) → State × List Byte × Option Nat
  | [] => (s, [], none)
  | (a, n) :: rs =>
    match rangeOf a with
    | .hostWin =>
      let (s, rest, e) := engineReadAll s p (host.drop n) last rs
      (s, host.take n ++ rest, e)
    | .dram | .spine =>
      match last.filter fun l => l.1 = a / 32 with
      | some l =>
        let (s, rest, e) := engineReadAll s p host last rs
        (s, (l.2.drop (a % 32)).take n ++ rest, e)
      | none =>
        let (s, bs, e) := engineRead s p (a / 32 * 32) 32
        match e with
        | some _ => (s, [], some a)
        | none =>
          let (s, rest, e) := engineReadAll s p host (some (a / 32, bs)) rs
          (s, (bs.drop (a % 32)).take n ++ rest, e)
    | _ =>
      let (s, bs, e) := engineRead s p a n
      match e with
      | some o => (s, bs, some (a + o))
      | none => let (s, rest, e) := engineReadAll s p host last rs; (s, bs ++ rest, e)

/-- Address of a scratch sector in the global scratch window (R564). -/
def sectorWindow (cl a : Nat) : Nat := 0x030000000000 + cl * 0x4000 + a / 32 * 32

/-- A cluster's scratch read by one of its engines: the bytes, or the sector whose parity failed (R503, R564). -/
def scratchBytes (s : State) (cl a n : Nat) : State × List Byte × Option Nat :=
  let c := s.cluster cl
  let (s, v, e) := scratchRead s cl a n
  (s, leBytes v n, if e then (List.range n).findSome? (fun i => if c.scratchBad.contains (a + i) then some (sectorWindow cl (a + i)) else none)
    else none)

/-- A stream with flits put in during a fabric cycle: they are ready from the next one on (R205). -/
def StreamSt.push (st : StreamSt) (cycle : Nat) (fs : List (BitVec 256 × Bool)) : StreamSt :=
  if fs.isEmpty then st
  else { st with buf := st.buf ++ fs, late := (if st.lateAt = cycle then st.late else 0) + fs.length, lateAt := cycle }

/-- Flits of an operation put into STREAM_IN as far as its 8-flit buffer has room (R260). -/
def pumpOut (s : State) (cl stream : Nat) (fs : List (BitVec 256)) : State × List (BitVec 256) :=
  let c := s.cluster cl
  let st := NMap.get {} c.streamIn stream
  let k := 8 - st.buf.length
  (s.setCluster cl { c with streamIn := NMap.set {} c.streamIn stream (st.push s.fab.cycle ((fs.take k).map fun f => (f, false))) }, fs.drop k)

/-- Up to `need` flits taken from STREAM_OUT, and whether one came with POISON (R208, R260). -/
def pumpIn (s : State) (cl stream need : Nat) : State × List (BitVec 256) × Bool :=
  let c := s.cluster cl
  let st := NMap.get {} c.streamOut stream
  (s.setCluster cl { c with streamOut := NMap.set {} c.streamOut stream { st with buf := st.buf.drop need } },
    (st.buf.take need).map Prod.fst, (st.buf.take need).any Prod.snd)

/-- An operation has completed: its flags are reported (R257, R258). -/
def tdEnd (s : State) (cl : Nat) (o : TdOp) : State × Option TdOp := (raiseOwnerFlags s cl o.owner o.flags, none)

/-- Flits of an operation put into STREAM_IN as far as there is room; it completes with the last (R260). -/
def tdPump (s : State) (cl : Nat) (o : TdOp) (stream : Nat) (fs : List (BitVec 256)) : State × Option TdOp :=
  let (s, left) := pumpOut s cl stream fs
  if left.isEmpty then tdEnd s cl o else (s, some { o with started := true, flits := left })

/-- The tile image of a load, read, goes to scratch or to the stream: none where the operation is complete. -/
def loadDeliver (s : State) (cl : Nat) (o : TdOp) (t : TImg) (scr : Nat) (img : List Byte) (fl : FFlags) : State × Option TdOp :=
  let o := { o with flags := fl }
  if t.sbind = 2 then tdPump s cl o t.stream (toFlits img)
  else tdEnd (s.setCluster cl (scratchWrite (s.cluster cl) scr img)) cl o

/-- The elements of a store written: none where the operation is complete. -/
def storeDeliver (s : State) (cl : Nat) (o : TdOp) (t : TImg) (origin : Nat) (img : List Byte) : State × Option TdOp :=
  let (ws, fl) := storeWrites (s.cluster cl) t (tileElems t (coordOf t.view origin) img)
  if writesHeld s ws then (s, some { o with flits := if t.sbind = 2 then toFlits img else [] })
  else
    let r := putAll s cl o.owner.part ws
    let o := { o with flags := fl }
    match r.bad, r.host with
    | some a, _ => (ownerFault r.s cl o.owner 5 o.pc a, none)
    | none, none => tdEnd r.s cl o
    | none, some id => (r.s, some { o with host := some id, started := true })

/-- A codebook table written (R45, R262). -/
def cbDeliver (s : State) (cl slot table : Nat) (cb8 : Bool) (bs : List Byte) : State :=
  let c := s.cluster cl
  let base := 512 * slot + (if cb8 then 0 else 32 * table)
  s.setCluster cl { c with
    codebook := ByteMap.write c.codebook base bs
    cbBad := c.cbBad.filter fun b => !(decide (base ≤ b) && decide (b < base + bs.length))
    cbLoaded := if c.cbLost.isNone then c.cbLoaded else ((List.range (bs.length / 32)).map (base / 32 + ·)) ++ c.cbLoaded }

/-- An operation that may run, run as far as it goes: none where it has completed or faulted. -/
def tdRun (s : State) (cl : Nat) (o : TdOp) : State × Option TdOp :=
  let c := s.cluster cl
  let t := tImg (NMap.get {} c.td o.slot).image
  let p := o.owner.part
  if c.tdBad.contains o.slot then (ownerFault s cl o.owner 5 o.pc 0, none)
  else match o.host with
  | some id => if o.started && !(s.hostReads.any fun h => h.id = id) then tdEnd s cl o else (s, some o)
  | none =>
    match o.work with
    | .cb slot table cb8 =>
      let n := if cb8 then 512 else 32
      if cbReaders c slot o.order then (s, some o)
      else if rangeOf t.base = .hostWin then
        match o.got with
        | some bs => tdEnd (cbDeliver s cl slot table cb8 bs) cl o
        | none => (sendHostRead s (hostFn p) [(t.base - hostBase, n)] (.td cl), some { o with host := some s.hrNext })
      else if (cutRange 17 t.base n).any fun r => accessHeld s r.1 r.2 false then (s, some o)
      else
        let (s, bs, e) := engineRead s p t.base n
        match e with
        | some off => (ownerFault s cl o.owner 5 o.pc (t.base + off), none)
        | none => tdEnd (cbDeliver s cl slot table cb8 bs) cl o
    | .load scr origin =>
      if t.sbind = 1 then
        let (s, fs, bad) := pumpIn s cl t.stream (ceilDiv t.loadBytes 32 - o.flits.length)
        let fs := o.flits ++ fs
        if bad then (ownerFault s cl o.owner 5 o.pc 0, none)
        else if fs.length < ceilDiv t.loadBytes 32 || heldAt c scr t.loadBytes then (s, some { o with flits := fs })
        else tdEnd (s.setCluster cl (scratchWrite (s.cluster cl) scr (ofFlits fs t.loadBytes))) cl o
      else if o.started then tdPump s cl o t.stream o.flits
      else if t.sbind = 0 && heldAt c scr t.loadBytes then (s, some o)
      else
        let is := loadItems c t (coordOf t.view origin)
        let segs := (itemSegs t is).flatMap fun r => cutRange 2 r.1 r.2
        let hs := segs.filter fun r => rangeOf r.1 = .hostWin
        if !hs.isEmpty && o.got.isNone then
          (sendHostRead s (hostFn p) (hs.map fun r => (r.1 - hostBase, r.2)) (.td cl), some { o with host := some s.hrNext })
        else if segs.any fun r => accessHeld s r.1 r.2 false then (s, some o)
        else
          let (s, bs, e) := engineReadAll s p (o.got.getD []) none segs
          match e with
          | some a => (ownerFault s cl o.owner 5 o.pc a, none)
          | none =>
            let (s, img, fl) := tileImage s c t is bs
            loadDeliver s cl o t scr img fl
    | .store scr origin =>
      if t.sbind = 2 then
        let (s, fs, bad) := pumpIn s cl t.stream (ceilDiv t.imageBytes 32 - o.flits.length)
        let fs := o.flits ++ fs
        if bad then (ownerFault s cl o.owner 5 o.pc 0, none)
        else if fs.length < ceilDiv t.imageBytes 32 then (s, some { o with flits := fs })
        else storeDeliver s cl o t origin (ofFlits fs t.imageBytes)
      else if o.started then tdPump s cl o t.stream o.flits
      else
        let (s, img, bad) := scratchBytes s cl scr t.imageBytes
        match bad with
        | some a => (ownerFault s cl o.owner 5 o.pc a, none)
        | none =>
          if t.sbind = 1 then tdPump s cl o t.stream (toFlits img)
          else storeDeliver s cl o t origin img

/-- The operations of a cluster in order, each run where nothing earlier holds it and the engine keeps fewer than 16 in flight
(R261); what remains. -/
def tdSweep (cl : Nat) : List TdOp → List TdOp → State → State × List TdOp
  | [], kept, s => (s, kept)
  | o :: os, kept, s =>
    if tdAfter (s.cluster cl) o kept || decide (16 ≤ kept.length) then tdSweep cl os (kept ++ [o]) s
    else match tdRun s cl o with
      | (s, none) => tdSweep cl os kept s
      | (s, some o) => tdSweep cl os (kept ++ [o]) s

/-- The descriptor operations of a cluster that can go on, gone on with. -/
def tdProgress (s : State) (cl : Nat) : State :=
  if (s.cluster cl).tdOps.isEmpty then s
  else
    let (s, kept) := tdSweep cl (s.cluster cl).tdOps [] s
    s.setCluster cl { s.cluster cl with tdOps := kept }

/-- A descriptor operation issued. -/
def tdIssue (s : State) (cl : Nat) (o : TdOp) : State :=
  let c := s.cluster cl
  tdProgress (s.setCluster cl { c with tdOps := c.tdOps ++ [{ o with order := c.mx.order }] }) cl

/-- The bytes of a host read come for descriptor operation `id` of a cluster: it goes on under the holds of that moment
(R46, R133). -/
def tdHostData (s : State) (cl id : Nat) (bs : List Byte) : State :=
  let c := s.cluster cl
  let take (o : TdOp) : TdOp := if o.host = some id && !o.started then { o with host := none, got := some bs } else o
  tdProgress (s.setCluster cl { c with tdOps := c.tdOps.map take }) cl

/-! #### The instructions -/

/-- Descriptor operations of a group that have not completed (R121): a TD.FREE completes when its slot is released
(R170, R244). -/
def tdCount (s : State) (cl : Nat) (o : ChainOwner) : Nat :=
  let c := s.cluster cl
  (c.tdOps.filter fun x => x.owner = o).length +
    (c.td.filter fun e => e.2.closing && e.2.freedBy == some o && !tdFree s cl e.1).length

/-- The slot and image of a live tensor handle of a block whose AUX_H still holds (R244, R250); none: class 0x09. -/
def tensorUse (c : Cluster) (b h : Nat) : Option (Nat × TImg) :=
  match tdLookup c b h with
  | none => none
  | some i =>
    let img := (NMap.get {} c.td i).image
    if imgKind img = 1 && !auxBad c b (tImg img) then some (i, tImg img) else none

/-- The generation that a fill gives a slot (R244). -/
def nextGen (i : Nat) (g : BitVec 10) : BitVec 10 := if i = 63 && g + 1 = 1023 then 0 else g + 1

/-- A slot filled by TD.CREATE: handle, streams bound, and for a root the buffer zeroed and held (R226, R244, R260). -/
def tdFill (c : Cluster) (i : Nat) (img : BitVec 512) (o : ChainOwner) (b : Block) (pc : BitVec 48) : Cluster × Word :=
  let c := freeTd c i
  let gen := nextGen i (NMap.get {} c.td i).gen
  let r := { redImg img with creator := o, pc := pc }
  let r := { r with rbuf := b.scrBase + r.rbuf, dest := if r.destKind = 0 then b.scrBase + r.dest else r.dest, opActive := r.root }
  let k := imgKind img
  let slot : TdSlot := {
    gen := gen, live := true, bslot := o.bslot, image := img, red := if k = 2 then some r else none }
  let bind (m : NMap StreamSt) (n : Nat) : NMap StreamSt := NMap.set {} m n { NMap.get {} m n with bound := some i }
  let t := tImg img
  let c := { c with td := NMap.set {} c.td i slot }
  let c :=
    if k = 1 && t.sbind ≠ 0 then { c with streamIn := bind c.streamIn t.stream, streamOut := bind c.streamOut t.stream }
    else if k = 2 && !r.root then { c with streamIn := bind c.streamIn r.stream }
    else if k = 2 && decide (0 < r.fabricContrib) then { c with streamOut := bind c.streamOut r.stream }
    else c
  let c :=
    if k = 2 && r.root then
      let z := scratchWrite c r.rbuf (List.replicate (32 * r.words) 0)
      { z with mx := { z.mx with held := z.mx.held ++ [⟨2 ^ 32 + i, r.rbuf, 32 * r.words, true⟩] } }
    else c
  (c, BitVec.ofNat 32 (gen.toNat * 64 + i))

/-- Reduction operations of a group that have not completed: its root operations (R121, R226); handovers of RED.ACC
are counted with the chains that carry them. -/
def rootOps (c : Cluster) (o : ChainOwner) : Nat :=
  (c.td.filter fun e => match e.2.red with | some r => r.opActive && r.creator = o | none => false).length

/-- Chains of a group closed by RED.ACC whose words are not all handed over. -/
def accOps (c : Cluster) (o : ChainOwner) : Nat :=
  let isAcc (x : MxOp) : Bool := match x with | .redAcc .. => true | _ => false
  let chain (ch : Option Chain) : Nat := match ch with
    | some ch => if ch.owner = o && (ch.closing.elim false isAcc) then 1 else 0
    | none => 0
  (NMap.get [] c.mx.queues (4 * o.core + o.slot)).countP (fun e => e.owner = o && isAcc e.op) + chain c.mx.current + chain c.mx.drain

def redCount (c : Cluster) (o : ChainOwner) : Nat := rootOps c o + accOps c o

/-- R118, R120, R226, R245, R246: validates a 64-byte image of scratch and writes a handle or a failure status. -/
def execTdCreate (g : Grp) (sa sb : BitVec 4) (s : State) : Host.Outcome State Fault Refusal :=
  .next (coreStep s g { sr := [sa.toNat, sb.toNat], ssrc := [sb.toNat], vector := false } fun s gr b _ =>
    let o := ownerOf g gr b
    let c := s.cluster g.cl
    let off := (gr.s sb.toNat).toNat
    if tdCount s g.cl o ≥ 16 then .hold
    else if off % 64 ≠ 0 then .flt 4 0 off
    else if b.scrSize < off + 64 then .flt 7 0 off
    else if c.tdOps.any fun x => x.owner = o && rangesMeet (tdRange c x) (some (b.scrBase + off, 64)) then .hold
    else
      let (s, bs, bad) := scratchBytes s g.cl (b.scrBase + off) 64
      match bad with
      | some a => .flt 5 0 a
      | none =>
        let img := BitVec.ofNat 512 (leNat bs)
        let st := tdStatus s g.cl gr.bslot img
        let c := s.cluster g.cl
        let put (s : State) (v : Word) : State := s.setGroup g ((s.group g).setS sa.toNat v)
        if st ≠ 0 then .done (put s (0x80000000#32 ||| BitVec.ofNat 32 st))
        else
          match lowestBelow 64 (tdFree s g.cl) with
          | none => .done (put s 0x80000008#32)
          | some i =>
            let r := redImg img
            let root := imgKind img = 2 && r.root
            if root && (heldAt c (b.scrBase + r.rbuf) (32 * r.words) || decide (16 ≤ redCount c o)) then .hold
            else
              let (c, h) := tdFill c i img o b gr.pc
              .done (put (s.setCluster g.cl c) h))

/-- The checks that TD.LOAD and TD.STORE share: handle, element index, and the bound of the scratch side
(R244, R255, R256); and the descriptor slot's parity (R503). -/
def tileFault (c : Cluster) (gr : Group) (b : Block) (h idx off : Nat) (load : Bool) : Option (Nat × Nat) :=
  if c.tdBad.contains (h % 64) then some (5, 0)
  else match tensorUse c gr.bslot h with
  | none => some (9, 0)
  | some (_, t) =>
    let n := if load then t.loadBytes else t.imageBytes
    if t.sbind ≠ 2 && decide (b.scrSize < off / 32 * 32 + n) then some (7, off)
    else if listProd t.view ≤ idx then some (9, 0)
    else if load && t.scaled && (t.fmt != t.sfmt || (coordOf t.view idx).getD t.blockDim 0 % t.bk != 0) then some (9, 0)
    else none

/-- R255-R260: one tile from memory or a stream to scratch or a stream. -/
def execTdLoad (g : Grp) (sa sb sc : BitVec 4) (s : State) : Host.Outcome State Fault Refusal :=
  .next (coreStep s g { sr := [sa.toNat, sb.toNat, sc.toNat], vector := false } fun s gr b _ =>
    let o := ownerOf g gr b
    let c := s.cluster g.cl
    let (h, off, idx) := ((gr.s sa.toNat).toNat, (gr.s sb.toNat).toNat, (gr.s sc.toNat).toNat)
    if tdCount s g.cl o ≥ 16 then .hold
    else
      match tileFault c gr b h idx off true with
      | some (k, a) => .flt k 0 a
      | none => .done (tdIssue s g.cl { owner := o, pc := gr.pc, slot := h % 64, work := .load (b.scrBase + off / 32 * 32) idx }))

/-- R255-R260: one tile from scratch or a stream to memory or a stream. -/
def execTdStore (g : Grp) (sa sb sc : BitVec 4) (s : State) : Host.Outcome State Fault Refusal :=
  .next (coreStep s g { sr := [sa.toNat, sb.toNat, sc.toNat], vector := false } fun s gr b _ =>
    let o := ownerOf g gr b
    let c := s.cluster g.cl
    let (h, off, idx) := ((gr.s sa.toNat).toNat, (gr.s sb.toNat).toNat, (gr.s sc.toNat).toNat)
    if tdCount s g.cl o ≥ 16 then .hold
    else
      match tileFault c gr b h idx off false with
      | some (k, a) => .flt k 0 a
      | none => .done (tdIssue s g.cl { owner := o, pc := gr.pc, slot := h % 64, work := .store (b.scrBase + off / 32 * 32) idx }))

/-- R118, R244: the handle ends; the slot follows once no issued operation names it. -/
def execTdFree (g : Grp) (sa : BitVec 4) (s : State) : Host.Outcome State Fault Refusal :=
  .next (coreStep s g { sr := [sa.toNat], vector := false } fun s gr b _ =>
    let c := s.cluster g.cl
    if tdCount s g.cl (ownerOf g gr b) ≥ 16 then .hold
    else if c.tdBad.contains ((gr.s sa.toNat).toNat % 64) then .flt 5 0 0
    else
      match tdLookup c gr.bslot (gr.s sa.toNat).toNat with
      | none => .flt 9 0 0
      | some i =>
        if tdBusy s g.cl i then
          .done (s.setCluster g.cl { c with td := NMap.set {} c.td i { NMap.get {} c.td i with live := false, closing := true, freedBy := some (ownerOf g gr b) } })
        else .done (s.setCluster g.cl (freeTd c i)))

/-- R118, R121: held until at most N descriptor operations of the group are incomplete. -/
def execTdWait (g : Grp) (n : BitVec 4) (s : State) : Host.Outcome State Fault Refusal :=
  .next (coreStep s g { vector := false } fun s gr b _ =>
    if n.toNat < tdCount s g.cl (ownerOf g gr b) then .hold else .done s)

/-- R45, R46, R118, R262: loads a codebook table once no issued MXA reads its slot. -/
def execCbLoad (g : Grp) (sa : BitVec 4) (f : BitVec 12) (s : State) : Host.Outcome State Fault Refusal :=
  let (slot, table, cb8) := (bitsOf f.toNat 1 0, bitsOf f.toNat 5 2, bitOf f.toNat 6)
  let bad := bitsOf f.toNat 11 7 ≠ 0 || (cb8 && table ≠ 0)
  .next (coreStep s g { sr := [sa.toNat], ill := bad, vector := false } fun s gr b _ =>
    let o := ownerOf g gr b
    let c := s.cluster g.cl
    let h := (gr.s sa.toNat).toNat
    if tdCount s g.cl o ≥ 16 then .hold
    else if c.tdBad.contains (h % 64) then .flt 5 0 0
    else
      match tensorUse c gr.bslot h with
      | none => .flt 9 0 0
      | some (i, t) =>
        if t.fmt ≠ 0x0D || t.sfmt ≠ 0x0D || t.ndim ≠ 1 || t.nwin ≠ 0 || t.sbind ≠ 0 || decide (t.extD 0 < (if cb8 then 256 else 16)) then
          .flt 9 0 0
        else .done (tdIssue s g.cl { owner := o, pc := gr.pc, slot := i, work := .cb slot table cb8 }))

end Sys2Proof.Machine
end

