-- ==== Sys2Proof/Machine/Mxa.lean ====
section
/-! DEFINITION. The matrix array: chains, exact accumulation, anchors, checksums (spec/05_matrix_array.md R127-R160,
R564, spec/02 R48-R52, spec/04 R118, R119, spec/08 R228, R229). -/

namespace Sys2Proof.Machine

/-! #### Problems and panels (R129-R131) -/

def problems (pack : Nat) : Nat := if pack = 0 then 1 else if pack = 3 then 4 else 2

/-- The problem that holds footprint position (i, j). -/
def problemAt (pack i j : Nat) : Nat :=
  match pack with
  | 0 => 0
  | 1 => j / 4
  | 2 => i / 4
  | _ => 2 * (i / 4) + j / 4

def nA (pack : Nat) : Nat := if pack = 1 || pack = 3 then 16 else 8
def nB (pack : Nat) : Nat := if 2 ≤ pack then 16 else 8

/-- Problem of A element r, and of B element r (R130). -/
def problemOfA (pack r : Nat) : Nat :=
  match pack with | 0 => 0 | 1 => r / 8 | 2 => r / 4 | _ => r / 4
def problemOfB (pack r : Nat) : Nat :=
  match pack with | 0 => 0 | 1 => r / 4 | 2 => r / 8 | _ => r / 4

/-- The A element and the B element of a step that meet at footprint position (i, j) (R130). -/
def elemA (pack i j : Nat) : Nat :=
  match pack with | 0 => i | 1 => 8 * (j / 4) + i | 2 => i | _ => 4 * (2 * (i / 4) + j / 4) + i % 4
def elemB (pack i j : Nat) : Nat :=
  match pack with | 0 => j | 1 => j | 2 => 8 * (i / 4) + j | _ => 4 * (2 * (i / 4) + j / 4) + j % 4

/-- Rows and columns of problem p (R129). -/
def rowsOf (pack p : Nat) : List Nat :=
  match pack with
  | 0 | 1 => List.range 8
  | 2 => (List.range 4).map (4 * p + ·)
  | _ => (List.range 4).map (4 * (p / 2) + ·)
def colsOf (pack p : Nat) : List Nat :=
  match pack with
  | 0 | 2 => List.range 8
  | 1 => (List.range 4).map (4 * p + ·)
  | _ => (List.range 4).map (4 * (p % 2) + ·)

/-- Bytes of a panel of k steps of n elements (R130, R131). -/
def panelLen (fmt n k : Nat) (scaled : Bool) (bk : Nat) : Nat :=
  k * n * (fmtWidth fmt).getD 8 / 8 + (if scaled then ceilDiv k bk * n else 0)

def round32 (n : Nat) : Nat := ceilDiv n 32 * 32

/-- Lengths of the panels of an MXA.MMA under the formats `ch` of its chain (R135). -/
def panelBytes (pack k : Nat) (ch : BitVec 32) : Nat × Nat :=
  (panelLen (extFmtA ch) (nA pack) k (extScaled ch) (extBk ch), panelLen (extFmtB ch) (nB pack) k (extScaled ch) (extBk ch))

/-- Kinds of chains (R135). -/
inductive ChainKind where
  | streaming | scaled | anchored
  deriving DecidableEq, Repr

def kindOf : Option (BitVec 32) → ChainKind
  | none => .streaming
  | some e =>
    if extScaled e then .scaled
    else if anchoredFmt (extFmtA e) || anchoredFmt (extFmtB e) then .anchored
    else .streaming

def Chain.ext (ch : Chain) : Option (BitVec 32) := ch.mmas.head?.map MmaRec.ext
def Chain.kind (ch : Chain) : ChainKind := kindOf ch.ext
def Chain.deferred (ch : Chain) : Bool := ch.kind != .streaming
def Chain.totalK (ch : Chain) : Nat := (ch.mmas.map MmaRec.k).sum

/-- Bytes and format of a bias (R149). -/
def biasLen (init fmt : Nat) : Nat :=
  (if init = 1 then 8 else if init = 2 then 64 else 0) * (fmtWidth fmt).getD 8 / 8

/-- One element of a panel: its value, and its block's scale exponent (none where the scale is 0xFF). -/
structure Elem where
  v : FVal
  scale : Option Int
  deriving DecidableEq, Repr

/-- Element r of step `st` of a panel (R130, R131, R41). -/
def panelElem (img : Nat) (fmt n : Nat) (scaled : Bool) (bk : Nat) (cb : Codebook) (st r : Nat) : Elem :=
  let w := (fmtWidth fmt).getD 8
  let at_ (bit : Nat) (wd : Nat) : Nat := (img >>> bit) % 2 ^ wd
  if !scaled then ⟨decodeElem fmt (at_ ((st * n + r) * w) w) cb, some 0⟩
  else
    let base := 8 * (st / bk * (n + bk * n * w / 8))
    let sc := at_ (base + 8 * r) 8
    if sc = 0xFF then ⟨.nan, none⟩
    else ⟨decodeScaledElem fmt (at_ (base + 8 * n + (st % bk * n + r) * w) w), some ((sc : Int) - 127)⟩

/-- Aligned operand width W of an anchored chain (R136). -/
def widthW (fmt : Nat) : Nat :=
  match fmt with
  | 0x00 => 4 | 0x01 => 5 | 0x02 => 8 | 0x03 => 9 | 0x04 => 16
  | 0x06 => 5 | 0x07 => 7 | 0x08 => 10 | 0x09 => 19 | 0x0A => 33
  | 0x0B | 0x0C | 0x0D => 41
  | 0x0E => 24 | 0x0F => 48 | _ => 0

/-- floor(log2 |v|) of a finite non-zero value. -/
def log2Of : FVal → Option Int
  | .fin _ m e => if m = 0 then none else some ((Nat.log2 m : Int) + e)
  | _ => none

def maxOpt (a b : Option Int) : Option Int :=
  match a, b with
  | some x, some y => some (max x y)
  | some x, none => some x
  | none, y => y

/-- m * 2^e as an integer, truncated towards zero (R147). -/
def truncUnits (s : Bool) (m : Nat) (e : Int) : Int :=
  let n : Nat := if 0 ≤ e then m <<< e.toNat else m >>> (-e).toNat
  if s then -(n : Int) else n

/-- The integer that carries an element into the array: units of 2^e_lo in a streaming chain, of 2^(e_lo − 127) in a
scaled one (R50, R51), aligned integers in an anchored one (R147). Non-finite elements enter as 0. -/
def alphaOf (k : ChainKind) (fmt : Nat) (mx : Option Int) (x : Elem) : Int :=
  match x.v with
  | .fin s m e =>
    match k with
    | .streaming => truncUnits s m (e - eLo fmt false)
    | .scaled => truncUnits s m (e + x.scale.getD 0 - (eLo fmt true - 127))
    | .anchored =>
      match mx with
      | none => 0
      | some E => truncUnits s m (e + (widthW fmt : Int) - 1 - E)
  | _ => 0

/-- An integer moved left by `sh`, or right towards −∞ where `sh` is negative. -/
def place (n sh : Int) : Int := if 0 ≤ sh then n * 2 ^ sh.toNat else n / 2 ^ (-sh).toNat

/-- Position of a product's unit above bit 0 of I (R47, R50, R51, R147). -/
def unitShift (k : ChainKind) (ext : BitVec 32) (anchor : Int) : Int :=
  match k with
  | .streaming => 64 + eLo (extFmtA ext) false + eLo (extFmtB ext) false
  | .scaled => 64 - anchor + (eLo (extFmtA ext) true - 127) + (eLo (extFmtB ext) true - 127)
  | .anchored => 0

/-- The class of a product, from the element values (R49, R147). -/
def productTag (a b : FVal) : BitVec 2 :=
  match FVal.mul a b with
  | (.nan, _) => 3
  | (.inf s, _) => if s then 2 else 1
  | _ => 0

/-- Sum of two words with their classes (R49); the words add without wrapping, guard bits included. -/
def Acc.add (a b : Acc) : Acc :=
  let t : BitVec 2 := if a.tag = 0 then b.tag else if b.tag = 0 then a.tag else if a.tag = b.tag then a.tag else 3
  ⟨a.v + b.v, t⟩

/-- Whether a term of a block pair is truncated (R51). -/
def truncates (ext : BitVec 32) (anchor : Int) (a b : Elem) : Bool :=
  match a.scale, b.scale with
  | some sa, some sb => decide (64 + eLo (extFmtA ext) true + eLo (extFmtB ext) true < anchor - (sa + sb))
  | _, _ => false

/-- The term of one product. -/
def termOf (k : ChainKind) (ext : BitVec 32) (anchor : Int) (al be : Int) (a b : Elem) : Acc :=
  ⟨place (al * be) (unitShift k ext anchor), productTag a.v b.v⟩

/-! #### The panels of an MXA.MMA -/

/-- The steps of an MXA.MMA: for each, its A and its B elements, under the chain's formats and its own codebooks. -/
def mmaSteps (c : Cluster) (pack : Nat) (ch : BitVec 32) (m : MmaRec) (imgA imgB : Nat) : List (List Elem × List Elem) :=
  let fa := extFmtA ch
  let fb := extFmtB ch
  let cbA := if isCodebook fa then cbTable c (extSlotA m.ext) (extTableA m.ext) (fa == 0x0C) else []
  let cbB := if isCodebook fb then cbTable c (extSlotB m.ext) (extTableB m.ext) (fb == 0x0C) else []
  (List.range m.k).map fun st =>
    ((List.range (nA pack)).map fun r => panelElem imgA fa (nA pack) (extScaled ch) (extBk ch) cbA st r,
     (List.range (nB pack)).map fun r => panelElem imgB fb (nB pack) (extScaled ch) (extBk ch) cbB st r)

def elemNth (l : List Elem) (i : Nat) : Elem := l.getD i ⟨.fin false 0 0, some 0⟩

def optGet (m : NMap (Option Int)) (p : Nat) : Option Int := NMap.get none m p
def optMax (m : NMap (Option Int)) (p : Nat) (x : Option Int) : NMap (Option Int) := NMap.set none m p (maxOpt (optGet m p) x)

/-- What a scan records of one step (R145, R147). -/
def scanStep (ch : Chain) (st : List Elem × List Elem) : Chain :=
  (List.range (problems ch.pack)).foldl (fun ch p =>
    let as := (List.range st.1.length).filterMap fun r => if problemOfA ch.pack r = p then some (elemNth st.1 r) else none
    let bs := (List.range st.2.length).filterMap fun r => if problemOfB ch.pack r = p then some (elemNth st.2 r) else none
    match ch.kind with
    | .scaled =>
      let sa := as.foldl (fun m x => maxOpt m x.scale) none
      let sb := bs.foldl (fun m x => maxOpt m x.scale) none
      { ch with scaleMax := optMax ch.scaleMax p (match sa, sb with | some x, some y => some (x + y) | _, _ => none) }
    | _ => { ch with
        eA := optMax ch.eA p (as.foldl (fun m x => maxOpt m (log2Of x.v)) none)
        eB := optMax ch.eB p (bs.foldl (fun m x => maxOpt m (log2Of x.v)) none) }) ch

/-- The anchor of problem p (R145, R147, R158). -/
def anchorOf (ch : Chain) (p : Nat) : Int :=
  match ch.kind, ch.ext with
  | .scaled, _ => (optGet ch.scaleMax p).getD 0
  | .anchored, some e =>
    match optGet ch.eA p, optGet ch.eB p with
    | some a, some b => a + b - widthW (extFmtA e) - widthW (extFmtB e) + 66
    | _, _ => 0
  | _, _ => 0

/-- E of a side of problem p: where either side has no finite non-zero element the elements of the empty side are 0
and the other side's products with them vanish (R147). -/
def sideMax (ch : Chain) (a : Bool) (p : Nat) : Option Int := optGet (if a then ch.eA else ch.eB) p

/-- A bias element as an accumulator at an anchor, and whether it overflowed (R48, R52, R149). -/
def biasAcc (fmt : Nat) (anchor : Int) (x : Nat) : Acc × Bool :=
  if fmt = 0x12 then let a := XAcc.load (BitVec.ofNat 128 x); (⟨a.w.toInt, a.tag⟩, false)
  else
    let (a, f) := XAcc.ofValue anchor (decodeElem fmt x [])
    (⟨a.w.toInt, a.tag⟩, f &&& flOF ≠ 0)

/-- The bias element of footprint position (i, j) (R149). -/
def biasAt (ch : Chain) (i j : Nat) : Option Nat :=
  if ch.init = 1 then ch.bias[j]? else if ch.init = 2 then ch.bias[8 * i + j]? else none

def accGet (m : NMap Acc) (k : Nat) : Acc := NMap.get {} m k
def accAdd (m : NMap Acc) (k : Nat) (a : Acc) : NMap Acc := NMap.set {} m k (Acc.add (accGet m k) a)

def positions : List (Nat × Nat) := (List.range 8).flatMap fun i => (List.range 8).map fun j => (i, j)

/-- Anchors fixed, accumulators and checksum accumulators at their initial value (R149, R151). -/
def startChain (ch : Chain) : Chain :=
  if ch.started then ch
  else
    let anchors := (List.range 4).map (anchorOf ch)
    let ch := { ch with anchors := anchors, started := true }
    positions.foldl (fun ch (i, j) =>
      match biasAt ch i j with
      | none => ch
      | some x =>
        let p := problemAt ch.pack i j
        let (a, ovf) := biasAcc ch.biasFmt (anchors.getD p 0) x
        let w : Acc := if a.tag = 0 then a else ⟨0, a.tag⟩
        { ch with
          acc := accAdd ch.acc (8 * i + j) w, acc2 := accAdd ch.acc2 (8 * i + j) w
          cr := accAdd ch.cr (8 * p + j) w, cc := accAdd ch.cc (8 * p + i) w, cn := accAdd ch.cn p w
          biasOver := ch.biasOver || ovf }) ch

/-- The sum of a list of words. -/
def accSum (l : List Acc) : Acc := l.foldl Acc.add {}

/-- The beats of one K step (R151): products into the accumulators and the checksum accumulators. -/
def stepInto (ext : BitVec 32) (ch : Chain) (st : List Elem × List Elem) : Chain :=
  let k := ch.kind
  let al (i j : Nat) : Elem × Int :=
    let x := elemNth st.1 (elemA ch.pack i j)
    (x, alphaOf k (extFmtA ext) (sideMax ch true (problemAt ch.pack i j)) x)
  let be (i j : Nat) : Elem × Int :=
    let x := elemNth st.2 (elemB ch.pack i j)
    (x, alphaOf k (extFmtB ext) (sideMax ch false (problemAt ch.pack i j)) x)
  let ch1 := positions.foldl (fun ch (i, j) =>
    let p := problemAt ch.pack i j
    let (a, x) := al i j
    let (b, y) := be i j
    let t := termOf k ext (ch.anchors.getD p 0) x y a b
    let tr := k == .scaled && truncates ext (ch.anchors.getD p 0) a b
    { ch with
      acc := accAdd ch.acc (8 * i + j) t, acc2 := accAdd ch.acc2 (8 * i + j) t
      trunc := if tr && !ch.trunc.contains p then ch.trunc ++ [p] else ch.trunc }) ch
  (List.range (problems ch.pack)).foldl (fun ch p =>
    let rows := rowsOf ch.pack p
    let cols := colsOf ch.pack p
    let j0 := cols.headD 0
    let i0 := rows.headD 0
    let ac := (rows.map fun i => (al i j0).2).sum
    let bc := (cols.map fun j => (be i0 j).2).sum
    let sh := unitShift k ext (ch.anchors.getD p 0)
    let tag (i j : Nat) : Acc := ⟨0, productTag (al i j).1.v (be i j).1.v⟩
    let cr := cols.foldl (fun m j => accAdd m (8 * p + j) ⟨place (ac * (be i0 j).2) sh, (accSum (rows.map fun i => tag i j)).tag⟩) ch.cr
    let cc := rows.foldl (fun m i => accAdd m (8 * p + i) ⟨place ((al i j0).2 * bc) sh, (accSum (cols.map fun j => tag i j)).tag⟩) ch.cc
    let cn := accAdd ch.cn p
      ⟨place (ac * bc) sh, (accSum (rows.map fun i => accSum (cols.map fun j => tag i j))).tag⟩
    { ch with cr := cr, cc := cc, cn := cn }) ch1

/-- A failed cell's wrong sum: its word is off by one after a pass (a physical upset). -/
def upsetAcc (bad : List Nat) (m : NMap Acc) (mirror : Bool) : NMap Acc :=
  bad.foldl (fun m k => accAdd m (if mirror then 63 - k else k) ⟨1, 0⟩) m

/-! #### Faults of the array -/

/-- A matrix-array fault of the chain's context (R154); the chain stores nothing. -/
def chainFault (s : State) (cl : Nat) (ch : Chain) (cls : Nat) (pc : BitVec 48) (addr : Nat) : State :=
  ownerFault s cl ch.owner cls pc addr

/-- Holds of an instruction released; operations that waited go on (R133). -/
def releaseHeld (s : State) (cl id : Nat) : State :=
  let c := s.cluster cl
  tdProgress (s.setCluster cl { c with mx := { c.mx with held := c.mx.held.filter fun h => h.id ≠ id } }) cl

def setCurrent (s : State) (cl : Nat) (ch : Option Chain) : State :=
  let c := s.cluster cl
  s.setCluster cl { c with mx := { c.mx with current := ch } }

def setDrain (s : State) (cl : Nat) (ch : Option Chain) : State :=
  let c := s.cluster cl
  s.setCluster cl { c with mx := { c.mx with drain := ch } }

/-- A panel or bias of `n` bytes read by the fetch port in whole sectors (R132): its little-endian number, or the sector whose
parity failed (R564). -/
def fetchPort (s : State) (cl a n : Nat) : State × Nat × Option Nat :=
  let (s, bs, e) := scratchBytes s cl a (round32 n)
  (s, leNat (bs.take n), e)

/-! #### The instructions (R118, R119, R138, R139) -/

/-- An entry put into the queue of a group slot. -/
def enqueueMx (c : Cluster) (o : ChainOwner) (pc : BitVec 48) (op : MxOp) : Cluster :=
  let key := 4 * o.core + o.slot
  let q := NMap.get [] c.mx.queues key
  { c with mx := { c.mx with
      queues := NMap.set [] c.mx.queues key (q ++ [⟨o, pc, op, c.mx.order⟩]), order := c.mx.order + 1 } }

def queueFull (c : Cluster) (g : Grp) : Bool := decide (4 ≤ (NMap.get [] c.mx.queues (gKey g.core g.slot)).length)

/-- Ranges held for an instruction, under a new number. -/
def holdRanges (c : Cluster) (rs : List (Nat × Nat)) : Cluster × Nat :=
  let id := c.mx.heldNext
  let hs := (rs.filter fun r => r.2 ≠ 0).map fun r => (⟨id, r.1, r.2, false⟩ : Held)
  ({ c with mx := { c.mx with held := c.mx.held ++ hs, heldNext := id + 1 } }, id)

def biasFmtOk (f : Nat) : Bool := [0x05, 0x0D, 0x0E, 0x0F, 0x12].contains f

/-- R119, R132, R138: opens a chain. -/
def execMxaInit (g : Grp) (sa : BitVec 4) (f : BitVec 12) (s : State) : Host.Outcome State Fault Refusal :=
  let init := bitsOf f.toNat 11 10
  let bf := bitsOf f.toNat 9 5
  let pack := bitsOf f.toNat 4 3
  let bad := bitsOf f.toNat 2 0 ≠ 0 || init = 3 || (if init = 0 then bf ≠ 0 || sa ≠ 0 else !biasFmtOk bf)
  .next (coreStep s g { sr := if init = 0 then [] else [sa.toNat], ill := bad, vector := false } fun s gr b _ =>
    let off := (gr.s sa.toNat).toNat / 32 * 32
    let len := round32 (biasLen init bf)
    if queueFull (s.cluster g.cl) g then .hold
    else if init ≠ 0 && decide (b.scrSize < off + len) then .flt 7 0 (gr.s sa.toNat).toNat
    else if gr.chainOpen then .flt 8 0 0
    else
      let (c, id) := holdRanges (s.cluster g.cl) (if init = 0 then [] else [(b.scrBase + off, len)])
      let c := enqueueMx c (ownerOf g gr b) gr.pc (.init (b.scrBase + off) f id)
      .done (s.setCluster g.cl (c.setGroup g.core g.slot
        { gr with chainOpen := true, chainPack := pack, chainExt := none, chainK := 0 })))

/-- Illegal fields of an MXA.MMA extension (R119). -/
def mmaIll (e : BitVec 32) : Bool :=
  let fa := extFmtA e
  let fb := extFmtB e
  let side (f slot table : Nat) : Bool :=
    !(exactFmt f || anchoredFmt f) || (extScaled e && !scaleAllowed f) ||
      (if f = 0x0B then false else if f = 0x0C then table ≠ 0 else slot ≠ 0 || table ≠ 0)
  side fa (extSlotA e) (extTableA e) || side fb (extSlotB e) (extTableB e) ||
    (bitOf e.toNat 23 && !extScaled e) || bitsOf e.toNat 31 24 ≠ 0

/-- R119, R130-R135: K steps for the open chain. ADDRESS of its scratch-bound fault is the register's value, the A panel's where
both overrun; MXA.INIT records its register's value too (DESIGN CHOICE, log entry 30). -/
def execMxaMma (g : Grp) (sa sb sc : BitVec 4) (ext : BitVec 32) (s : State) : Host.Outcome State Fault Refusal :=
  .next (coreStep s g { sr := [sa.toNat, sb.toNat, sc.toNat], ill := mmaIll ext, words := 2, vector := false } fun s gr b _ =>
    let k := (gr.s sc.toNat).toNat
    let ch := gr.chainExt.getD ext
    let offA := (gr.s sa.toNat).toNat / 32 * 32
    let offB := (gr.s sb.toNat).toNat / 32 * 32
    let (la, lb) := panelBytes gr.chainPack k ch
    let badA := decide (la ≠ 0) && decide (b.scrSize < offA + round32 la)
    let badB := decide (lb ≠ 0) && decide (b.scrSize < offB + round32 lb)
    if queueFull (s.cluster g.cl) g then .hold
    else if gr.chainOpen && (badA || badB) then .flt 7 0 (gr.s (if badA then sa else sb).toNat).toNat
    else if !gr.chainOpen || decide (2 ^ 20 < gr.chainK + k) then .flt 8 0 0
    else
      let (c, id) := holdRanges (s.cluster g.cl) [(b.scrBase + offA, round32 la), (b.scrBase + offB, round32 lb)]
      let c := enqueueMx c (ownerOf g gr b) gr.pc (.mma (b.scrBase + offA) (b.scrBase + offB) k ext id)
      .done (s.setCluster g.cl (c.setGroup g.core g.slot { gr with chainExt := some ch, chainK := gr.chainK + k })))

/-- Closed chains of a group that are not complete (R121, R138). -/
def mxCount (c : Cluster) (o : ChainOwner) : Nat := (c.mx.incomplete.filter fun x => x = o).length

/-- A chain closed at issue. -/
def closeChain (s : State) (g : Grp) (gr : Group) (b : Block) (op : MxOp) : State :=
  let o := ownerOf g gr b
  let c := enqueueMx (s.cluster g.cl) o gr.pc op
  let c := { c with mx := { c.mx with incomplete := c.mx.incomplete ++ [o] } }
  s.setCluster g.cl (c.setGroup g.core g.slot { gr with chainOpen := false, chainExt := none, chainK := 0 })

/-- Whether a tensor descriptor may take an MXA.STORE (R264). -/
def storable (t : TImg) : Bool := decide (2 ≤ t.ndim) && t.nwin == 0 && !t.scaled && t.sbind == 0 && t.fmt != 0x11

/-- R118, R138, R255, R264: closes the chain towards a descriptor. -/
def execMxaStore (g : Grp) (sa sb : BitVec 4) (s : State) : Host.Outcome State Fault Refusal :=
  .next (coreStep s g { sr := [sa.toNat, sb.toNat], vector := false } fun s gr b _ =>
    let c := s.cluster g.cl
    let h := (gr.s sa.toNat).toNat
    let idx := (gr.s sb.toNat).toNat
    if queueFull c g || decide (16 ≤ mxCount c (ownerOf g gr b)) then .hold
    else if c.tdBad.contains (h % 64) then .flt 5 0 0
    else if !gr.chainOpen then .flt 8 0 0
    else
      match tensorUse c gr.bslot h with
      | none => .flt 9 0 0
      | some (_, t) =>
        if !storable t || decide (listProd t.view ≤ idx) then .flt 9 0 0
        else .done (closeChain s g gr b (.store h idx)))

/-- R118: held until at most N closed chains of the group are incomplete. -/
def execMxaWait (g : Grp) (n : BitVec 4) (s : State) : Host.Outcome State Fault Refusal :=
  .next (coreStep s g { vector := false } fun s gr b _ =>
    if n.toNat < mxCount (s.cluster g.cl) (ownerOf g gr b) then .hold else .done s)

/-! #### The array at work (R139-R153) -/

/-- R139: the chain whose MXA.INIT reached the array first becomes current. -/
def execChainBecomesCurrent (cl : Nat) (s : State) : Host.Outcome State Fault Refusal :=
  let mx := (s.cluster cl).mx
  if mx.current.isSome then .next s
  else
    let heads := mx.queues.filterMap fun q => match q.2 with
      | e :: _ => (match e.op with | .init .. => some e | _ => none)
      | [] => none
    match heads.foldl (fun (best : Option MxEntry) e => match best with
      | some b => if e.order < b.order then some e else best
      | none => some e) none with
    | none => .next s
    | some e => .next (setCurrent s cl (some { owner := e.owner }))

/-- Bias elements of a number. -/
def biasElems (init fmt img : Nat) : List Nat :=
  let w := (fmtWidth fmt).getD 8
  (List.range (if init = 1 then 8 else if init = 2 then 64 else 0)).map fun i => (img >>> (i * w)) % 2 ^ w

/-- Whether a chain's taken instructions have been scanned, or multiplied in a streaming chain: the array may take
the next (R140, R141). -/
def takeReady (ch : Chain) : Bool := ch.closing.isNone && ch.mmas.all fun m => if ch.deferred then m.scanned else m.multiplied

/-- R139-R141: the array takes the next instruction of the current chain's queue. -/
def execArrayTakeInstruction (cl : Nat) (s : State) : Host.Outcome State Fault Refusal :=
  let c := s.cluster cl
  match c.mx.current with
  | none => .next s
  | some ch =>
    let key := 4 * ch.owner.core + ch.owner.slot
    match NMap.get [] c.mx.queues key with
    | [] => .next s
    | e :: es =>
      if e.owner ≠ ch.owner || !takeReady ch then .next s
      else
        let took := s.setCluster cl { c with mx := { c.mx with queues := NMap.set [] c.mx.queues key es } }
        match e.op with
        | .init bias f id =>
          if ch.opened then .next s
          else
            let init := bitsOf f.toNat 11 10
            let bf := bitsOf f.toNat 9 5
            let (s, img, bad) := fetchPort took cl bias (biasLen init bf)
            let ch := { ch with
              opened := true, pack := bitsOf f.toNat 4 3, init := init, biasFmt := bf, bias := biasElems init bf img }
            match bad with
            | some a => .next (chainFault (setCurrent s cl none) cl ch 5 e.pc a)
            | none => .next (releaseHeld (setCurrent s cl (some ch)) cl id)
        | .mma a b k ext id =>
          .next (setCurrent took cl (some { ch with mmas := ch.mmas ++ [⟨a, b, k, ext, id, e.pc, e.order, false, false⟩] }))
        | op => .next (setCurrent took cl (some { ch with closing := some op, closePc := e.pc }))

/-- The panels of an MXA.MMA read: its steps, or the address whose parity failed, the A panel's where both panels meet an error
(DESIGN CHOICE, log entry 30), and 0 where only a codebook's did (R503). -/
def readPanels (s : State) (cl : Nat) (ch : Chain) (m : MmaRec) : State × List (List Elem × List Elem) × Option Nat :=
  let ext := ch.ext.getD m.ext
  let (la, lb) := panelBytes ch.pack m.k ext
  let (s, a, e1) := fetchPort s cl m.a la
  let (s, b, e2) := fetchPort s cl m.b lb
  let c := s.cluster cl
  let cb := (isCodebook (extFmtA ext) && cbTableBad c (extSlotA m.ext) (extTableA m.ext) (extFmtA ext == 0x0C)) ||
    (isCodebook (extFmtB ext) && cbTableBad c (extSlotB m.ext) (extTableB m.ext) (extFmtB ext == 0x0C))
  (s, mmaSteps c ch.pack ext m a b, match e1, e2 with | some x, _ => some x | none, some x => some x | none, none => if cb then some 0 else none)

/-- The i-th taken MXA.MMA changed. -/
def Chain.modMma (ch : Chain) (i : Nat) (f : MmaRec → MmaRec) : Chain := { ch with mmas := modAt ch.mmas i f }

/-- R141: the next MXA.MMA of a deferred chain scanned. -/
def execDeferredScan (cl : Nat) (s : State) : Host.Outcome State Fault Refusal :=
  match (s.cluster cl).mx.current with
  | none => .next s
  | some ch =>
    match (List.range ch.mmas.length).find? fun i => (ch.mmas[i]?.map fun m => !m.scanned) == some true with
    | none => .next s
    | some i =>
      match ch.mmas[i]? with
      | none => .next s
      | some m =>
        if !ch.deferred || cbAwaited (s.cluster cl) (ch.ext.getD m.ext) m.ext m.order then .next s
        else
          let (s, sts, bad) := readPanels s cl ch m
          match bad with
          | some a => .next (chainFault (setCurrent s cl none) cl ch 5 m.pc a)
          | none =>
            .next (setCurrent s cl (some ((sts.foldl scanStep ch).modMma i fun m => { m with scanned := true })))

/-- R140, R141, R145-R153, R503: the beats of the next MXA.MMA; a deferred chain's passes wait for its closing
instruction. The second run of R153 is formed beside the first. A D-stage mismatch has PROBLEM and the FAIL masks 0
(DESIGN CHOICE, log entry 30). -/
def execMultiplyPass (cl : Nat) (s : State) : Host.Outcome State Fault Refusal :=
  let mx := (s.cluster cl).mx
  match mx.current with
  | none => .next s
  | some ch =>
    match (List.range ch.mmas.length).find? fun i => (ch.mmas[i]?.map fun m => !m.multiplied) == some true with
    | none => .next s
    | some i =>
      match ch.mmas[i]? with
      | none => .next s
      | some m =>
        if (ch.deferred && (ch.closing.isNone || ch.mmas.any fun m => !m.scanned)) ||
            cbAwaited (s.cluster cl) (ch.ext.getD m.ext) m.ext m.order || halfHeld s cl then .next s
        else
          let (s, sts, bad) := readPanels s cl ch m
          match bad with
          | some a => .next (chainFault (setCurrent s cl none) cl ch 5 m.pc a)
          | none =>
            let ch := startChain ch
            if mx.dBad && decide (m.k ≠ 0) then
              let s := chainFault (setCurrent s cl none) cl ch 8 m.pc 0
              .next (recordMxEvt s cl { pack := BitVec.ofNat 2 ch.pack })
            else
              let s := s.observe { ev := 0x03, part := some ch.owner.part, kind := 4, src := cl, count := m.k }
              let ch := sts.foldl (stepInto (ch.ext.getD m.ext)) ch
              let ch := { ch with acc := upsetAcc mx.badCells ch.acc false, acc2 := upsetAcc mx.badCells ch.acc2 true }
              let s := setCurrent s cl (some (ch.modMma i fun m => { m with multiplied := true }))
              .next (releaseHeld s cl m.held)

/-- R142: the current chain moves to the free drain buffer after its closing instruction and its last add. -/
def execDrainMove (cl : Nat) (s : State) : Host.Outcome State Fault Refusal :=
  let c := s.cluster cl
  match c.mx.current, c.mx.drain with
  | some ch, none =>
    if ch.closing.isSome && ch.mmas.all MmaRec.multiplied then
      .next (s.setCluster cl { c with mx := { c.mx with current := none, drain := some (startChain ch) } })
    else .next s
  | _, _ => .next s

/-- Words compared modulo 2^128. -/
def sameWord (a b : Int) : Bool := (a - b) % (2 ^ 128 : Int) == 0

/-- What the check of R152 finds wrong in problem p: columns, rows, the corner, tags. -/
structure CheckResult where
  cols : List Nat := []
  rows : List Nat := []
  corner : Bool := false
  tags : Bool := false
  deriving DecidableEq, Repr

def CheckResult.bad (r : CheckResult) : Bool := !r.cols.isEmpty || !r.rows.isEmpty || r.corner || r.tags

def checkProblem (ch : Chain) (p : Nat) : CheckResult :=
  let rows := rowsOf ch.pack p
  let cols := colsOf ch.pack p
  let a (i j : Nat) : Acc := accGet ch.acc (8 * i + j)
  let fin (x : Acc) : Bool := x.tag == 0
  let colSum (j : Nat) : Int := (rows.map fun i => (a i j).v).sum
  let rowSum (i : Nat) : Int := (cols.map fun j => (a i j).v).sum
  let cr (j : Nat) : Acc := accGet ch.cr (8 * p + j)
  let cc (i : Nat) : Acc := accGet ch.cc (8 * p + i)
  let cn := accGet ch.cn p
  { cols := cols.filter fun j => !sameWord (colSum j) (cr j).v
    rows := rows.filter fun i => !sameWord (rowSum i) (cc i).v
    corner := !sameWord (cols.map fun j => (cr j).v).sum cn.v || !sameWord (rows.map fun i => (cc i).v).sum cn.v
    tags := cols.any (fun j => fin (cr j) != rows.all fun i => fin (a i j)) ||
      rows.any (fun i => fin (cc i) != cols.all fun j => fin (a i j)) ||
      fin cn != rows.all fun i => cols.all fun j => fin (a i j) }

/-- Footprint positions whose two runs differ (R153). -/
def runsDiffer (ch : Chain) : List (Nat × Nat) :=
  if ch.trunc.isEmpty then []
  else positions.filter fun (i, j) =>
    let x := accGet ch.acc (8 * i + j)
    let y := accGet ch.acc2 (8 * i + j)
    !sameWord x.v y.v || x.tag != y.tag

def maskOf (l : List Nat) : Nat := packFields (l.map fun i => (1, i, 1))

/-- R152-R155: the check of the chain in the drain buffer. Failures of R152 and differences of R153 found in one chain are one
event, with SECOND_RUN set (DESIGN CHOICE, log entry 30). -/
def execChainCheck (cl : Nat) (s : State) : Host.Outcome State Fault Refusal :=
  match (s.cluster cl).mx.drain with
  | none => .next s
  | some ch =>
    if ch.checked then .next s
    else
      let ps := (List.range (problems ch.pack)).filter fun p => !ch.trunc.contains p
      let rs := (ps.map fun p => (p, checkProblem ch p)).filter fun r => r.2.bad
      let diff := runsDiffer ch
      if rs.isEmpty && diff.isEmpty then .next (setDrain s cl (some { ch with checked := true }))
      else
        let rows := rs.flatMap (fun r => r.2.rows) ++ diff.map Prod.fst
        let cols := rs.flatMap (fun r => r.2.cols) ++ diff.map Prod.snd
        let probs := rs.map Prod.fst ++ diff.map fun d => problemAt ch.pack d.1 d.2
        let s := chainFault (setDrain s cl none) cl ch 8 ch.closePc 0
        .next (recordMxEvt s cl {
          secondRun := !diff.isEmpty
          tagMismatch := rs.any fun r => r.2.tags
          pack := BitVec.ofNat 2 ch.pack
          problem := BitVec.ofNat 2 (probs.min?.getD 0)
          rowFail := BitVec.ofNat 8 (maskOf rows)
          colFail := BitVec.ofNat 8 (maskOf cols)
          cornerFail := BitVec.ofNat 4 (maskOf ((rs.filter fun r => r.2.corner).map Prod.fst)) })

/-! #### The store path (R142, R160, R263) and the handover (R228, R229) -/

/-- First row and column of part p of a footprint divided as `pack` says (R129, R263). -/
def row0 (pack p : Nat) : Nat := (rowsOf pack p).headD 0
def col0 (pack p : Nat) : Nat := (colsOf pack p).headD 0

/-- An accumulator as the value it stores: its low 128 bits, its class (R146). -/
def Acc.x (a : Acc) : XAcc := ⟨if a.tag = 0 then BitVec.ofInt 128 a.v else 0, a.tag⟩

/-- Whether a finite accumulator's true sum has left the X128 range (R146). -/
def Acc.isOver (a : Acc) : Bool := a.tag == 0 && (decide (a.v < -(2 ^ 127)) || decide (2 ^ 127 ≤ a.v))

/-- Element writes and rounding flags of an MXA.STORE (R263). The spec names no codebook for CB4 and CB8 here: the table is one
of entries of 0 (DESIGN CHOICE, log entry 30). -/
def chainWrites (c : Cluster) (t : TImg) (ch : Chain) (index : Nat) : List BitWrite × FFlags :=
  let o := coordOf t.view index
  positions.foldl (fun (out : List BitWrite × FFlags) (i, j) =>
    let p := problemAt t.retile i j
    let (ip, jp) := (i - row0 t.retile p, j - col0 t.retile p)
    let (ip, jp) := if t.transpose then (jp, ip) else (ip, jp)
    let co := (List.range t.ndim).map fun d =>
      o.getD d 0 + (if d = 0 then jp + p * t.partOff0 else if d = 1 then ip + p * t.partOff1 else 0)
    if (List.range t.ndim).any fun d => decide (t.extD d ≤ co.getD d 0) then out
    else
      let a := (accGet ch.acc (8 * i + j)).x
      let anchor := ch.anchors.getD (problemAt ch.pack i j) 0
      let (x, f) :=
        if t.fmt = 0x12 then let (w, f) := a.store; (w.toNat, f)
        else encodeElem t.fmt (rmodeOf c t co) [] 0 (a.value (anchor + t.anchorScale))
      (out.1 ++ [t.writeAt co x], out.2 ||| f)) ([], 0)

/-- A contribution realigned to an anchored reduction's anchor (R229): 144 bits, class, WIN_LOW, WIN_HIGH. -/
def realign (a : Acc) (d : Int) : Acc × Bool × Bool :=
  if a.tag ≠ 0 then (a, false, false)
  else if 0 ≤ d then
    let v := a.v * 2 ^ d.toNat
    if -(2 ^ 143) ≤ v && v < 2 ^ 143 then (⟨v, 0⟩, false, false)
    else (⟨0, if a.v < 0 then 2 else 1⟩, false, true)
  else
    let q : Int := 2 ^ (-d).toNat
    (⟨a.v / q, 0⟩, a.v % q != 0, false)

/-- A reduction word (R227). -/
def redWord (a : Acc) (low high : Bool) (count redId elem : Nat) : BitVec 256 :=
  let v := wrapInt (if a.tag = 0 then a.v else 0) 160
  BitVec.ofNat 256 (packFields [
    (v % 2 ^ 128, 0, 128), (v >>> 128 % 2 ^ 16, 128, 16), (a.tag.toNat, 144, 2), (b2n low, 146, 1), (b2n high, 147, 1),
    (count, 148, 17), (redId, 165, 16), (elem, 181, 9), (v >>> 144, 190, 16)])

/-- Words handed to a reduction: they wait for injection at a leaf, for the root engine at a root. -/
def RedHandle.give (r : RedHandle) (cycle : Nat) (ws : List (BitVec 256)) : RedHandle :=
  if r.root then { r with localQ := r.localQ ++ ws }
  else { r with outQ := r.outQ ++ ws, late := (if r.lateAt = cycle then r.late else 0) + ws.length, lateAt := cycle }

/-- The words of a chain handed over by RED.ACC (R228, R229). -/
def accWords (r : RedHandle) (ch : Chain) (cursor : Nat) : List (BitVec 256) :=
  positions.map fun (i, j) =>
    let a := accGet ch.acc (8 * i + j)
    let (a, low, high) := realign a (ch.anchors.getD (problemAt ch.pack i j) 0 - r.anchor)
    redWord a low high 1 r.redId ((cursor + 8 * i + j) % r.words)

/-- The chain's rows have left the drain buffer. -/
def drained (s : State) (cl : Nat) (ch : Chain) : State :=
  let c := s.cluster cl
  s.setCluster cl { c with mx := { c.mx with drain := none, drained := c.mx.drained ++ [ch] } }

/-- R142, R160, R263, R264, R229: the checked chain leaves, row by row, through the store path or to the reduction. A
store to X128, or a handover to an exact reduction, at another anchor is a matrix-array fault. -/
def execStorePath (cl : Nat) (s : State) : Host.Outcome State Fault Refusal :=
  let c := s.cluster cl
  match c.mx.drain with
  | none => .next s
  | some ch =>
    if !ch.checked then .next s
    else
      let anchors := (List.range (problems ch.pack)).map fun p => ch.anchors.getD p 0
      match ch.closing with
      | some (.store h idx) =>
        let t := tImg (NMap.get {} c.td (h % 64)).image
        if t.fmt = 0x12 && anchors.any (· ≠ t.anchorScale) then .next (chainFault (setDrain s cl none) cl ch 8 ch.closePc 0)
        else
          let (ws, fl) := chainWrites c t ch idx
          if writesHeld s ws then .next s
          else
            let r := putAll s cl ch.owner.part ws
            match r.bad with
            | some a => .next (chainFault (setDrain r.s cl none) cl ch 5 ch.closePc a)
            | none => .next (drained r.s cl { ch with flags := fl, merge := r.host })
      | some (.redAcc slot cursor) =>
        match (NMap.get {} c.td slot).red with
        | none => .next s
        | some r =>
          if !r.anchored && anchors.any (· ≠ r.anchor) then .next (chainFault (setDrain s cl none) cl ch 8 ch.closePc 0)
          else
            let td := NMap.set {} c.td slot { NMap.get {} c.td slot with red := some (r.give s.fab.cycle (accWords r ch cursor)) }
            .next (drained (s.setCluster cl { c with td := td }) cl ch)
      | _ => .next s

/-- MXSTAT bits of a chain (R124, R138). -/
def chainStat (ch : Chain) : BitVec 8 :=
  BitVec.ofNat 8 (packFields [
    (b2n (ch.totalK == 0), 0, 1), (b2n (!ch.trunc.isEmpty), 1, 1),
    (b2n (ch.biasOver || positions.any fun (i, j) => (accGet ch.acc (8 * i + j)).isOver), 2, 1), (ch.flags.toNat, 3, 5)])

/-- MXSTAT of the group that opened a chain or created a reduction (R124, R138, R235). -/
def orMxstat (c : Cluster) (o : ChainOwner) (m : BitVec 8) : Cluster :=
  if ownerHere c o then
    let gr := c.group o.core o.slot
    c.setGroup o.core o.slot { gr with mxstat := gr.mxstat ||| m }
  else c

/-- R138: the oldest drained chain whose writes are performed completes. -/
def execChainComplete (cl : Nat) (s : State) : Host.Outcome State Fault Refusal :=
  let c := s.cluster cl
  let waits (ch : Chain) : Bool := match ch.merge with
    | some id => s.hostReads.any fun h => h.id = id
    | none => false
  match c.mx.drained.find? fun ch => !waits ch with
  | none => .next s
  | some ch =>
    let s := s.observe {
      ev := 0x04, part := some ch.owner.part, kind := 4, src := cl
      payload := packFields [(ch.closePc.toNat, 0, 48), (ch.totalK, 48, 21),
        ((match ch.kind with | .streaming => 0 | .scaled => 1 | .anchored => 2), 69, 2), ((chainStat ch).toNat, 71, 8)] }
    let c := orMxstat c ch.owner (chainStat ch)
    .next (s.setCluster cl { c with mx := { c.mx with
      drained := c.mx.drained.erase ch, incomplete := c.mx.incomplete.erase ch.owner } })

end Sys2Proof.Machine
end

