-- ==== Sys2Proof/Machine/Gcm.lean ====
section
/-! DEFINITION. The tag of a Rope Transport frame: AES-256 (FIPS 197) and GHASH (NIST SP 800-38D), as
spec/00_scope.md R15 and spec/13_links_and_rope_transport.md R368 name them. Blocks are big-endian numbers of 128 bits. -/

namespace Sys2Proof.Machine

/-! #### AES-256 -/

/-- The S-box of FIPS 197: 32 bytes to a number, byte 0 least significant. -/
def sboxRows : List Nat :=
  [ 0xc072a49cafa2d4adf04759fa7dc982ca76abd7fe2b670130c56f6bf27b777c63,
    0x75b227ebe28012079a059618c323c7041531d871f1e5a534ccf73f362693fdb7,
    0xcf584c4a39becb6a5bb1fc20ed00d153842fe329b3d63b52a05a6e1b1a2c8309,
    0xd2f3ff1021dab6bcf5389d928f40a351a89f3c507f02f94585334d43fbaaefd0,
    0xdb0b5ede14b8ee4688902a22dc4f816073195d643d7ea7c41744975fec130ccd,
    0x08ae7a65eaf4566ca94ed58d6d37c8e779e4959162acd3c25c2406490a3a32e0,
    0x9e1dc186b95735610ef6034866b53e708a8bbd4b1f74dde8c6b4a61c2e2578ba,
    0x16bb54b00f2d99416842e6bf0d89a18cdf2855cee9871e9b948ed9691198f8e1 ]

def subByte (x : Nat) : Nat := (sboxRows.getD (x / 32) 0) >>> (8 * (x % 32)) % 256

/-- Bytes of a number, most significant first. -/
def beBytes (v n : Nat) : List Nat := (List.range n).map fun i => v >>> (8 * (n - 1 - i)) % 256

def beNat (bs : List Nat) : Nat := bs.foldl (fun v b => 256 * v + b) 0

/-- A word with each byte substituted. -/
def subWord (w : Nat) : Nat := beNat ((beBytes w 4).map subByte)

def rotWord (w : Nat) : Nat := w % 2 ^ 24 * 256 + w >>> 24

/-- Multiplication by x in the field of AES. -/
def aesDouble (b : Nat) : Nat := if b < 128 then 2 * b else (2 * b) ^^^ 0x11B

/-- Words `i`, `i + 1`, … of the key schedule, `n` of them; `w` holds the words before, newest first. -/
def keyWords : Nat → Nat → Nat → List Nat → List Nat
  | 0, _, _, w => w
  | n + 1, i, rcon, w =>
    let t := w.headD 0
    let t := if i % 8 = 0 then subWord (rotWord t) ^^^ (rcon <<< 24) else if i % 8 = 4 then subWord t else t
    keyWords n (i + 1) (if i % 8 = 0 then aesDouble rcon else rcon) ((w.getD 7 0 ^^^ t) :: w)

/-- The 15 round keys of a 256-bit key, each a block. -/
def roundKeys (key : List Nat) : List Nat :=
  let w := keyWords 52 8 1 ((List.range 8).map fun i => beNat ((key.drop (4 * (7 - i))).take 4))
  let w := w.reverse
  (List.range 15).map fun r => (List.range 4).foldl (fun v i => v * 2 ^ 32 + w.getD (4 * r + i) 0) 0

/-- SubBytes and ShiftRows of a block: row r of column c comes from column c + r. -/
def subShift (b : Nat) : List Nat :=
  let x := (beBytes b 16).map subByte
  (List.range 16).map fun i => x.getD ((i + 4 * (i % 4)) % 16) 0

/-- MixColumns of one column. -/
def mixColumn (a b c d : Nat) : List Nat :=
  let f (x y z w : Nat) : Nat := aesDouble x ^^^ (aesDouble y ^^^ y) ^^^ z ^^^ w
  [f a b c d, f b c d a, f c d a b, f d a b c]

def mixColumns (x : List Nat) : List Nat :=
  (List.range 4).flatMap fun c => mixColumn (x.getD (4 * c) 0) (x.getD (4 * c + 1) 0) (x.getD (4 * c + 2) 0) (x.getD (4 * c + 3) 0)

/-- The rounds after the first key addition. -/
def aesRounds : List Nat → Nat → Nat
  | [], b => b
  | [k], b => beNat (subShift b) ^^^ k
  | k :: ks, b => aesRounds ks (beNat (mixColumns (subShift b)) ^^^ k)

/-- AES-256 of a block. -/
def aes256 (key : List Nat) (block : Nat) : Nat :=
  match roundKeys key with
  | k :: ks => aesRounds ks (block ^^^ k)
  | [] => block

/-! #### GHASH and the tag -/

/-- Product in the field of GCM: `n` bits of x still to do, from its most significant down. -/
def ghMulGo (x : Nat) : Nat → Nat → Nat → Nat
  | 0, _, z => z
  | n + 1, v, z =>
    ghMulGo x n (if v % 2 = 0 then v / 2 else (v / 2) ^^^ 0xE1000000000000000000000000000000) (if x.testBit n then z ^^^ v else z)

def ghMul (x y : Nat) : Nat := ghMulGo x 128 y 0

/-- Blocks of 16 bytes, the last padded with zeros; at most `n`. -/
def blocksOf : Nat → List Nat → List Nat
  | 0, _ => []
  | n + 1, bs => if bs.isEmpty then [] else beNat ((bs.take 16) ++ List.replicate (16 - (bs.take 16).length) 0) :: blocksOf n (bs.drop 16)

def ghash (h : Nat) (blocks : List Nat) : Nat := blocks.foldl (fun y b => ghMul (y ^^^ b) h) 0

/-- The authentication tag of AES-GCM over additional data alone: empty plaintext, a 96-bit IV. -/
def gcmTag (key iv aad : List Nat) : Nat :=
  let h := aes256 key 0
  ghash h (blocksOf (aad.length / 16 + 1) aad ++ [aad.length * 8 * 2 ^ 64]) ^^^ aes256 key (beNat iv * 2 ^ 32 + 1)

end Sys2Proof.Machine
end

