-- ==== Sys2Proof/Machine/Link.lean ====
section
/-! DEFINITION. Links and Rope Transport: frames, tags, counters, sessions, sending and retransmission
(spec/13_links_and_rope_transport.md R360-R386). -/

namespace Sys2Proof.Machine

def State.link (s : State) (l : Nat) : Link := NMap.get {} s.lnk.links l
def State.setLink (s : State) (l : Nat) (x : Link) : State := { s with lnk := { s.lnk with links := NMap.set {} s.lnk.links l x } }

/-- The effective core clock in units of 50 MHz: a third of the PLL's in the fast step (R426, R434). -/
def coreClk (s : State) : Nat := if s.clk.fast then s.clk.now / 3 else s.clk.now

/-- The link payload rate in MB/s at the core clock applied: 100 GB/s at 1.80 GHz (R6, R423). -/
def payloadRate (s : State) : Nat := 100000 * coreClk s / 36

/-- The frame types of R367. -/
def tData : BitVec 4 := 1
def tStart : BitVec 4 := 2
def tAck : BitVec 4 := 3
def tCnp : BitVec 4 := 4
def tHello : BitVec 4 := 5
def tEcho : BitVec 4 := 6

/-! #### Keys (R369) -/

def State.job (s : State) (id : BitVec 32) : Option Job := s.lnk.jobs.find? fun j => j.id = id
def Job.key (j : Job) (slot : Bool) : Option (BitVec 256) := if slot then j.key1 else j.key0

/-! #### Headers (R366, R367) -/

def beList (v n : Nat) : List Byte := (leBytes v n).reverse

/-- The Internet checksum of bytes taken as 16-bit words. -/
def wordSum : List Byte → Nat
  | a :: b :: rest => 256 * a.toNat + b.toNat + wordSum rest
  | [a] => 256 * a.toNat
  | [] => 0
def inetSum (bs : List Byte) : Nat := let n := wordSum bs; if n = 0 then 0xFFFF else 0xFFFF - ((n - 1) % 0xFFFF + 1)

/-- The Rope header: 40 bytes, little-endian (R367). -/
def headerBytes (fr : Frame) : List Byte :=
  [BitVec.ofNat 8 (fr.ver.toNat + 16 * fr.ftype.toNat), fr.flags] ++ leBytes fr.len.toNat 2 ++ leBytes fr.jobId.toNat 4 ++
    leBytes fr.srcId.toNat 6 ++ leBytes fr.txCtr.toNat 6 ++ leBytes fr.psn.toNat 4 ++ leBytes fr.collSeq.toNat 4 ++
    leBytes fr.step.toNat 2 ++ leBytes fr.resv.toNat 2 ++ leBytes fr.offset.toNat 8

/-- What a UDP datagram carries: Rope header, payload, tag. -/
def datagram (fr : Frame) : List Byte := headerBytes fr ++ fr.payload ++ leBytes fr.tag.toNat 8

/-- The UDP header of a link's frames, before its checksum: both ports, the length. -/
def udpHeader (lk : Link) (n : Nat) : List Byte := beList lk.udpPort.toNat 2 ++ beList lk.udpPort.toNat 2 ++ beList (8 + n) 2

/-- An IPv4 header (R366): its identification is stated nowhere. -/
def ip4Header (lk : Link) (n id : Nat) : List Byte :=
  let head (sum : Nat) : List Byte :=
    [0x45, 0x02] ++ beList (28 + n) 2 ++ beList id 2 ++ [0x40, 0x00, 64, 17] ++ beList sum 2 ++
      leBytes lk.localIp.toNat 4 ++ leBytes lk.peerIp.toNat 4
  head (inetSum (head 0))

/-- An IPv6 header (R366): traffic class with ECT(0), flow label 0. -/
def ip6Header (lk : Link) (n : Nat) : List Byte :=
  [0x60, 0x20, 0, 0] ++ beList (8 + n) 2 ++ [17, 64] ++ leBytes lk.localIp.toNat 16 ++ leBytes lk.peerIp.toNat 16

/-- The UDP checksum over the IPv6 pseudo-header and the datagram (RFC 8200); 0 is sent as 0xFFFF. -/
def udp6Sum (lk : Link) (body : List Byte) : Nat :=
  let n := inetSum (leBytes lk.localIp.toNat 16 ++ leBytes lk.peerIp.toNat 16 ++ beList (8 + body.length) 4 ++ [0, 0, 0, 17] ++
    udpHeader lk body.length ++ [0, 0] ++ body)
  if n = 0 then 0xFFFF else n

/-- The outer headers of a frame that a link sends (R366); `id` is an IPv4 identification. -/
def outerOf (lk : Link) (fr : Frame) (id : Nat) : Outer :=
  let body := datagram fr
  { dst := lk.peerMac, src := lk.localMac
    rest :=
      if lk.encap = 0 then [0x88, 0xB5]
      else if lk.encap = 1 then [0x08, 0x00] ++ ip4Header lk body.length id ++ udpHeader lk body.length ++ [0, 0]
      else [0x86, 0xDD] ++ ip6Header lk body.length ++ udpHeader lk body.length ++ beList (udp6Sum lk body) 2 }

/-- `n` bytes of the outer headers from byte `i` after the addresses on. -/
def outerAt (o : Outer) (i n : Nat) : List Byte := (o.rest.drop i).take n

/-- Bytes of a frame on the wire, FCS included. -/
def wireLen (fr : Frame) : Nat := 12 + fr.outer.rest.length + 48 + fr.payload.length + 4

/-- The encapsulation of a link's frames, and their source: the peer's MAC, or its IP address and UDP port (R366, R372). -/
def peerFrame (lk : Link) (o : Outer) : Bool :=
  if lk.encap = 0 then o.rest == [0x88, 0xB5] && o.src == lk.peerMac
  else if lk.encap = 1 then
    o.rest.length == 30 && outerAt o 0 3 == [0x08, 0x00, 0x45] && outerAt o 11 1 == [17] && outerAt o 14 4 == leBytes lk.peerIp.toNat 4 &&
      outerAt o 22 4 == beList lk.udpPort.toNat 2 ++ beList lk.udpPort.toNat 2
  else
    o.rest.length == 50 && outerAt o 0 2 == [0x86, 0xDD] && (outerAt o 2 1).all (fun b => b >>> 4 == 6) && outerAt o 8 1 == [17] &&
      outerAt o 10 16 == leBytes lk.peerIp.toNat 16 && outerAt o 42 4 == beList lk.udpPort.toNat 2 ++ beList lk.udpPort.toNat 2

/-- Whether a frame arrived marked CE; in Ethernet encapsulation there is no mark (R377). -/
def markedCe (lk : Link) (o : Outer) : Bool :=
  if lk.encap = 0 then false
  else if lk.encap = 1 then (outerAt o 3 1).any fun b => b &&& 3 == 3
  else (outerAt o 3 1).any fun b => (b >>> 4) &&& 3 == 3

/-! #### Tags and counters (R368, R371) -/

/-- The tag of a frame under a key (R368): key bytes as KEY_SET gives them, IV and additional data as they stand in the frame. -/
def frameTag (key : BitVec 256) (fr : Frame) : BitVec 64 :=
  let nats (bs : List Byte) : List Nat := bs.map BitVec.toNat
  let t := gcmTag (nats (leBytes key.toNat 32)) (nats (leBytes fr.srcId.toNat 6 ++ leBytes fr.txCtr.toNat 6)) (nats (headerBytes fr ++ fr.payload))
  BitVec.ofNat 64 (beNat (beBytes (t >>> 64) 8).reverse)

/-- The value at which a TX_CTR stops (R371). -/
def ctrEnd : Nat := 2 ^ 48 - 1

def ctrIdx (job : BitVec 32) (j : Job) : Nat := 2 * job.toNat + b2n j.active

/-- The active key of a job and its next TX_CTR on a link; none while the job has no key or the counter has stopped. -/
def sendKey (s : State) (l : Nat) (job : BitVec 32) : Option (Job × BitVec 256 × Nat) :=
  (s.job job).bind fun j => (j.key j.active).bind fun k =>
    let n := NMap.get 0 (s.link l).txCtr (ctrIdx job j)
    if ctrEnd ≤ n then none else some (j, k, n)

/-- A frame as link `l` sends it: the active key slot, the next TX_CTR, source, version, tag and outer headers. The
identification of an IPv4 header is a free value. -/
def sealFrame (s : State) (l : Nat) (fr : Frame) : Option (State × Frame) :=
  (sendKey s l fr.jobId).map fun (j, k, n) =>
    let lk := s.link l
    let fr := { fr with
      fcsOk := true, ver := if fr.ftype = tHello then 1 else lk.version
      flags := (fr.flags &&& 0xFE#8) ||| BitVec.ofNat 8 (b2n j.active)
      len := BitVec.ofNat 16 fr.payload.length, srcId := lk.localMac, txCtr := BitVec.ofNat 48 n, resv := 0 }
    let fr := { fr with tag := frameTag k fr }
    let s := s.setLink l { lk with txCtr := NMap.set 0 lk.txCtr (ctrIdx fr.jobId j) (n + 1), lastTx := if fr.ftype = tData then s.time else lk.lastTx }
    let (id, s) := if lk.encap = 1 then s.freeNat else (0, s)
    (s, { fr with outer := outerOf lk fr (id % 2 ^ 16) })

/-- A frame with every field zero but those given. -/
def mkFrame (ftype : BitVec 4) (flags : BitVec 8) (job psn : BitVec 32) (payload : List Byte) : Frame :=
  { fcsOk := true, outer := ⟨0, 0, []⟩, ver := 0, ftype := ftype, flags := flags, len := 0,
    jobId := job, srcId := 0, txCtr := 0, psn := psn, collSeq := 0, step := 0, resv := 0, offset := 0,
    payload := payload, tag := 0 }

/-- A frame put on the wire. -/
def emitFrame (s : State) (l : Nat) (fr : Frame) : State := s.send (.frame l fr)

/-- An ACK, CNP, HELLO or ECHO sent under the fabric key, or held until its key and counter let it go (R371). -/
def sendCtl (s : State) (l : Nat) (ftype : BitVec 4) (flags : BitVec 8) (psn : BitVec 32) (payload : List Byte) : State :=
  let fr := mkFrame ftype flags 0 psn payload
  match sealFrame s l fr with
  | some (s, fr) => emitFrame s l fr
  | none => s.setLink l { s.link l with ctlq := (s.link l).ctlq ++ [fr] }

/-! #### Sending reliable frames (R374, R376, R378, R379) -/

/-- Payload bytes unacknowledged. -/
def Link.heldBytes (lk : Link) : Nat := (lk.unacked.map fun x => x.fr.payload.length).sum

/-- Whether the retransmission buffer has room for one more frame (R374). -/
def Link.room (lk : Link) (n : Nat) : Bool := decide (lk.unacked.length < 256) && decide (lk.heldBytes + n ≤ 2 ^ 20)

/-- The partition a frame's job is bound to. -/
def jobPart (s : State) (id : BitVec 32) : Option Nat := (s.job id).bind Job.part

/-- The partition of an occurrence on a link. -/
def txPart (x : TxFrame) : Option Nat := if x.part < 64 then some x.part else none

/-- Whether a waiting frame can be sent now: its job has a key and a counter, and is still the frame's partition's (R370). -/
def sendable (s : State) (l : Nat) (x : TxFrame) : Bool := (sendKey s l x.fr.jobId).isSome && jobPart s x.fr.jobId == txPart x

/-- The frame of a partition that a link sends next: a retransmission, or a new one where the buffer has room (R374, R379). -/
def nextOf (s : State) (l part : Nat) : Option (TxFrame × Bool) :=
  let lk := s.link l
  match lk.unacked.find? fun x => x.again && x.part = part && sendable s l x with
  | some x => some (x, true)
  | none => ((lk.txq.find? fun x => x.part = part && sendable s l x).filter fun x => lk.room x.fr.payload.length).map fun x => (x, false)

/-- The frame sent next: the owner of the spine slot first, else partitions in turn after the one served last (R379). -/
def pickTx (s : State) (l : Nat) : Option (TxFrame × Bool) :=
  match nextOf s l (slotAt s s.spineCycle) with
  | some x => some x
  | none => (List.range 65).findSome? fun d => nextOf s l (((s.link l).lastPart + 1 + d) % 65)

/-- A frame sent again: same header and payload, RETX set, a new TX_CTR (R376); held where it cannot be sent. -/
def resend (s : State) (l : Nat) (psn : BitVec 32) : State :=
  match (s.link l).unacked.find? fun x => x.fr.psn = psn with
  | none => s
  | some x =>
    match (if sendable s l x then sealFrame s l { x.fr with flags := x.fr.flags ||| 2 } else none) with
    | none =>
      let lk := s.link l
      s.setLink l { lk with unacked := lk.unacked.map fun y => if y.fr.psn = psn then { y with again := true } else y }
    | some (s, fr) =>
      let lk := s.link l
      let lk := { lk with
        unacked := lk.unacked.map fun y =>
          if y.fr.psn = psn then { y with again := false, sentAt := s.time, sends := y.sends + 1 } else y
        errs := lk.errs.modify 6 fun n => satAdd n 1 0xFFFF }
      let s := (emitFrame (s.setLink l lk) l fr).observe {
        ev := 0x42, part := txPart x, kind := 7, src := l, payload := packFields [(psn.toNat, 0, 32), (fr.jobId.toNat, 32, 32)] }
      s.observe { ev := 0x40, part := txPart x, kind := 7, src := l, count := fr.payload.length }

/-- One reliable frame sent for the first time: it takes the session's next PSN. -/
def sendNew (s : State) (l : Nat) (x : TxFrame) : State :=
  match sealFrame s l { x.fr with psn := (s.link l).psn } with
  | none => s
  | some (s, fr) =>
    let lk := s.link l
    let lk := { lk with
      txq := lk.txq.erase x, psn := lk.psn + 1
      unacked := lk.unacked ++ [{ x with fr := { x.fr with psn := fr.psn }, sentAt := s.time, sends := 1 }] }
    (emitFrame (s.setLink l lk) l fr).observe { ev := 0x40, part := txPart x, kind := 7, src := l, count := fr.payload.length }

def sendMany (l : Nat) : Nat → State → State
  | 0, s => s
  | n + 1, s =>
    match pickTx s l with
    | none => s
    | some (x, old) =>
      let s := if old then resend s l x.fr.psn else sendNew s l x
      sendMany l n (s.setLink l { s.link l with lastPart := x.part })

/-- Held frames of the fabric key sent. -/
def sendHeldCtl (s : State) (l : Nat) : State :=
  let lk := s.link l
  lk.ctlq.foldl (fun s fr => sendCtl s l fr.ftype fr.flags fr.psn fr.payload) (s.setLink l { lk with ctlq := [] })

/-- Everything a link can send: held frames of the fabric key ahead of all others, then in READY retransmissions and new
frames (R378, R379). -/
def pumpLink (s : State) (l : Nat) : State :=
  let s := if (s.link l).ctlq.isEmpty then s else sendHeldCtl s l
  let lk := s.link l
  if lk.st ≠ 5 then s else sendMany l (lk.txq.length + (lk.unacked.filter TxFrame.again).length) s

/-- A reliable frame queued on a link for a partition (64: none). -/
def queueFrame (s : State) (l part : Nat) (fr : Frame) : State :=
  let lk := s.link l
  pumpLink (s.setLink l { lk with txq := lk.txq ++ [{ part := part, fr := fr }] }) l

/-- The retransmission timeout of a frame, in ticks of the time base (R376). -/
def timeoutOf (lk : Link) (x : TxFrame) : Nat :=
  let first := match lk.srtt with
    | none => 100000
    | some r => max 20000 (2 * r + 10000)
  min 10000000 (first * 2 ^ x.timeouts)

/-- Whether `n` ticks have passed since a stamp. -/
def State.since (s : State) (t : BitVec 64) (n : Nat) : Bool := decide (n ≤ (s.time - t).toNat)

/-- The rate lowered to 7/8 at most once per 20 µs, and never below 1 GB/s (R378). -/
def slowLink (s : State) (l : Nat) : State :=
  let lk := s.link l
  if lk.lastCut.any fun t => !s.since t 20000 then s
  else s.setLink l { lk with rate := max 1000 (lk.rate * 7 / 8), lastCut := some s.time, lastRate := s.time }

/-! #### Sessions and states (R362, R363, R373) -/

/-- A LINK_TRAIN that waited ends with a status (R363). -/
def endTrain (s : State) (l : Nat) (status : Nat) : State :=
  let lk := s.link l
  match lk.train with
  | none => s
  | some r =>
    let s := s.setLink l { lk with train := none }
    if status = 0 then succeed s r (BitVec.ofNat 64 lk.trainErrs) (BitVec.ofNat 64 lk.trainBits) else refuseCmd s r status

/-- A link that leaves READY: its session's receive side and frames are dropped, but a rope link keeps what it had not
had acknowledged (R401); collectives that use it stop with NOT_READY (R395). -/
def endSession (s : State) (l : Nat) (st : BitVec 3) (cause : BitVec 3) : State :=
  let lk := s.link l
  let wasReady := lk.st = 5
  let lk := { lk with
    st := st, failCause := cause, version := 0, timeValid := false, helloSeen := none, got := [], sinceAck := 0
    early := [], srtt := none, ctlq := []
    txq := if lk.rope then lk.txq else [], unacked := if lk.rope then lk.unacked else [] }
  let s := s.setLink l lk
  if wasReady then
    { s with lnk := { s.lnk with engines := NMap.mapVals {} (fun _ e =>
        if e.busy && e.ends.isNone && e.linkMask.getLsbD l then { e with ends := some 0x15 } else e) s.lnk.engines } }
  else s

/-- A link fails (R362); a LINK_TRAIN in progress on it ends with NOT_READY. -/
def failLink (s : State) (l : Nat) (cause : BitVec 3) : State := endTrain (endSession s l 7 cause) l 0x15

/-- The session opens (R373, R374, R378). -/
def openSession (s : State) (l : Nat) : State :=
  let lk := s.link l
  let s := s.setLink l { lk with
    st := 5, version := 1, failCause := 0, rate := payloadRate s, psn := 0, cum := 0, got := [], sinceAck := 0
    txq := if lk.rope then lk.unacked.map (fun x => { part := x.part, fr := x.fr }) ++ lk.txq else []
    unacked := [], srtt := none, lastCut := none, lastRate := s.time, echoAt := s.time, lastCnp := none, early := []
    timeValid := false, berAlarm := false }
  endTrain (pumpLink s l) l 0

/-- A HELLO (R373). -/
def sendHello (s : State) (l : Nat) : State :=
  let reply := (s.link l).helloSeen.isSome
  sendCtl (s.setLink l { s.link l with helloAt := s.time }) l tHello (if reply then 4 else 0) 0 [1, 1, 0x00, 0x10, BitVec.ofNat 8 l, 0, 0, 0]

/-- Negotiation begins; without a fabric key the link fails at once (R373). -/
def negotiate (s : State) (l : Nat) : State :=
  let lk := s.link l
  let s := s.setLink l { lk with st := 4, helloSeen := none, negStart := s.time }
  if (s.job 0).any fun j => j.key0.isSome || j.key1.isSome then sendHello s l else failLink s l 6

/-! #### Receiving (R372, R375-R377) -/

/-- One more in a counter of LNK_ERR (R385). -/
def countErr (s : State) (l k : Nat) : State :=
  let lk := s.link l
  s.setLink l { lk with errs := lk.errs.modify k fun n => satAdd n 1 0xFFFF }

/-- The first check of R372 that a frame fails, as its counter's place in LNK_ERR. DEDUCED (log 31): JOB_ID other than 0 in a frame
of the fabric key, the reserved bytes of a HELLO, and JOB_ID 0 in DATA on a link that is no rope link (R400), fall under
check 3. -/
def rxCheck (s : State) (l : Nat) (fr : Frame) : Option Nat :=
  let lk := s.link l
  let ctl := fr.ftype = tAck || fr.ftype = tCnp || fr.ftype = tHello || fr.ftype = tEcho
  if !fr.fcsOk then some 0
  else if !peerFrame lk fr.outer || decide (4096 < fr.payload.length) || fr.len.toNat ≠ fr.payload.length then some 1
  else if (fr.ftype ≠ tHello && fr.ver ≠ lk.version) || fr.ftype = 0 || decide (6 < fr.ftype.toNat) ||
      fr.flags.toNat / 8 ≠ 0 || fr.resv ≠ 0 || (ctl && fr.jobId ≠ 0) ||
      (fr.ftype = tData && fr.jobId = 0 && !lk.rope) || (fr.ftype = tHello && (fr.payload.drop 5).any (· ≠ 0)) then some 2
  else
    match (s.job fr.jobId).bind fun j => j.key (fr.flags.getLsbD 0) with
    | none => some 3
    | some k => if frameTag k fr ≠ fr.tag then some 4 else none

/-- Whether a link receives frames at all. -/
def Link.listens (lk : Link) : Bool := lk.st = 3 || lk.st = 4 || lk.st = 5

/-- The bitmap of an ACK (R375). -/
def ackBitmap (lk : Link) : List Byte :=
  leBytes (packFields (lk.got.filterMap fun p =>
    let d := (p - lk.cum).toNat
    if d < 256 then some (1, d, 1) else none)) 32

def sendAck (s : State) (l : Nat) : State :=
  let lk := s.link l
  sendCtl (s.setLink l { lk with sinceAck := 0 }) l tAck 0 lk.cum (ackBitmap lk)

/-- The window moved past every PSN received in order. -/
def slideCum : Nat → BitVec 32 → List (BitVec 32) → BitVec 32 × List (BitVec 32)
  | 0, c, got => (c, got)
  | n + 1, c, got => if got.contains c then slideCum n (c + 1) (got.filter (· ≠ c)) else (c, got)

/-- An accepted frame's ECN mark: counted, and a CNP at most once per 20 µs (R377). -/
def noteCe (s : State) (l : Nat) (fr : Frame) (part : Option Nat) : State :=
  let lk := s.link l
  if !markedCe lk fr.outer then s
  else
    let s := (countErr s l 7).observe { ev := 0x43, part := part, kind := 7, src := l }
    let lk := s.link l
    match lk.lastCnp with
    | some t => if !s.since t 20000 then s
      else sendCtl (s.setLink l { lk with lastCnp := some s.time }) l tCnp 0 0 []
    | none => sendCtl (s.setLink l { lk with lastCnp := some s.time }) l tCnp 0 0 []

/-- Counting of an accepted frame. -/
def accepted (s : State) (l : Nat) (fr : Frame) : State :=
  let part := jobPart s fr.jobId
  noteCe (s.observe { ev := 0x41, part := part, kind := 7, src := l, count := fr.payload.length }) l fr part

/-- A reliable frame that has passed checks 1-5 meets the receive window (R375): the state with its acknowledgement
sent, and whether the frame is new and accepted. -/
def rxWindow (s : State) (l : Nat) (fr : Frame) : State × Bool :=
  let lk := s.link l
  let d := (fr.psn - lk.cum).toNat
  if d < 256 && !lk.got.contains fr.psn then
    let gap := fr.psn ≠ lk.cum
    let (c, got) := slideCum 257 lk.cum (fr.psn :: lk.got)
    let s := s.setLink l { lk with
      cum := c, got := got, sinceAck := lk.sinceAck + 1, ackSince := if lk.sinceAck = 0 then s.time else lk.ackSince }
    let s := accepted s l fr
    (if gap || decide (16 ≤ (s.link l).sinceAck) then sendAck s l else s, true)
  else if d < 256 || decide (2 ^ 32 - 256 ≤ d) then (sendAck (countErr s l 5) l, false)
  else (countErr s l 5, false)

/-! #### Rows of the links' own events -/

/-- R375: 2 µs after the first unacknowledged frame. -/
def execAckTimer (l : Nat) (s : State) : Host.Outcome State Fault Refusal :=
  let lk := s.link l
  .next (if lk.st = 5 && decide (0 < lk.sinceAck) && s.since lk.ackSince 2000 then sendAck s l else s)

/-- Whether an ACK acknowledges a PSN. -/
def acks (fr : Frame) (psn : BitVec 32) : Bool :=
  let d := (psn - fr.psn).toNat
  if decide (2 ^ 31 ≤ d) then true
  else decide (d < 256) && bitOf (leNat (fr.payload.take 32)) d

/-- SRTT after one sample (R376). -/
def srttStep (old : Option Nat) (sample : Nat) : Option Nat := some ((7 * old.getD 20000 + sample) / 8)

/-- R376: an ACK frees what it acknowledges, samples the round trip, and has missing frames sent again. -/
def execAck (l : Nat) (fr : Frame) (s : State) : Host.Outcome State Fault Refusal :=
  if !(s.link l).listens then .next s
  else
    match rxCheck s l fr with
    | some k => .next (countErr s l k)
    | none =>
      if fr.ftype ≠ tAck || (s.link l).st ≠ 5 then .next s
      else
        let s := accepted s l fr
        let lk := s.link l
        let freed := lk.unacked.filter fun x => acks fr x.fr.psn
        let srtt := freed.foldl (fun r x => if x.sends = 1 then srttStep r (s.time - x.sentAt).toNat else r) lk.srtt
        let kept := lk.unacked.filter fun x => !acks fr x.fr.psn
        let s := s.setLink l { lk with srtt := srtt, unacked := kept }
        let bm := leNat (fr.payload.take 32)
        let missing := kept.filter fun x =>
          let d := (x.fr.psn - fr.psn).toNat
          decide (d < 256) && decide (3 ≤ popCount (bm >>> (d + 1)) 256) &&
            (decide (x.sends ≤ 1) || decide (srtt.getD 20000 ≤ (s.time - x.sentAt).toNat))
        let s := missing.foldl (fun s x => resend s l x.fr.psn) s
        .next (pumpLink (if missing.isEmpty then s else slowLink s l) l)

/-- R378: a CNP lowers the rate. -/
def execCnp (l : Nat) (fr : Frame) (s : State) : Host.Outcome State Fault Refusal :=
  if !(s.link l).listens then .next s
  else
    match rxCheck s l fr with
    | some k => .next (countErr s l k)
    | none => .next (if fr.ftype ≠ tCnp || (s.link l).st ≠ 5 then s else slowLink (accepted s l fr) l)

/-- R376, R378: the frame's timeout; eight in a row fail the link. A frame held for its key has no timeout running. -/
def execRetransmissionTimeout (l : Nat) (psn : BitVec 32) (s : State) : Host.Outcome State Fault Refusal :=
  let lk := s.link l
  match lk.unacked.find? fun x => x.fr.psn = psn with
  | none => .next s
  | some x =>
    if lk.st ≠ 5 || x.again || !s.since x.sentAt (timeoutOf lk x) then .next s
    else if 7 ≤ x.timeouts then .next (failLink s l 5)
    else
      let lk := { lk with
        rate := max 1000 (lk.rate / 2), lastRate := s.time
        unacked := lk.unacked.map fun y => if y.fr.psn = psn then { y with timeouts := y.timeouts + 1 } else y }
      .next (resend (s.setLink l lk) l psn)

/-- R378: 20 µs without a decrease, counted anew from each increase. -/
def execRateIncrease (l : Nat) (s : State) : Host.Outcome State Fault Refusal :=
  let lk := s.link l
  .next (if lk.st = 5 && s.since lk.lastRate 20000 then
      s.setLink l { lk with rate := min (payloadRate s) (lk.rate + 2000), lastRate := s.time }
    else s)

/-- R373: HELLO in NEGOTIATING and READY. A session that opens on the peer's HELLO with REPLY answers it with one
(DESIGN CHOICE), so that both ends receive one. -/
def execHello (l : Nat) (fr : Frame) (s : State) : Host.Outcome State Fault Refusal :=
  if !(s.link l).listens then .next s
  else
    match rxCheck s l fr with
    | some k => .next (countErr s l k)
    | none =>
      let reply := fr.flags.getLsbD 2
      let lo := fr.payload.getD 0 0
      let hi := fr.payload.getD 1 0
      if fr.ftype ≠ tHello then .next s
      else
      let s := accepted s l fr
      if (s.link l).st = 5 then .next (if reply then s else failLink s l 4)
      else if (s.link l).st ≠ 4 then .next s
      else
        let s := s.setLink l { s.link l with helloSeen := some (lo, hi) }
        if min hi.toNat 1 < max lo.toNat 1 then .next (failLink s l 2)
        else .next (if reply then openSession (sendHello s l) l else s)

/-- R373: every 1 ms in NEGOTIATING; after 1 s without an answer the link fails. -/
def execHelloTimer (l : Nat) (s : State) : Host.Outcome State Fault Refusal :=
  let lk := s.link l
  .next (if lk.st ≠ 4 then s
    else if s.since lk.negStart 1000000000 then failLink s l 4
    else if s.since lk.helloAt 1000000 then sendHello s l else s)

/-- R380: an ECHO is answered with its stamps, or an answer yields RTT and OFFSET. -/
def execEcho (l : Nat) (fr : Frame) (s : State) : Host.Outcome State Fault Refusal :=
  if !(s.link l).listens then .next s
  else
    match rxCheck s l fr with
    | some k => .next (countErr s l k)
    | none =>
      if fr.ftype ≠ tEcho || (s.link l).st ≠ 5 then .next s
      else
        let s := accepted s l fr
        let t1 : Int := leNat (fr.payload.take 8)
        if !fr.flags.getLsbD 2 then
          .next (sendCtl s l tEcho 4 0 (fr.payload.take 8 ++ leBytes s.time.toNat 8 ++ leBytes s.time.toNat 8))
        else
          let t2 : Int := leNat ((fr.payload.drop 8).take 8)
          let t3 : Int := leNat ((fr.payload.drop 16).take 8)
          let t4 : Int := s.time.toNat
          .next (s.setLink l { s.link l with
            rtt := BitVec.ofInt 24 ((t4 - t1) - (t3 - t2)), offset := BitVec.ofInt 32 (((t2 - t1) + (t3 - t4)) / 2), timeValid := true })

/-- R380: every 1 ms in READY an ECHO with its send stamp. -/
def execEchoTimer (l : Nat) (s : State) : Host.Outcome State Fault Refusal :=
  let lk := s.link l
  .next (if lk.st = 5 && s.since lk.echoAt 1000000 then
      sendCtl (s.setLink l { lk with echoAt := s.time }) l tEcho 0 0 (leBytes s.time.toNat 8)
    else s)

/-- R365: an estimate of a lane (errors, bits) above 1e-5 sets BER_ALARM. -/
def execBerEstimate (l : Nat) (lanes : List (Nat × Nat)) (s : State) : Host.Outcome State Fault Refusal :=
  let lk := s.link l
  .next (if (lk.st = 3 || lk.st = 4 || lk.st = 5) && lanes.any fun x => decide (x.2 < 100000 * x.1) then
      s.setLink l { lk with berAlarm := true }
    else s)

/-- R365: loss of PHY lock in service. -/
def execLossOfPhyLock (l : Nat) (s : State) : Host.Outcome State Fault Refusal :=
  let lk := s.link l
  .next (if lk.st = 3 || lk.st = 4 || lk.st = 5 then failLink s l 7 else s)

end Sys2Proof.Machine
end

