-- ==== Sys2Proof/Machine/Rope.lean ====
section
/-! DEFINITION. The roped pair: rope records, mirror epochs, staging and the journal (spec/14_roped_pair.md R396-R420). -/

namespace Sys2Proof.Machine

/-- The rope links' numbers (R396). -/
def ropeLinks : List Nat := [60, 61, 62, 63]

/-! #### Sending (R399, R401) -/

/-- The payload of a rope record. -/
def ropePayload (s : State) (kind mepoch seq arg : Nat) (data : List Byte) : List Byte :=
  leBytes s.rope.epoch.toNat 8 ++ leBytes mepoch 8 ++ leBytes kind 4 ++ leBytes seq 4 ++ leBytes arg 8 ++ data

/-- JOURNAL and ACK records go ahead of all others. -/
def ropePrior (x : TxFrame) : Bool := let k := (x.fr.payload.getD 16 0).toNat; k == 3 || k == 6

/-- A rope frame queued on one link. -/
def ropeQueue (s : State) (l : Nat) (x : TxFrame) : State :=
  let lk := s.link l
  let q := if ropePrior x then lk.txq.filter ropePrior ++ [x] ++ lk.txq.filter (fun y => !ropePrior y) else lk.txq ++ [x]
  pumpLink (s.setLink l { lk with txq := q }) l

/-- A rope record queued on one link. -/
def ropeSendOn (s : State) (l kind mepoch seq arg : Nat) (data : List Byte) : State :=
  let x : TxFrame := { part := 64, fr := mkFrame tData 0 0 0 (ropePayload s kind mepoch seq arg data) }
  ropeQueue s l x

/-- The next READY rope link in rotation; where none is READY the record waits on the link whose turn it is. -/
def ropeTurn (s : State) : Nat :=
  match (List.range 4).find? fun d => (s.link (60 + (s.rope.turn + d) % 4)).st = 5 with
  | some d => (s.rope.turn + d) % 4
  | none => s.rope.turn % 4

/-- A rope record sent on the rope links in rotation. -/
def ropeSend (s : State) (kind mepoch seq arg : Nat) (data : List Byte) : State :=
  let n := ropeTurn s
  ropeSendOn { s with rope := { s.rope with turn := (n + 1) % 4 } } (60 + n) kind mepoch seq arg data

/-- A record sent on every rope link. -/
def ropeSendAll (s : State) (kind arg : Nat) : State := ropeLinks.foldl (fun s l => ropeSendOn s l kind 0 0 arg []) s

/-! #### Pair state -/

/-- LNK_STATUS.ROPE of links 60-63. -/
def setRopeBits (s : State) (on : Bool) : State := ropeLinks.foldl (fun s l => s.setLink l { s.link l with rope := on }) s

/-- The pair state dropped: UNPAIRED, held writes released; the held epoch, the journal window and the mirrored memory
stay (R416). -/
def unpair (s : State) : State :=
  let s := setRopeBits s false
  { s with
    rope := { s.rope with
      st := 0, ackOverdue := false, awaiting := false, journal := [], placed := [], stagedState := [], endCount := [], cmd := none }
    mem := { s.mem with dirty := [], mirrors := NMap.mapVals {} (fun _ e => { e with live := false }) s.mem.mirrors } }

/-- A ROPE_FORM that ends without a pair (R398). -/
def formFails (s : State) (status : Nat) (refusal : BitVec 3) : State :=
  match s.rope.cmd with
  | some r => let s := unpair s; refuseCmd { s with rope := { s.rope with refusal := refusal } } r status
  | none => s

/-- The pair forms: epoch 1 opens, journal indices start at 0 (R398, R403, R405). A FORM goes out once more, so that a
partner that began to form later receives one (DESIGN CHOICE). -/
def formPair (s : State) : State :=
  let s := ropeSendAll s 1 (b2n s.rope.second)
  let cmd := s.rope.cmd
  let s := { s with
    rope := { s.rope with
      st := if s.rope.second then 3 else 2, cmd := none, refusal := 0, ackOverdue := false, lastHeard := s.time, open_ := 1, done := 0
      jFirst := 0, jNext := 0, journal := [], window := [], windowIdx := [], awaiting := false, cutAt := s.time, image := []
      placed := [], stagedState := [], endCount := [], apply := none }
    mem := { s.mem with mirrors := [], dirty := [] } }
  match cmd with
  | some r => succeed0 s r
  | none => s

/-! #### The journal (R403, R414, R420) -/

/-- Opcodes that are not journaled. -/
def journaled (op : Nat) : Bool :=
  !([0x00, 0x01, 0x02, 0x40, 0x41, 0x42, 0x43, 0x44, 0x50, 0x51, 0x52, 0x53, 0x60, 0x61].contains op)

/-- PF configuration commands (R347): every PF-only opcode, FREEZE, PART_RESET and SCHED_LOAD. -/
def configOp (op : Nat) : Bool :=
  op == 0x02 || op == 0x16 || op == 0x17 || op == 0x18 || (decide (0x20 ≤ op) && decide (op ≤ 0x29)) || op == 0x30 || op == 0x31 ||
    (decide (0x40 ≤ op) && decide (op ≤ 0x44)) || (decide (0x50 ≤ op) && decide (op ≤ 0x53)) || op == 0x60 || op == 0x61

/-- The 128-byte journal record of a command. -/
def journalRecord (e : JournalEntry) (reply : List Byte) (doneEpoch : Nat) (op : Nat) : List Byte :=
  let isDone := !reply.isEmpty
  e.packet ++ (if isDone then reply else List.replicate 32 0) ++ leBytes e.start.toNat 8 ++ leBytes doneEpoch 8 ++
    leBytes (e.cmd.q + 16 * e.cmd.f) 2 ++ leBytes (b2n isDone + 2 * b2n (configOp op)) 1 ++ List.replicate 13 0

/-- A fetched command takes the next journal index on a leader. -/
def journalFetch (s : State) (r : CmdRef) (packet : List Byte) : State :=
  if s.rope.st = 2 && journaled (packet.getD 0 0).toNat then
    { s with rope := { s.rope with
        journal := s.rope.journal ++ [{ index := s.rope.jNext, cmd := r, packet := packet, start := 0 }], jNext := s.rope.jNext + 1 } }
  else s

/-- The leader may fetch no further journaled command (R403). -/
def journalFull (s : State) : Bool :=
  s.rope.st = 2 && (match s.rope.journal with
    | e :: _ => decide (131072 ≤ s.rope.jNext - e.index)
    | [] => false)

/-- The record sent when a journaled command starts. -/
def journalStart (s : State) (r : CmdRef) : State :=
  match s.rope.journal.find? fun e => e.cmd = r with
  | none => s
  | some e =>
    let e := { e with start := s.time }
    let s := { s with rope := { s.rope with journal := s.rope.journal.map fun x => if x.cmd = r then e else x } }
    ropeSend s 3 s.rope.open_ 0 e.index (journalRecord e [] 0 (e.packet.getD 0 0).toNat)

/-- The record sent again when the reply is written. -/
def journalDone (s : State) (r : CmdRef) (reply : List Byte) : State :=
  match s.rope.journal.find? fun e => e.cmd = r with
  | none => s
  | some e =>
    let s := { s with rope := { s.rope with
      journal := s.rope.journal.map fun x => if x.cmd = r then { x with doneEpoch := some s.rope.open_ } else x } }
    ropeSend s 3 s.rope.open_ 0 e.index (journalRecord e reply s.rope.open_ (e.packet.getD 0 0).toNat)

/-- A journal record placed in the second's window: the latest version of each index. -/
def journalPlace (s : State) (idx : Nat) (data : List Byte) : State :=
  let slot := idx % 131072
  let old := NMap.get [] s.rope.window slot
  let oldDone := NMap.get none s.rope.windowIdx slot = some idx && (old.getD 114 0).getLsbD 0
  if oldDone && !(data.getD 114 0).getLsbD 0 then s
  else { s with rope := { s.rope with
      window := NMap.set [] s.rope.window slot data, windowIdx := NMap.set none s.rope.windowIdx slot (some idx), jNext := max s.rope.jNext (idx + 1) } }

/-- ROPE_JOURNAL_FIRST after a failover at epoch `m` (R414): the lowest index not known done by then; the next index
where every record is. -/
def journalFirst (s : State) (m : Nat) : Nat :=
  let open_ := s.rope.windowIdx.filterMap fun e => match e.2 with
    | none => none
    | some i =>
      let d := leNat (((NMap.get [] s.rope.window e.1).drop 104).take 8)
      if d = 0 || decide (m < d) then some i else none
  open_.min?.getD s.rope.jNext

/-! #### The state image (R404; its layout is the model's: DESIGN CHOICE) -/

/-- Anchored line ranges (partition, first line, lines), from lines in increasing order. -/
def anchoredRanges : List (Nat × SLine) → List (Nat × Nat × Nat)
  | [] => []
  | (ln, l) :: rest =>
    match l.anchored with
    | none => anchoredRanges rest
    | some p =>
      match anchoredRanges rest with
      | (p', b, n) :: rs => if p' = p && b = ln + 1 then (p, ln, n + 1) :: rs else (p, ln, 1) :: (p', b, n) :: rs
      | [] => [(p, ln, 1)]

def rectBytes : Option Rect → List Byte
  | some r => leBytes r.x0 1 ++ leBytes r.x1 1 ++ leBytes r.y0 1 ++ leBytes r.y1 1
  | none => List.replicate 4 0

/-- The slots a partition owns (R276). -/
def ownedSlots (s : State) (p : Nat) : Nat := packFields ((List.range 64).map fun k => (b2n (NMap.get 0x40 s.spine.slots k = p), k, 1))

/-- 512 bytes of one partition: rectangles, slots, token and quota values, allocation table. -/
def partImage (s : State) (p : Nat) : List Byte :=
  let x := s.part p
  let q := NMap.get {} s.mem.partq p
  let t := NMap.get {} s.spine.tokens p
  let head := leBytes (b2n (x.st ≠ .absent) + 2 * b2n x.f0.isSome + 4 * b2n x.f1.isSome + 8 * b2n t.unregulated) 1 ++ rectBytes x.f0 ++
    rectBytes x.f1 ++ leBytes (ownedSlots s p) 8 ++ leBytes t.rate.toNat 2 ++ leBytes t.burst.toNat 2 ++ leBytes q.allocMask.toNat 2 ++
    leBytes q.anchorMask.toNat 2 ++ leBytes q.entryQuota 2
  let al := (List.range 16).flatMap fun e =>
    let a := NMap.get {} x.allocs e
    leBytes a.basePage 8 ++ leBytes a.pages 7 ++ leBytes a.typ.toNat 1
  head ++ List.replicate (64 - head.length) 0 ++ al ++ List.replicate 192 0

def stateImage (s : State) : List Byte :=
  (List.range 64).flatMap (partImage s) ++
  ((List.range 64).flatMap fun e =>
    let r := NMap.get {} s.mem.regions e
    leBytes r.base2m 4 ++ leBytes r.size2m 4 ++ leBytes r.interleave.toNat 1 ++ leBytes r.folio 1 ++ leBytes r.chanBase 1 ++
      leBytes r.chanLog2 1 ++ leBytes (b2n r.valid) 4) ++
  ((List.range 16).flatMap fun e =>
    let r := NMap.get {} s.mem.raws e
    leBytes r.base2m 4 ++ leBytes r.size2m 4 ++ leBytes (b2n r.valid) 8) ++
  ((List.range 16).flatMap fun e =>
    let r := NMap.get {} s.mem.mirrors e
    leBytes r.base2m 4 ++ leBytes r.size2m 4 ++ leBytes (b2n r.valid + 2 * b2n r.synced) 8) ++
  leBytes s.mem.anchorWays 16 ++
  let rs := anchoredRanges s.mem.lines
  leBytes rs.length 16 ++ rs.flatMap fun r => leBytes r.1 4 ++ leBytes r.2.1 6 ++ leBytes r.2.2 6

/-- Chunks of up to 2,048 bytes with their offsets. -/
def chunksOf (n : Nat) : Nat → Nat → List Byte → List (Nat × List Byte)
  | 0, _, _ => []
  | f + 1, off, bs => if bs.isEmpty then [] else (off, bs.take n) :: chunksOf n f (off + n) (bs.drop n)

/-! #### Cuts on the leader (R405-R408) -/

/-- Numbers in increasing order. -/
def sortNats (l : List Nat) : List Nat :=
  let insert (x : Nat) (l : List Nat) : List Nat := l.takeWhile (· < x) ++ x :: l.dropWhile (· < x)
  l.foldr insert []

/-- Mirrored entries in increasing address order. -/
def entriesByBase (l : NMap MirrorEntry) : NMap MirrorEntry :=
  let insert (x : Nat × MirrorEntry) (l : NMap MirrorEntry) : NMap MirrorEntry :=
    l.takeWhile (fun y => decide (y.2.base2m < x.2.base2m)) ++ x :: l.dropWhile (fun y => decide (y.2.base2m < x.2.base2m))
  l.foldr insert []

/-- Pages of unsynced entries in increasing address order: those copied before and dirty again, then those not copied yet. -/
def unsyncedPages (m : MemSys) : List Nat :=
  (entriesByBase (m.mirrors.filter fun e => e.2.valid && e.2.live && !e.2.synced)).flatMap fun e =>
    let lo := e.2.base2m * 512
    NMap.keysWhere (fun p _ => decide (lo ≤ p) && decide (p < lo + e.2.pos)) m.dirty ++
      (List.range (e.2.size2m * 512 - e.2.pos)).map fun i => lo + e.2.pos + i

/-- The copy set of a cut (R407). -/
def copySet (m : MemSys) : List Nat :=
  let first := NMap.keysWhere (fun p _ => match m.mirrorOf (p * 4096) with | some e => e.synced | none => false) m.dirty
  first ++ (unsyncedPages m).take (ropeLimit - first.length)

/-- Pages that hold a line in OWN (R406). -/
def ownedPages (m : MemSys) : List Nat :=
  (NMap.keysWhere (fun _ l => match l.dir with | .own _ => true | _ => false) m.lines).map fun ln => ln / 32

/-- The dirty set of the new epoch and the entries after a cut that copies `set`. -/
def afterCut (m : MemSys) (set : List Nat) : MemSys :=
  let m1 := { m with
    dirty := m.dirty.filter fun p => !set.contains p.1
    mirrors := NMap.mapVals {} (fun _ e =>
      if e.valid && e.live && !e.synced then
        let lo := e.base2m * 512
        let pos := e.pos + (set.filter fun p => decide (lo + e.pos ≤ p) && decide (p < lo + e.size2m * 512)).length
        let left := m.dirty.any fun p => decide (lo ≤ p.1) && decide (p.1 < lo + e.pos) && !set.contains p.1
        { e with pos := pos, syncing := pos == e.size2m * 512 && !left }
      else { e with live := e.valid }) m.mirrors }
  (ownedPages m1).foldl (fun m p => m.markDirty (p * 4096)) m1

/-- PAGE records of a copy set, from SEQ `n` on. -/
def sendPages (e : Nat) : List Nat → Nat → State → State
  | [], _, s => s
  | a :: as, n, s =>
    let (m, bs, _) := uncachedRead s.mem s.time 0xFFFF a 2048
    sendPages e as (n + 1) (ropeSend { s with mem := m } 2 e n a bs)

def sendState (e : Nat) : List (Nat × List Byte) → Nat → State → State
  | [], _, s => s
  | (o, bs) :: rest, n, s => sendState e rest (n + 1) (ropeSend s 4 e n o bs)

/-- R405-R408: the cut of the open epoch on a leader, 1 ms after the one before or once 1 GiB of synced pages is dirty, and once the
one before has been acknowledged. -/
def execCut (s : State) : Host.Outcome State Fault Refusal :=
  if s.rope.st ≠ 2 || s.rope.awaiting || !(s.since s.rope.cutAt 1000000 || decide (ropeLimit ≤ s.mem.syncedDirty)) then .next s
  else
    let e := s.rope.open_
    let set := copySet s.mem
    let halves := (sortNats set).flatMap fun p => [p * 4096, p * 4096 + 2048]
    let img := stateImage s
    let old := s.rope.image
    let chunks := (chunksOf 2048 (img.length / 2048 + 1) 0 img).filter fun c => e = 1 || ByteMap.read old c.1 c.2.length ≠ c.2
    let s := { s with
      mem := afterCut s.mem set
      rope := { s.rope with open_ := e + 1, awaiting := true, cutAt := s.time, image := ByteMap.write [] 0 img } }
    let s := sendPages e halves 0 s
    let s := sendState e chunks halves.length s
    .next (ropeSend s 5 e (halves.length + chunks.length) (halves.length + chunks.length) [])

/-- R411: no ACK 10 ms after a cut. -/
def execAckOverdue (s : State) : Host.Outcome State Fault Refusal :=
  .next (if s.rope.st = 2 && s.rope.awaiting && s.since s.rope.cutAt 10000000 then { s with rope := { s.rope with ackOverdue := true } } else s)

/-! #### Receiving (R400, R409) -/

/-- Base of the staging half of an epoch (R409). -/
def stagingBase (e : Nat) : Nat := 0x005F80000000 + e % 2 * 0x40000000

/-- Whether epoch `e` has arrived whole. -/
def epochWhole (s : State) (e : Nat) : Bool :=
  match NMap.get none s.rope.endCount e with
  | none => false
  | some n => (List.range n).all fun q => s.rope.placed.any fun x => x.1 = e && x.2.2.1 = q

/-- The next epoch acknowledged once it is whole and the apply of the one before has finished (R409). -/
def ropeComplete (s : State) : State :=
  let e := s.rope.done + 1
  if s.rope.st = 3 && s.rope.apply.isNone && epochWhole s e then
    ropeSend { s with rope := { s.rope with done := e, open_ := e + 1, apply := some e } } 6 e 0 e []
  else s

/-- R409: the staged pages copied to their addresses and the STATE bytes merged. -/
def applyEpoch (s : State) : State :=
  match s.rope.apply with
  | none => s
  | some e =>
    let pages := s.rope.placed.filter fun x => x.1 = e && x.2.1 = 2
    let m := pages.foldl (fun m x =>
      let (m, bs, _) := uncachedRead m s.time 0xFFFF (stagingBase e + 2048 * x.2.2.1) 2048
      uncachedWrite m s.time (s.ways 64) x.2.2.2 bs) s.mem
    let img := (s.rope.stagedState.filter fun x => x.1 = e).foldl (fun i x => ByteMap.write i x.2.1 x.2.2) s.rope.image
    { s with
      mem := m
      rope := { s.rope with
        apply := none, image := img, placed := s.rope.placed.filter fun x => x.1 ≠ e
        stagedState := s.rope.stagedState.filter fun x => x.1 ≠ e, endCount := NMap.set none s.rope.endCount e none } }

/-- The mirrored entries as the state image gives them (R419: they read the same on both devices). -/
def mirrorsOfImage (img : ByteMap) : NMap MirrorEntry :=
  (List.range 16).foldl (fun m e =>
    let o := 32768 + 1024 + 256 + 16 * e
    let f := ByteMap.readNat img (o + 8) 1
    NMap.set {} m e {
      base2m := ByteMap.readNat img o 4, size2m := ByteMap.readNat img (o + 4) 4, valid := bitOf f 0, synced := bitOf f 1 }) []

def execEpochApply (s : State) : Host.Outcome State Fault Refusal :=
  if s.rope.st = 3 && s.rope.apply.isSome then
    let s := applyEpoch s
    .next (ropeComplete { s with mem := { s.mem with mirrors := mirrorsOfImage s.rope.image } })
  else .next s

/-- What a device makes of a rope record that has passed R400. -/
def ropeTake (s : State) (kind : Nat) (r : RopeRec) : State :=
  let s := { s with rope := { s.rope with lastHeard := s.time } }
  let e := r.mepoch.toNat
  let place (s : State) : State :=
    if s.rope.st = 3 && decide (s.rope.done < e) && !(s.rope.placed.any fun x => x.1 = e && x.2.2.1 = r.seq.toNat) then
      { s with rope := { s.rope with placed := s.rope.placed ++ [(e, kind, r.seq.toNat, r.arg.toNat)] } }
    else s
  match kind with
  | 1 =>
    if s.rope.st ≠ 1 then s
    else if r.arg.getLsbD 0 = s.rope.second then formFails s 0x15 3
    else formPair s
  | 2 =>
    if s.rope.st = 3 && decide (s.rope.done < e) then
      ropeComplete (place { s with mem := uncachedWrite s.mem s.time (s.ways 64) (stagingBase e + 2048 * r.seq.toNat) r.data })
    else s
  | 3 => if s.rope.st = 3 then journalPlace s r.arg.toNat r.data else s
  | 4 =>
    if s.rope.st = 3 && decide (s.rope.done < e) then
      ropeComplete (place { s with rope := { s.rope with stagedState := s.rope.stagedState ++ [(e, r.arg.toNat, r.data)] } })
    else s
  | 5 =>
    if s.rope.st = 3 && decide (s.rope.done < e) then
      ropeComplete { s with rope := { s.rope with endCount := NMap.set none s.rope.endCount e (some r.arg.toNat) } }
    else s
  | 6 =>
    if s.rope.st = 2 && s.rope.awaiting && r.arg.toNat = s.rope.open_ - 1 then
      let d := r.arg.toNat
      { s with
        rope := { s.rope with
          done := d, awaiting := false, ackOverdue := false
          journal := s.rope.journal.filter fun j => match j.doneEpoch with | some x => decide (d < x) | none => true }
        mem := { s.mem with mirrors := NMap.mapVals {} (fun _ m =>
          if m.syncing then { m with synced := true, syncing := false, pos := m.size2m * 512 } else m) s.mem.mirrors } }
    else s
  | 8 => if s.rope.st = 1 then formFails s 0x15 0 else if s.rope.st ≠ 0 then unpair s else s
  | _ => s

/-- A rope record received on a link: dropped under R400, or taken. -/
def ropeRecv (s : State) (kind : Nat) (r : RopeRec) : State :=
  let stale (s : State) : State := { s with rope := { s.rope with stale := satAdd s.rope.stale 1 0xFFFF } }
  if !(s.link r.link).rope then countErr s r.link 2
  else if kind = 0 || decide (8 < kind) || !r.resvOk then countErr s r.link 2
  else if s.rope.st = 0 || s.rope.st = 4 then stale s
  else if kind = 1 && s.rope.st = 1 && decide (s.rope.epoch.toNat < r.epoch.toNat) then formFails s 0x14 0
  else if r.epoch ≠ s.rope.epoch then stale s
  else ropeTake s kind r

/-- The record in the payload of a DATA frame (R399). -/
def ropeOfFrame (l : Nat) (p : List Byte) : Nat × RopeRec :=
  let f (o n : Nat) : Nat := leNat ((p.drop o).take n)
  let r : RopeRec := {
    link := l, epoch := BitVec.ofNat 64 (f 0 8), mepoch := BitVec.ofNat 64 (f 8 8), seq := BitVec.ofNat 32 (f 20 4)
    arg := BitVec.ofNat 64 (f 24 8), resvOk := f 17 3 == 0 && decide (32 ≤ p.length), data := p.drop 32 }
  (f 16 1, r)

/-- Whether a rope frame would be dropped under R400. -/
def ropeDrops (s : State) (kind : Nat) (r : RopeRec) : Bool :=
  kind == 0 || decide (8 < kind) || !r.resvOk || s.rope.st == 0 || s.rope.st == 4 ||
    (r.epoch != s.rope.epoch && !(kind == 1 && s.rope.st == 1 && decide (s.rope.epoch.toNat < r.epoch.toNat)))

/-! #### Rows of the pair -/

def execForm (r : RopeRec) (s : State) : Host.Outcome State Fault Refusal := .next (ropeRecv s 1 r)
def execPage (r : RopeRec) (s : State) : Host.Outcome State Fault Refusal := .next (ropeRecv s 2 r)
def execJournal (r : RopeRec) (s : State) : Host.Outcome State Fault Refusal := .next (ropeRecv s 3 r)
def execState (r : RopeRec) (s : State) : Host.Outcome State Fault Refusal := .next (ropeRecv s 4 r)
def execEndRecord (r : RopeRec) (s : State) : Host.Outcome State Fault Refusal := .next (ropeRecv s 5 r)
def execRopeAck (r : RopeRec) (s : State) : Host.Outcome State Fault Refusal := .next (ropeRecv s 6 r)
def execBeat (r : RopeRec) (s : State) : Host.Outcome State Fault Refusal := .next (ropeRecv s 7 r)
def execDissolve (r : RopeRec) (s : State) : Host.Outcome State Fault Refusal := .next (ropeRecv s 8 r)

/-- R398: every 1 ms while FORMING a FORM on every rope link; none received within 1 s ends the command. -/
def execFormTimer (s : State) : Host.Outcome State Fault Refusal :=
  .next (if s.rope.st ≠ 1 then s
    else if s.since s.rope.formStart 1000000000 then formFails s 0x15 2
    else if s.since s.rope.formAt 1000000 then ropeSendAll { s with rope := { s.rope with formAt := s.time } } 1 (b2n s.rope.second)
    else s)

/-- R399: 100 µs without another rope frame on a rope link. -/
def execBeatTimer (l : Nat) (s : State) : Host.Outcome State Fault Refusal :=
  .next (if (s.rope.st = 2 || s.rope.st = 3) && (s.link l).rope && s.since (s.link l).lastTx 100000 then ropeSendOn s l 7 0 0 0 [] else s)

/-- R401: what a rope link that left READY had not had acknowledged goes out again on the others. -/
def execRopeResend (l : Nat) (s : State) : Host.Outcome State Fault Refusal :=
  let lk := s.link l
  if !lk.rope || lk.st = 5 || !(ropeLinks.any fun k => (s.link k).st = 5) then .next s
  else
    let again := lk.unacked ++ lk.txq
    let s := s.setLink l { lk with unacked := [], txq := [] }
    let s := { s with rope := { s.rope with resent := satAdd s.rope.resent lk.unacked.length 0xFFFF } }
    .next (again.foldl (fun s x =>
      let n := ropeTurn s
      let s := { s with rope := { s.rope with turn := (n + 1) % 4 } }
      ropeQueue s (60 + n) { part := 64, fr := x.fr }) s)

end Sys2Proof.Machine
end

