-- ==== Sys2Proof/Machine/Coll.lean ====
section
/-! DEFINITION. The collective engines: distributed images, START frames, reductions over rings, movements, feeding from
reduction roots (spec/13_links_and_rope_transport.md R387-R395, spec/09 R266, R267). -/

namespace Sys2Proof.Machine

/-! #### Distributed images (R266, R267) -/

structure DImg where
  fmt : Nat
  ndim : Nat
  gext : List Nat
  grid : List Nat
  coord : List Nat
  shard : List Nat
  gdim : List Nat
  blk : List Nat
  deriving DecidableEq, Repr

def dImg (img : BitVec 512) : DImg :=
  let v := img.toNat
  let nd := bitsOf v 15 13 + 1
  let ng := bitsOf v 17 16 + 1
  { fmt := bitsOf v 12 8, ndim := nd
    gext := (List.range nd).map fun d => bitsOf v (64 + 36 * d + 35) (64 + 36 * d) + 1
    grid := (List.range ng).map fun g => bitsOf v (280 + 12 * g + 11) (280 + 12 * g) + 1
    coord := (List.range ng).map fun g => bitsOf v (328 + 12 * g + 11) (328 + 12 * g)
    shard := (List.range nd).map fun d => bitsOf v (376 + 20 * d + 1) (376 + 20 * d)
    gdim := (List.range nd).map fun d => bitsOf v (376 + 20 * d + 3) (376 + 20 * d + 2)
    blk := (List.range nd).map fun d => bitsOf v (376 + 20 * d + 19) (376 + 20 * d + 4) + 1 }

def DImg.gx (x : DImg) (d : Nat) : Nat := x.gext.getD d 1
def DImg.gr (x : DImg) (g : Nat) : Nat := x.grid.getD g 1
def DImg.at_ (x : DImg) (g : Nat) : Nat := x.coord.getD g 0
def DImg.sh (x : DImg) (d : Nat) : Nat := x.shard.getD d 0
def DImg.gd (x : DImg) (d : Nat) : Nat := x.gdim.getD d 0

/-- The tensor dimension that names grid dimension g. -/
def DImg.dimOn (x : DImg) (g : Nat) : Option Nat := (List.range x.ndim).find? fun d => x.sh d ≠ 0 && x.gd d = g

/-- Devices along the grid dimension that divides tensor dimension d. -/
def DImg.along (x : DImg) (d : Nat) : Nat := if x.sh d = 0 then 1 else x.gr (x.gd d)

/-- B of a block-sharded dimension. -/
def DImg.blockB (x : DImg) (d : Nat) : Nat := ceilDiv (x.gx d) (x.along d)

/-- The coordinate that owns global index n of a sharded dimension (R267). -/
def DImg.ownerOf (x : DImg) (d n : Nat) : Nat :=
  match x.sh d with
  | 1 => n / x.blockB d
  | 2 => n % x.along d
  | 3 => n / x.blk.getD d 1 % x.along d
  | _ => 0

/-- The local extent on this device (R267). -/
def DImg.localExt (x : DImg) (d : Nat) : Nat :=
  let (n, g, q, b) := (x.gx d, x.along d, x.at_ (x.gd d), x.blk.getD d 1)
  match x.sh d with
  | 1 => min (x.blockB d) (n - q * x.blockB d)
  | 2 => ceilDiv (n - q) g
  | 3 => n / (b * g) * b + min b (n % (b * g) - q * b)
  | _ => n

/-- The global index of local index i of dimension d on this device. -/
def DImg.globalIdx (x : DImg) (d i : Nat) : Nat :=
  let (g, q, b) := (x.along d, x.at_ (x.gd d), x.blk.getD d 1)
  match x.sh d with
  | 1 => q * x.blockB d + i
  | 2 => i * g + q
  | 3 => i / b * (b * g) + q * b + i % b
  | _ => i

def DImg.localExts (x : DImg) : List Nat := (List.range x.ndim).map x.localExt
def DImg.globalOf (x : DImg) (l : List Nat) : List Nat := (List.range x.ndim).map fun d => x.globalIdx d (l.getD d 0)

/-- Index of a coordinate, dimension 0 fastest (R255). -/
def linOf : List Nat → List Nat → Nat
  | e :: es, c :: cs => c + e * linOf es cs
  | _, _ => 0

/-- The coordinate along grid dimension g of the devices that own a global coordinate; none: every one. -/
def DImg.homeOf (x : DImg) (n : List Nat) (g : Nat) : Option Nat := (x.dimOn g).map fun d => x.ownerOf d (n.getD d 0)

/-- The refusals of R267: the image itself, its grid, and its local tensor image. A dimension divided by a grid dimension
that the grid does not have is refused too (DESIGN CHOICE). -/
def distBad (img : BitVec 512) (t : TImg) : Bool :=
  let x := dImg img
  let v := img.toNat
  imgKind img != 4 || imgVersion img != 1 || bitsOf v 63 18 != 0 || bitsOf v 511 496 != 0 || decide (6 < x.ndim) ||
  (List.range x.ndim).any (fun d => x.sh d != 0 &&
    (decide (x.grid.length ≤ x.gd d) || (List.range d).any fun d' => x.sh d' != 0 && x.gd d' == x.gd d)) ||
  decide (16384 < listProd x.grid) || (List.range x.grid.length).any (fun g => decide (x.gr g ≤ x.at_ g)) ||
  t.fmt != x.fmt || t.ndim != x.ndim || (List.range x.ndim).any fun d => t.extD d != x.localExt d

/-! #### Wire words (R392) -/

def wV (w : BitVec 256) : Int := sextInt w.toNat 160
def wTag (w : BitVec 256) : BitVec 2 := BitVec.ofNat 2 (bitsOf w.toNat 161 160)
def wLow (w : BitVec 256) : Bool := w.getLsbD 162
def wHigh (w : BitVec 256) : Bool := w.getLsbD 163

def wireOf (v : Int) (tag : BitVec 2) (low high : Bool) : BitVec 256 :=
  BitVec.ofNat 256 (packFields [
    (wrapInt (if tag = 0 then v else 0) 160, 0, 160), (tag.toNat, 160, 2), (b2n low, 162, 1), (b2n high, 163, 1)])

/-- Class tags of a sum (R49). -/
def tagSum (a b : BitVec 2) : BitVec 2 :=
  if a = 3 || b = 3 || (a = 1 && b = 2) || (a = 2 && b = 1) then 3 else if a ≠ 0 then a else b

def wireAdd (a b : BitVec 256) : BitVec 256 :=
  wireOf (wV a + wV b) (tagSum (wTag a) (wTag b)) (wLow a || wLow b) (wHigh a || wHigh b)

/-- A source element as it enters (R392). -/
def wireSource (fmt : Nat) (anchor : Int) (x : Nat) : BitVec 256 :=
  if fmt = 0x12 then let a := XAcc.load (BitVec.ofNat 128 x); wireOf a.w.toInt a.tag false false
  else
    let (a, f) := XAcc.ofValue anchor (decodeElem fmt x [])
    wireOf a.w.toInt a.tag (f &&& flNX ≠ 0) (f &&& flOF ≠ 0)

/-- A sum delivered in a format (R234, R392): bits, rounding flags, and whether it left the X128 range. -/
def deliverBits (fmt : Nat) (rm : RMode) (anchor v : Int) (tag : BitVec 2) : Nat × FFlags × Bool :=
  let ovf := tag == 0 && (decide (v < -(2 ^ 127) + 1) || decide (2 ^ 127 ≤ v))
  if fmt = 0x12 then
    if tag ≠ 0 then (xNanPattern.toNat, flNV, false) else (wrapInt v 128, 0, ovf)
  else
    let x : FVal := if tag = 0 then FVal.ofInt v (anchor - 64) else if tag = 3 then .nan else .inf (tag = 2)
    let (b, f) := encodeElem fmt rm [] 0 x
    (b, f, ovf)

/-! #### The plan of a collective (R390, R391) -/

def Engine.sd (e : Engine) : DImg := dImg e.srcD
def Engine.dd (e : Engine) : DImg := dImg e.dstD
def Engine.st_ (e : Engine) : TImg := tImg e.srcL
def Engine.dt (e : Engine) : TImg := tImg e.dstL
def Engine.reduces (e : Engine) : Bool := decide (e.op ≤ 1)

/-- R: grid dimensions that no tensor dimension of SRC names. -/
def DImg.free (x : DImg) : List Nat := (List.range x.grid.length).filter fun g => (x.dimOn g).isNone

/-- A ring: grid dimension, devices, first step. -/
structure Ring where
  g : Nat
  n : Nat
  first : Nat
  deriving DecidableEq, Repr

def ringsFrom (steps : Nat → Nat) (x : DImg) : Nat → List Nat → List Ring
  | _, [] => []
  | off, g :: gs => if x.gr g ≤ 1 then ringsFrom steps x off gs else ⟨g, x.gr g, off⟩ :: ringsFrom steps x (off + steps (x.gr g)) gs

/-- The rings in order: both phases for an all-reduce, one for the others. -/
def Engine.rings (e : Engine) : List Ring :=
  if e.op = 0 then ringsFrom (fun n => 2 * (n - 1)) e.sd 0 e.sd.free
  else if e.op = 1 then ringsFrom (fun n => n - 1) e.sd 0 e.sd.free
  else ringsFrom (fun n => n - 1) e.sd 0 (List.range e.sd.grid.length)

def Engine.ringSteps (e : Engine) (r : Ring) : Nat := if e.op = 0 then 2 * (r.n - 1) else r.n - 1

/-- The ring of a step: its number among the rings. -/
def Engine.ringOf (e : Engine) (t : Nat) : Option (Nat × Ring) :=
  let rs := e.rings
  (List.range rs.length).findSome? fun k => match rs[k]? with
    | some r => if r.first ≤ t && t < r.first + e.ringSteps r then some (k, r) else none
    | none => none

def Engine.elems (e : Engine) : Nat := listProd e.sd.localExts

/-- The tensor dimension a reduce-scatter divides. -/
def Engine.splitDim (e : Engine) : Nat := ((List.range e.sd.ndim).find? fun d => e.sd.sh d = 0 && e.dd.sh d ≠ 0).getD 0

/-- Chunk c of G of a reduction: local indices in order. -/
def Engine.chunk (e : Engine) (n c : Nat) : List Nat :=
  if e.op = 0 then (List.range ((c + 1) * e.elems / n - c * e.elems / n)).map (c * e.elems / n + ·)
  else
    let d := e.splitDim
    (List.range e.elems).filter fun i => (coordOf e.sd.localExts i).getD d 0 / e.dd.blockB d = c

/-- The chunk that holds a local index. -/
def Engine.chunkOf (e : Engine) (n i : Nat) : Nat :=
  if e.op = 0 then ((i + 1) * n - 1) / e.elems else (coordOf e.sd.localExts i).getD e.splitDim 0 / e.dd.blockB e.splitDim

def Engine.key (e : Engine) (k i : Nat) : Nat := k * e.elems + i

/-- The word of local element i as it enters ring k, of the rings given. -/
def Engine.base (e : Engine) (i : Nat) : Nat → Option (BitVec 256)
  | 0 => NMap.get none e.own i
  | k + 1 =>
    match e.rings[k]? with
    | none => none
    | some r =>
      if e.chunkOf r.n i = e.sd.at_ r.g then
        match Engine.base e i k, NMap.get none e.rs (e.key k i) with
        | some a, some b => some (wireAdd a b)
        | _, _ => none
      else NMap.get none e.ag (e.key k i)

/-- The sum on its owner after the last ring's reduce-scatter, and whether this device is the owner. -/
def Engine.sum (e : Engine) (i : Nat) : Option (BitVec 256) :=
  match e.rings.getLast? with
  | none => NMap.get none e.own i
  | some _ => e.base i e.rings.length

def Engine.owns (e : Engine) (i : Nat) : Bool :=
  match e.rings.getLast? with
  | none => true
  | some r => e.chunkOf r.n i = e.sd.at_ r.g

def Engine.rmode (e : Engine) : RMode := (RMode.ofCode e.dt.rm).getD .rne

/-- A sum delivered to DST: bits and the conditions of R394. -/
def Engine.deliver (e : Engine) (w : BitVec 256) : Nat × BitVec 7 :=
  let (b, f, ovf) := deliverBits e.dt.fmt e.rmode e.st_.anchorScale (wV w) (wTag w)
  (b, BitVec.ofNat 7 (packFields [(b2n (wLow w), 0, 1), (b2n (wHigh w || ovf), 1, 1), (f.toNat, 2, 5)]))

/-- DST bits of local element i of a reduction, once known, with the flags of its rounding on the owner. -/
def Engine.reduced (e : Engine) (i : Nat) : Option (Nat × BitVec 7) :=
  if e.owns i then (e.sum i).map e.deliver
  else (NMap.get none e.ag (e.key (e.rings.length - 1) i)).map fun w => (w.toNat, 0)

/-! Movements: an element is at its source's coordinate in the grid dimensions still to come and at a destination's in
those done. -/

def rootCoord (x : DImg) (root : Nat) : List Nat := coordOf x.grid root

def Engine.srcHome (e : Engine) (n : List Nat) (g : Nat) : Option Nat :=
  if e.op = 3 then some ((rootCoord e.sd e.root).getD g 0) else e.sd.homeOf n g

/-- How far an element goes along ring r from its origin o. -/
def Engine.reach (e : Engine) (n : List Nat) (r : Ring) (o : Nat) : Nat :=
  match e.dd.homeOf n r.g with
  | some t => (t + r.n - o % r.n) % r.n
  | none => r.n - 1

/-- Whether the ring of this device in dimension g carries an element at all. -/
def Engine.inRing (e : Engine) (n : List Nat) (g : Nat) : Bool :=
  (List.range e.sd.grid.length).all fun j =>
    j == g || match (if j < g then e.dd.homeOf n j else e.srcHome n j) with
      | some c => c == e.sd.at_ j
      | none => true

/-- What the device at coordinate q sends at step s of a ring: global indices in increasing order. -/
def Engine.moves (e : Engine) (r : Ring) (q s : Nat) : List Nat :=
  (List.range (listProd e.sd.gext)).filter fun i =>
    let n := coordOf e.sd.gext i
    match e.srcHome n r.g with
    | none => false
    | some o => (q + r.n - o % r.n) % r.n == s && decide (s < e.reach n r o) && e.inRing n r.g

/-- What is sent at step t by the device at coordinate q of its ring, with whether the items are wire words. -/
def Engine.listAt (e : Engine) (t : Nat) (minus : Bool) : List Nat × Bool :=
  match e.ringOf t with
  | none => ([], true)
  | some (k, r) =>
    let q := (e.sd.at_ r.g + (if minus then r.n - 1 else 0)) % r.n
    let s := t - r.first
    if !e.reduces then (e.moves r q s, false)
    else if s < r.n - 1 then (e.chunk r.n ((q + r.n - s - 1) % r.n), true)
    else (e.chunk r.n ((q + r.n - (s - (r.n - 1))) % r.n), k + 1 < e.rings.length)

/-- The item that this device sends at step t, once it is ready. -/
def Engine.itemAt (e : Engine) (t i : Nat) : Option Nat :=
  match e.ringOf t with
  | none => none
  | some (k, r) =>
    let s := t - r.first
    if !e.reduces then NMap.get none e.have_ i
    else if s < r.n - 1 then
      match e.base i k with
      | none => none
      | some a => if s = 0 then some a.toNat else (NMap.get none e.rs (e.key k i)).map fun b => (wireAdd a b).toNat
    else if k + 1 < e.rings.length then (e.base i (k + 1)).map BitVec.toNat
    else (e.reduced i).map Prod.fst

/-- Bits of an item, items of a frame: 128 wire words, or as many elements as 4,096 bytes hold. -/
def Engine.itemBits (e : Engine) (wire : Bool) : Nat := if wire then 256 else e.dt.ebits
def perFrame (w : Nat) : Nat := if w = 256 then 128 else 32768 / w / 8 * 8

/-- A fed chunk goes out once all of it has been fed (R393). -/
def Engine.fedReady (e : Engine) (items : List Nat) : Bool := !e.fed || items.all fun i => (NMap.get none e.own i).isSome

/-- Frame j of step t: offset and payload. -/
def Engine.frameAt (e : Engine) (t j : Nat) : Option (Nat × List Byte) :=
  let (items, wire) := e.listAt t false
  let w := e.itemBits wire
  let n := perFrame w
  let mine := (items.drop (j * n)).take n
  let vals := mine.map fun i => e.itemAt t i
  if vals.any Option.isNone || !e.fedReady (if e.reduces then items else []) then none
  else some (j * n * w / 8, leBytes (packBits (vals.map fun v => (v.getD 0, w))) (packedBytes mine.length w))

/-- Every frame this device sends. -/
def Engine.frames (e : Engine) : List (Nat × Nat) :=
  e.rings.flatMap fun r => (List.range (e.ringSteps r)).flatMap fun s =>
    let (items, wire) := e.listAt (r.first + s) false
    (List.range (ceilDiv items.length (perFrame (e.itemBits wire)))).map fun j => (r.first + s, j)

/-- Links of LINK_MASK. -/
def Engine.links (e : Engine) : List Nat := (List.range 64).filter fun l => e.linkMask.getLsbD l

/-- Links to q + 1 along g. -/
def Engine.plusLinks (e : Engine) (g : Nat) : List Nat :=
  e.links.filter fun l => e.peers.any fun p => p.link = l && p.dim = g && p.plus

/-! #### Engines in the state -/

def State.engine (s : State) (k : Nat) : Engine := NMap.get {} s.lnk.engines k
def State.setEngine (s : State) (k : Nat) (e : Engine) : State := { s with lnk := { s.lnk with engines := NMap.set {} s.lnk.engines k e } }

/-- The running engine of an instance. -/
def engineOf (s : State) (job seq : BitVec 32) : Option Nat :=
  (List.range 16).find? fun k => let e := s.engine k; e.busy && e.job = job && e.seq = seq && decide (1 ≤ e.stage)

/-- A job's entry freed once neither slot is valid and no collective of it runs (R370). -/
def freeJob (s : State) (id : BitVec 32) : State :=
  match s.job id with
  | none => s
  | some j =>
    if id = 0 || j.key0.isSome || j.key1.isSome || s.lnk.engines.any (fun e => e.2.busy && e.2.job = id) then s
    else { s with lnk := { s.lnk with jobs := s.lnk.jobs.filter fun j => j.id ≠ id } }

/-- Frames of a step sent as soon as their elements are ready, once every link's START has come (R389, R391). -/
def collSend (s : State) (k : Nat) : State :=
  let e := s.engine k
  if e.ends.isSome || e.stage ≠ 2 || !(e.links.all fun l => e.peers.any fun p => p.link = l) then s
  else
    (e.frames.filter fun x => !e.sent.contains x).foldl (fun s x =>
      match (s.engine k).frameAt x.1 x.2, e.ringOf x.1 with
      | some (off, bs), some (_, r) =>
        let ls := e.plusLinks r.g
        match ls[x.2 % max 1 ls.length]? with
        | none => s
        | some l =>
          let fr := { mkFrame tData 0 e.job 0 bs with collSeq := e.seq, step := BitVec.ofNat 16 x.1, offset := BitVec.ofNat 64 off }
          let s := s.setEngine k { s.engine k with sent := (s.engine k).sent ++ [x] }
          queueFrame s l e.part fr
      | _, _ => s) s

/-- Global indices of DST's local elements, or, for a reduction, their SRC local indices, by DST local index. -/
def Engine.dstItem (e : Engine) (i : Nat) : Nat :=
  let c := e.dd.globalOf (coordOf e.dd.localExts i)
  if !e.reduces then linOf e.dd.gext c
  else if e.op = 0 then i
  else linOf e.sd.localExts ((List.range e.sd.ndim).map fun d =>
    if d = e.splitDim then c.getD d 0 else (coordOf e.dd.localExts i).getD d 0)

def Engine.dstCount (e : Engine) : Nat := listProd e.dd.localExts

/-- DST bits of DST's local element i, once known. -/
def Engine.dstBits (e : Engine) (i : Nat) : Option (Nat × BitVec 7) :=
  if e.reduces then e.reduced (e.dstItem i) else (NMap.get none e.have_ (e.dstItem i)).map fun x => (x, 0)

/-- Whether a request of engine k must wait: for its line, its turn at the slice, or a token (R277, R281, R292). -/
def engineHeld (s : State) (k a n : Nat) (write : Bool) : Bool :=
  match rangeOf a with
  | .dram | .spine =>
    s.mem.lineBusy (a / 128) || !s.inTurn (a / 128) (·.requester == engineRequester k) || (write && s.mem.ropeHolds a) ||
      !hasTokens s (engineRequester k) (partOpt (s.engine k).part) 1
  | _ => accessHeld s a n write

/-- A request of engine k leaves. -/
def engineSend (s : State) (k a : Nat) : State :=
  if spineSectors a = 0 then s else (spendTokens s (engineRequester k) (partOpt (s.engine k).part) 1).takeTurn (a / 128)

/-- DST elements written in order; `last` is the sector of the write before, which needs no request of its own. -/
def collPut (k : Nat) : Option Nat → List Nat → State → State
  | _, [], s => s
  | last, i :: is, s =>
    let e := s.engine k
    match e.dstBits i with
    | none => collPut k last is s
    | some (x, fl) =>
      let w := e.dt.writeAt (coordOf e.dd.localExts i) x
      let a := w.1 / 8
      let more := last == some (a / 32)
      if !more && engineHeld s k a (bitSpan w).2 true then collPut k last is s
      else
        let s := if more then s else engineSend s k a
        let s := s.setEngine k { s.engine k with written := e.written ++ [i], flags := e.flags ||| fl }
        collPut k (some (a / 32)) is (putAll s (2 ^ 20 + k) e.part [w]).s

/-- DST elements that are known written (R395). -/
def collWrite (s : State) (k : Nat) : State :=
  let e := s.engine k
  if e.ends.isSome || e.stage ≠ 2 then s
  else collPut k none ((List.range e.dstCount).filter fun i => !e.written.contains i) s

/-- Source pieces read in order as far as requests may go; each lies in one sector, and `last` is the sector read before with its
bytes. Data that comes in error is used as it stands (DESIGN CHOICE, log 31). -/
def collRead (k : Nat) : Option (Nat × List Byte) → List (Nat × Nat) → State → State
  | _, [], s => s
  | last, (a, n) :: rs, s =>
    let e := s.engine k
    let take (s : State) (bs : List Byte) : State := s.setEngine k { s.engine k with srcBytes := e.srcBytes ++ bs, srcPos := e.srcPos + 1 }
    match last.filter fun x => x.1 = a / 32 with
    | some (_, bs) => collRead k last rs (take s ((bs.drop (a % 32)).take n))
    | none =>
      if engineHeld s k a n false then s
      else
        let s := engineSend s k a
        if spineSectors a = 0 then
          let (s, bs, _) := engineRead s e.part a n
          collRead k none rs (take s bs)
        else
          let (s, bs, _) := engineRead s e.part (a / 32 * 32) 32
          collRead k (some (a / 32, bs)) rs (take s ((bs.drop (a % 32)).take n))

/-- Memory pieces of the local source elements in order, and the bits of each. -/
def Engine.srcItems (e : Engine) : List LoadItem :=
  (List.range e.elems).map fun i =>
    let c := coordOf e.sd.localExts i
    let (row, bp) := e.st_.elemAt c
    ⟨some (8 * row + bp), false, c⟩

/-- The engine with the source elements that `bs` holds. -/
def Engine.fill (e : Engine) (bs : List Byte) : Engine :=
  let vals := itemVals e.st_ e.srcItems bs
  let idx := List.range vals.length
  let bit (i : Nat) : Nat := ((vals[i]?).bind Prod.snd).getD 0
  if e.reduces then
    { e with stage := 2, own := idx.foldl (fun m i => NMap.set none m i (some (wireSource e.st_.fmt e.st_.anchorScale (bit i)))) [] }
  else if e.op = 3 && e.sd.coord ≠ rootCoord e.sd e.root then { e with stage := 2 }
  else
    { e with
      stage := 2
      have_ := idx.foldl (fun m i => NMap.set none m (linOf e.sd.gext (e.sd.globalOf (coordOf e.sd.localExts i))) (some (bit i))) e.have_ }

/-- A source that is not awaited from the host is read once nothing holds it; a fed one needs no reading. -/
def collSource (s : State) (k : Nat) : State :=
  let e := s.engine k
  if e.stage ≠ 1 || e.ends.isSome || s.hostReads.any (fun h => h.kind = .command e.cmd) then s
  else if e.fed then s.setEngine k { e with stage := 2 }
  else
    let segs := itemSegs e.st_ e.srcItems
    if segs.any fun r => rangeOf r.1 = .hostWin then
      sendHostRead s (hostFn e.part) (segs.map fun r => (r.1 - hostBase, r.2)) (.command e.cmd)
    else
      let pieces := segs.flatMap fun r => cutRange 2 r.1 r.2
      let s := collRead k none (pieces.drop e.srcPos) s
      let e := s.engine k
      if e.srcPos < pieces.length then s else s.setEngine k { e.fill e.srcBytes with srcBytes := [] }

/-- Whatever an engine can do now. -/
def collProgress (s : State) (k : Nat) : State := collSend (collWrite (collSource s k) k) k

/-- Every engine that waited for a token or a line goes on. -/
def pumpEngines (s : State) : State :=
  (NMap.keysWhere (fun _ e => e.busy && decide (1 ≤ e.stage)) s.lnk.engines).foldl collProgress s

/-! #### START (R389) -/

/-- Image bits other than DEV_COORD. -/
def sansCoord (img : BitVec 512) : BitVec 512 := img &&& ~~~((BitVec.ofNat 512 (2 ^ 48 - 1)) <<< 328)

def startPayload (e : Engine) : List Byte :=
  leBytes e.srcD.toNat 64 ++ leBytes e.dstD.toNat 64 ++ [BitVec.ofNat 8 e.op, 0, 0, 0] ++ leBytes e.root 4

/-- The neighbour a peer's image makes it: the one grid dimension in which it differs, by one. -/
def peerOf (x : DImg) (peer : DImg) (l : Nat) : Option CollPeer :=
  match (List.range x.grid.length).filter fun g => x.at_ g ≠ peer.at_ g with
  | [g] =>
    let n := x.gr g
    if peer.at_ g = (x.at_ g + 1) % n then some ⟨l, g, true⟩
    else if peer.at_ g = (x.at_ g + n - 1) % n then some ⟨l, g, false⟩
    else none
  | _ => none

/-- A peer's START met by the running collective. -/
def collPeer (s : State) (k l : Nat) (p : List Byte) : State :=
  let e := s.engine k
  if !e.linkMask.getLsbD l || e.ends.isSome || e.peers.any (fun x => x.link = l) then s
  else
    let sd := BitVec.ofNat 512 (leNat (p.take 64))
    let dd := BitVec.ofNat 512 (leNat ((p.drop 64).take 64))
    let same := p.length == 136 && sansCoord sd == sansCoord e.srcD && sansCoord dd == sansCoord e.dstD &&
      leNat ((p.drop 128).take 1) == e.op && leNat ((p.drop 132).take 4) == e.root
    match (if same then peerOf e.sd (dImg sd) l else none) with
    | none => s.setEngine k { e with ends := some 0x13 }
    | some x => collProgress (s.setEngine k { e with peers := e.peers ++ [x] }) k

/-- An engine starts its instance: START on every link, and the STARTs that waited for it. -/
def collStart (s : State) (k : Nat) : State :=
  let e := s.engine k
  let seq := (s.job e.job).elim 0 Job.nextSeq
  let e := { e with seq := seq, stage := 1 }
  let s := s.setEngine k e
  let s := { s with lnk := { s.lnk with jobs := s.lnk.jobs.map fun j => if j.id = e.job then { j with nextSeq := seq + 1 } else j } }
  let s := e.links.foldl (fun s l => queueFrame s l e.part { mkFrame tStart 0 e.job 0 (startPayload e) with collSeq := seq }) s
  let s := e.links.foldl (fun s l =>
    let lk := s.link l
    let mine := lk.early.filter fun f => f.jobId = e.job && f.collSeq = seq
    let s := s.setLink l { lk with early := lk.early.filter fun f => !(f.jobId = e.job && f.collSeq = seq) }
    mine.foldl (fun s f => collPeer s k l f.payload) s) s
  collProgress s k

/-! #### Refusals (R388, R390, R393) -/

/-- Whether a reduction's source format enters it (R392). -/
def reducible (fmt : Nat) : Bool := !([0x00, 0x01, 0x06, 0x0B, 0x0C, 0x11].contains fmt)

/-- R390: what an operation asks of its distributions. -/
def opBad (op : Nat) (a b : DImg) : Bool :=
  (decide (2 ≤ op) && a.fmt != b.fmt) || a.gext != b.gext || a.grid != b.grid || a.coord != b.coord ||
  (let same (d : Nat) : Bool := a.sh d == b.sh d && (a.sh d == 0 || a.gd d == b.gd d) && (a.sh d != 3 || a.blk.getD d 1 == b.blk.getD d 1)
   match op with
   | 0 => (List.range a.ndim).any fun d => !same d
   | 1 =>
     match a.free, (List.range a.ndim).filter fun d => !same d with
     | [g], [d] => !(a.sh d == 0 && b.sh d == 1 && b.gd d == g)
     | _, _ => true
   | 2 => (List.range a.grid.length).any fun g => (a.dimOn g).isSome && (b.dimOn g).isNone &&
       !(match a.dimOn g with | some d => b.sh d == 0 | none => true)
   | 3 => (List.range a.ndim).any fun d => a.sh d != 0 || b.sh d != 0
   | _ => false)

/-- A local tensor image that a collective refuses with BAD_PARAM (R388, R393; reserved fields and the uses of SBIND it
does not have: DESIGN CHOICE). -/
def localBad (img : BitVec 512) (src : Bool) : Bool :=
  let t := tImg img
  imgKind img != 1 || imgVersion img != 1 || t.badField img.toNat || t.nwin != 0 || t.scaled || t.rm == 4 ||
    (if src then t.sbind == 2 else t.sbind != 0)

/-- The refusals that the images decide, as status codes. -/
def collRefusals (s : State) (e : Engine) : List Nat :=
  let al := (s.part e.part).allocs
  let (ts, td) := (e.st_, e.dt)
  let fed := ts.sbind == 1
  let bp := localBad e.srcL true || localBad e.dstL false || (td.fmt == 0x12 && ts.anchorScale != td.anchorScale) ||
    decide (listProd e.sd.grid ≤ e.root) || (e.reduces && (!reducible ts.fmt || !reducible td.fmt)) ||
    (fed && (!e.reduces || ts.fmt != 0x12 || decide (65536 < e.elems) ||
      s.lnk.engines.any fun x => x.2.busy && x.2.fed && x.2.part == e.part && x.2.handle == e.handle && x.2.cmd != e.cmd))
  (if bp then [0x06] else []) ++ (if ts.allocBad al || td.allocBad al then [0x07] else []) ++
    (if distBad e.srcD ts || distBad e.dstD td || opBad e.op e.sd e.dd then [0x13] else [])

/-! #### Feeding (R393) -/

/-- A root's element fed to the collective its handle names; none where it waits for it. An element the collective does
not have is discarded (DESIGN CHOICE). -/
def feedEngine (s : State) (p handle elem : Nat) (anchor v : Int) (tag : BitVec 2) (low high : Bool) : Option State :=
  match (List.range 16).find? fun k =>
    let e := s.engine k
    e.busy && e.fed && e.part = p && e.handle.toNat = handle && e.stage = 2 && e.ends.isNone with
  | none => none
  | some k =>
    let e := s.engine k
    if e.elems ≤ elem then some s
    else if (NMap.get none e.own elem).isSome then some (s.setEngine k { e with dup := true })
    else
      let (a, lo, hi) := if anchor = e.st_.anchorScale then (⟨v, tag⟩, false, false) else realign ⟨v, tag⟩ (anchor - e.st_.anchorScale)
      let out := a.tag == 0 && (decide (a.v < -(2 ^ 143) + 1) || decide (2 ^ 143 ≤ a.v))
      let w := if out then wireOf 0 (if a.v < 0 then 2 else 1) (low || lo) true else wireOf a.v a.tag (low || lo) (high || hi)
      some (collProgress (s.setEngine k { e with own := NMap.set none e.own elem (some w) }) k)

/-! #### Receiving DATA (R375, R391, R395) -/

/-- The elements of a DATA frame placed. -/
def collData (s : State) (k l : Nat) (fr : Frame) : State :=
  let e := s.engine k
  let t := fr.step.toNat
  match e.ringOf t with
  | none => s
  | some (kr, r) =>
    let known := e.peers.find? fun p => p.link = l
    if e.ends.isSome || !e.linkMask.getLsbD l || (match known with | some p => p.dim != r.g || (p.plus && r.n != 2) | none => false) then s
    else
      let (items, wire) := e.listAt t true
      let w := e.itemBits wire
      let v := leNat fr.payload
      let got := ((items.drop (fr.offset.toNat * 8 / w)).take (fr.payload.length * 8 / w))
      let put (m : NMap (Option (BitVec 256))) : NMap (Option (BitVec 256)) :=
        (List.range got.length).foldl (fun m i =>
          NMap.set none m (e.key kr (got.getD i 0)) (some (BitVec.ofNat 256 ((v >>> (i * w)) % 2 ^ w)))) m
      let e' :=
        if !e.reduces then { e with have_ := (List.range got.length).foldl (fun m i =>
          NMap.set none m (got.getD i 0) (some ((v >>> (i * w)) % 2 ^ w))) e.have_ }
        else if t - r.first < r.n - 1 then { e with rs := put e.rs }
        else { e with ag := put e.ag }
      collProgress (s.setEngine k e') k

/-! #### The end (R394, R395) -/

/-- An engine freed: its conditions ORed into LNK_COLL_FLAGS, what it has not sent dropped, its job freed where due (R370). -/
def endEngine (s : State) (k : Nat) : State :=
  let e := s.engine k
  let fl := BitVec.ofNat 8 (e.flags.toNat + 128 * b2n e.dup)
  let lnk := { s.lnk with
    collFlags := NMap.set 0 s.lnk.collFlags e.part (NMap.get 0 s.lnk.collFlags e.part ||| fl)
    engines := NMap.set {} s.lnk.engines k {}
    links := NMap.mapVals {} (fun _ l => { l with txq := l.txq.filter fun x => !(x.fr.jobId = e.job && x.fr.collSeq = e.seq && e.stage ≠ 0) }) s.lnk.links }
  freeJob { s with lnk := lnk, hostReads := s.hostReads.filter fun h => h.kind ≠ .command e.cmd } e.job

/-- The partition's collectives stopped: their engines are free, their commands still to be replied to. -/
def dropEngines (s : State) (p : Nat) : State :=
  (List.range 16).foldl (fun s k => if (s.engine k).busy && (s.engine k).part = p then endEngine s k else s) s

/-- Whether everything an engine sends has been handed to its links and everything it writes has been performed. -/
def collDone (s : State) (k : Nat) : Bool :=
  let e := s.engine k
  e.stage == 2 && (List.range e.dstCount).all (fun i => e.written.contains i) && e.frames.all (fun x => e.sent.contains x) &&
    e.links.all (fun l => e.peers.any fun p => p.link = l) &&
    !(s.hostReads.any fun h => match h.kind with | .merge cl .. => cl == 2 ^ 20 + k | _ => false)

/-- R395: a collective whose DST has been performed, or that ended early, completes. -/
def execCollectiveComplete (k : Nat) (s : State) : Host.Outcome State Fault Refusal :=
  if !(s.engine k).busy then .next s
  else
    let s := collProgress s k
    let e := s.engine k
    match e.ends with
    | some st => .next (refuseCmd (endEngine s k) e.cmd st)
    | none =>
      if !collDone s k then .next s
      else
        let s := endEngine s k
        .next (if e.dup then refuseCmd s e.cmd 0x06 else succeed0 s e.cmd)

end Sys2Proof.Machine
end

