-- ==== Sys2Proof/Machine/Red.lean ====
section
/-! DEFINITION. Reductions in a cluster: RED.PUT, RED.ACC and RED.WAIT, fabric arrivals, the root engine and its
deliveries (spec/08_reduction_in_flight.md R223-R238, spec/04 R118, R121). -/

namespace Sys2Proof.Machine

/-- The slot and handle of a live reduction handle of a block; none: class 0x09. -/
def redUse (c : Cluster) (b h : Nat) : Option (Nat × RedHandle) :=
  match tdLookup c b h with
  | none => none
  | some i => ((NMap.get {} c.td i).red).map fun r => (i, r)

/-- The elements that `n` words from cursor `k` go to. -/
def RedHandle.elemsFrom (r : RedHandle) (k n : Nat) : List Nat := (List.range n).map fun i => (k + i) % r.words

def RedHandle.cursor (r : RedHandle) (g : Nat) : Nat := NMap.get r.elemBase r.cursors g

/-- The limits of R230 on `n` words that group index `g` hands over. -/
def RedHandle.accepts (r : RedHandle) (g n : Nat) : Bool :=
  if r.root then
    let es := r.elemsFrom (r.cursor g) n
    es.eraseDups.all fun e => decide (NMap.get 0 r.accepted e + (es.filter (· = e)).length ≤ r.localContrib)
  else (r.firstGroup == none || r.firstGroup == some g) && decide (r.handed + n ≤ r.words)

/-- The handle once group index `g` has handed over `n` words: its cursor moved, its limits used (R228, R230). -/
def RedHandle.reserve (r : RedHandle) (g n : Nat) : RedHandle :=
  let k := r.cursor g
  { r with
    cursors := NMap.set r.elemBase r.cursors g ((k + n) % r.words)
    firstGroup := if r.root then r.firstGroup else some g
    handed := if r.root then r.handed else r.handed + n
    accepted := if r.root then (r.elemsFrom k n).foldl (fun m e => NMap.set 0 m e (NMap.get 0 m e + 1)) r.accepted else r.accepted }

def setRed (c : Cluster) (i : Nat) (r : RedHandle) : Cluster :=
  { c with td := NMap.set {} c.td i { NMap.get {} c.td i with red := some r } }

/-- R118, R228, R230: SC words of scratch handed over. -/
def execRedPut (g : Grp) (sa sb sc : BitVec 4) (s : State) : Host.Outcome State Fault Refusal :=
  .next (coreStep s g { sr := [sa.toNat, sb.toNat, sc.toNat], vector := false } fun s gr b _ =>
    let c := s.cluster g.cl
    let n := (gr.s sc.toNat).toNat
    let off := (gr.s sb.toNat).toNat
    if n = 0 then .done s
    else if 16 ≤ redCount c (ownerOf g gr b) then .hold
    else if off % 16 ≠ 0 then .flt 4 0 off
    else if c.tdBad.contains ((gr.s sa.toNat).toNat % 64) then .flt 5 0 0
    else if b.scrSize < off + 16 * n then .flt 7 0 off
    else
      match redUse c gr.bslot (gr.s sa.toNat).toNat with
      | none => .flt 9 0 0
      | some (i, r) =>
        if !r.accepts gr.gidx n then .flt 9 0 0
        else
          let (s, bs, bad) := scratchBytes s g.cl (b.scrBase + off) (16 * n)
          match bad with
          | some a => .flt 5 0 a
          | none =>
            let v := leNat bs
            let ws := (List.range n).map fun j =>
              let x := XAcc.load (BitVec.ofNat 128 (v >>> (128 * j)))
              redWord ⟨x.w.toInt, x.tag⟩ false false 1 r.redId ((r.cursor gr.gidx + j) % r.words)
            .done (s.setCluster g.cl (setRed (s.cluster g.cl) i ((r.reserve gr.gidx n).give s.fab.cycle ws))))

/-- R118, R121, R228, R230: closes the open chain towards the reduction. -/
def execRedAcc (g : Grp) (sa : BitVec 4) (s : State) : Host.Outcome State Fault Refusal :=
  .next (coreStep s g { sr := [sa.toNat], vector := false } fun s gr b _ =>
    let c := s.cluster g.cl
    let o := ownerOf g gr b
    if queueFull c g || decide (16 ≤ mxCount c o) || decide (16 ≤ redCount c o) then .hold
    else if c.tdBad.contains ((gr.s sa.toNat).toNat % 64) then .flt 5 0 0
    else if !gr.chainOpen then .flt 8 0 0
    else
      match redUse c gr.bslot (gr.s sa.toNat).toNat with
      | none => .flt 9 0 0
      | some (i, r) =>
        if !r.accepts gr.gidx 64 then .flt 9 0 0
        else
          let s := s.setCluster g.cl (setRed c i (r.reserve gr.gidx 64))
          .done (closeChain s g gr b (.redAcc i (r.cursor gr.gidx))))

/-- R118, R121: held until at most N reduction operations of the group are incomplete. -/
def execRedWait (g : Grp) (n : BitVec 4) (s : State) : Host.Outcome State Fault Refusal :=
  .next (coreStep s g { vector := false } fun s gr b _ =>
    if n.toNat < redCount (s.cluster g.cl) (ownerOf g gr b) then .hold else .done s)

/-! #### The root (R231-R236) -/

/-- Fields of a reduction word (R227). -/
def rwV (w : BitVec 256) : Int := sextInt (bitsOf w.toNat 143 0 + (bitsOf w.toNat 205 190 <<< 144)) 160
def rwTag (w : BitVec 256) : BitVec 2 := BitVec.ofNat 2 (bitsOf w.toNat 145 144)
def rwCount (w : BitVec 256) : Nat := bitsOf w.toNat 164 148
def rwId (w : BitVec 256) : Nat := bitsOf w.toNat 180 165
def rwElem (w : BitVec 256) : Nat := bitsOf w.toNat 189 181

/-- Two reduction words added (R231): V modulo 2^160, tags under R49, window flags ORed, counts added. -/
def redAdd (a b : BitVec 256) : BitVec 256 :=
  redWord ⟨rwV a + rwV b, tagSum (rwTag a) (rwTag b)⟩ (a.getLsbD 146 || b.getLsbD 146) (a.getLsbD 147 || b.getLsbD 147)
    (rwCount a + rwCount b) (rwId a) (rwElem a)

/-- R232: the next flit of a stream bound to a root handle checked and queued for the root engine. -/
def execFabricArrival (cl stream : Nat) (s : State) : Host.Outcome State Fault Refusal :=
  let c := s.cluster cl
  let st := NMap.get {} c.streamOut stream
  match st.buf, st.bound with
  | (w, poison) :: rest, some i =>
    match (NMap.get {} c.td i).red with
    | some r =>
      if !r.root then .next s
      else
        let c := { c with streamOut := NMap.set {} c.streamOut stream { st with buf := rest } }
        if poison then .next (ownerFault (s.setCluster cl c) cl r.creator 5 r.pc 0)
        else if rwId w ≠ r.redId || rwElem w ≠ (r.elemBase + r.arrivals) % r.words || rwCount w ≠ r.fabricContrib ||
            decide (r.words ≤ r.arrivals) then
          .next (noteFault (s.setCluster cl c) r.creator.part { cls := 0x0A, time := s.time, cluster := cl })
        else .next (s.setCluster cl (setRed c i { r with arrivals := r.arrivals + 1, fabricQ := r.fabricQ ++ [w] }))
    | none => .next s
  | _, _ => .next s

/-- A word added into the reduction buffer (R231). -/
def RedHandle.addWord (r : RedHandle) (w : BitVec 256) (fabric : Bool) : RedHandle :=
  let e := rwElem w
  let old := NMap.get {} r.sums e
  let v := sextInt (wrapInt (old.v + rwV w) 160) 160
  let r := { r with
    sums := NMap.set {} r.sums e ⟨v, tagSum old.tag (rwTag w)⟩
    wlo := if w.getLsbD 146 && !r.wlo.contains e then r.wlo ++ [e] else r.wlo
    whi := if w.getLsbD 147 && !r.whi.contains e then r.whi ++ [e] else r.whi
    counts := NMap.set 0 r.counts e (NMap.get 0 r.counts e + rwCount w) }
  if fabric then { r with arrived := NMap.set 0 r.arrived e 1 }
  else { r with added := NMap.set 0 r.added e (NMap.get 0 r.added e + 1) }

/-- One word taken: the fabric's first. -/
def RedHandle.takeWord (r : RedHandle) : RedHandle :=
  match r.fabricQ, r.localQ with
  | w :: ws, _ => { r.addWord w true with fabricQ := ws }
  | [], w :: ws => { r.addWord w false with localQ := ws }
  | [], [] => r

/-- Whether an element is complete (R233). -/
def RedHandle.complete (r : RedHandle) (e : Nat) : Bool :=
  NMap.get 0 r.added e == r.localContrib && (r.fabricContrib == 0 || NMap.get 0 r.arrived e == 1)

/-- What a delivery does: the state, the handle, and whether it happened (R234). -/
def deliverElem (s : State) (cl : Nat) (r : RedHandle) (e : Nat) : Option (State × RedHandle) :=
  let a := NMap.get {} r.sums e
  let (low, high) := (r.wlo.contains e, r.whi.contains e)
  let r := { r with delivered := NMap.set 0 r.delivered e 1, winLow := r.winLow || low, isOver := r.isOver || high }
  let p := r.creator.part
  if r.destKind = 2 then
    (feedEngine s p (r.dest % 65536) (r.dest / 65536 + e) r.anchor a.v a.tag low high).map fun s => (s, r)
  else
    let (x, f, ovf) := deliverBits r.outFmt ((RMode.ofCode r.rm).getD .rne) r.anchor a.v a.tag
    let n := (fmtWidth r.outFmt).getD 8
    let base := if r.destKind = 0 then 0x030000000000 + cl * 0x4000 + r.dest else r.dest
    let w : BitWrite := (8 * base + e * n, n, x)
    if writesHeld s [w] then none
    else
      let x := putAll s cl p [w]
      let s := match x.bad with
        | some a => ownerFault x.s cl r.creator 5 r.pc a
        | none => x.s
      some (s, { r with flags := r.flags ||| f, isOver := r.isOver || ovf, merges := r.merges ++ x.host.toList })

/-- Every complete element that can be delivered, delivered in element order. -/
def deliverAll (cl slot : Nat) : List Nat → State → State
  | [], s => s
  | e :: es, s =>
    match (NMap.get {} (s.cluster cl).td slot).red with
    | none => s
    | some r =>
      if NMap.get 0 r.delivered e = 1 || !r.complete e then deliverAll cl slot es s
      else
        match deliverElem s cl r e with
        | some (s, r) => deliverAll cl slot es (s.setCluster cl (setRed (s.cluster cl) slot r))
        | none => deliverAll cl slot es s

/-- R231, R233, R234: the root engine adds one word, and elements that are complete are delivered. -/
def execRootAdd (cl slot : Nat) (s : State) : Host.Outcome State Fault Refusal :=
  match (NMap.get {} (s.cluster cl).td slot).red with
  | some r =>
    if !r.root || !r.opActive then .next s
    else .next (deliverAll cl slot (List.range r.words) (s.setCluster cl (setRed (s.cluster cl) slot r.takeWord)))
  | none => .next s

/-- R226, R235: every element delivered: MXSTAT of the creator, and the buffer's hold ended. -/
def execRootOperationComplete (cl slot : Nat) (s : State) : Host.Outcome State Fault Refusal :=
  let c := s.cluster cl
  match (NMap.get {} c.td slot).red with
  | some r =>
    if !r.root || !r.opActive || !((List.range r.words).all fun e => NMap.get 0 r.delivered e == 1) ||
        r.merges.any (fun id => s.hostReads.any fun h => h.id = id) then .next s
    else
      let m := BitVec.ofNat 8 (packFields [(b2n r.winLow, 1, 1), (b2n r.isOver, 2, 1), (r.flags.toNat, 3, 5)])
      let c := orMxstat (setRed c slot { r with opActive := false, merges := [] }) r.creator m
      let c := { c with mx := { c.mx with held := c.mx.held.filter fun h => h.id ≠ 2 ^ 32 + slot } }
      .next (tdProgress (s.setCluster cl c) cl)
  | none => .next s

end Sys2Proof.Machine
end

