-- ==== Sys2Proof/Machine/Fab.lean ====
section
/-! DEFINITION. The mesh fabric at work: fixed-line slots, schedule starts, arbitrated flits and ageing
(spec/07_mesh_fabric.md R197-R213, R215, R219-R222; spec/08_reduction_in_flight.md R239, R240, R242). -/

namespace Sys2Proof.Machine

/-! #### Logs and fabric faults (R222, R242, R91) -/

/-- Where a fabric fault of partition p is recorded: the position at the site, or the partition's lowest. -/
def faultCluster (s : State) (p c : Nat) : Nat :=
  match clusterAt s c with
  | some cl => if (s.part p).hasCluster cl then cl else ((s.part p).clusters).headD 0
  | none => ((s.part p).clusters).headD 0

/-- A class 0x0A fault of the partition whose region holds the router; none where it lies in no region. -/
def fabricFault (s : State) (c : Nat) : State :=
  match sitePart s c with
  | some p => noteFault s p { cls := 0x0A, time := s.time, cluster := faultCluster s p c }
  | none => s

/-- FAB_ERR_LOG overwritten. -/
def fabLog (s : State) (c kind port slot : Nat) (hdr : BitVec 32) (cnt : Router → Router) : State :=
  let r := cnt (s.router c)
  s.setRouter c { r with log := BitVec.ofNat 128 (packFields [
    (1, 0, 1), (kind, 1, 3), (port, 4, 3), (slot, 7, 10), (flitSrc hdr, 17, 17), (b2n (hdr.getLsbD 1), 34, 1), (s.time.toNat, 64, 64)]) }

/-- A collision (R209): counted, logged, and a fault in a region. -/
def collision (s : State) (c kind port slot : Nat) (hdr : BitVec 32) : State :=
  fabricFault (fabLog s c kind port slot hdr fun r => { r with collisions := satAdd r.collisions 1 0xFFFF }) c

/-- A drop at a closed port (R215). -/
def edgeDrop (s : State) (c port slot : Nat) (hdr : BitVec 32) : State :=
  fabricFault (fabLog s c 3 port slot hdr fun r => { r with edgeDrops := satAdd r.edgeDrops 1 0xFFFF }) c

/-- A drop of a flit of a fenced or sealed site (R219, R221): no fault. -/
def fenceDrop (s : State) (c port slot : Nat) (hdr : BitVec 32) : State :=
  let s := fabLog s c 4 port slot hdr fun r => { r with fenceDrops := satAdd r.fenceDrops 1 0xFFFF }
  let (kind, src) := match clusterAt s c with
    | some cl => (4, cl)
    | none => (3, 96 * siteFolio c + 2 * siteGath c + siteLeaf c)
  s.observe { ev := 0x13, kind := kind, src := src, payload := packFields [(flitSrc hdr, 0, 17), (port, 17, 3)] }

/-- A header error (R211). -/
def headerError (s : State) (c port : Nat) (hdr : BitVec 32) : State :=
  fabricFault (fabLog s c 6 port 0 hdr fun r => { r with hdrErrors := satAdd r.hdrErrors 1 0xFFFF }) c

/-- The parity bits of a payload, one for each byte (R189). DESIGN CHOICE: even parity, as HPAR has it (log 27). -/
def bytePar (p : BitVec 256) : BitVec 32 :=
  BitVec.ofNat 32 (packFields ((List.range 32).map fun i => (popCount (bitsOf p.toNat (8 * i + 7) (8 * i)) 8 % 2, i, 1)))

/-- Every payload byte of a flit still has its parity. -/
def flitOk (f : Flit) : Bool := f.par == bytePar f.payload

/-- A flit as it is put on a link. -/
def mkFlit (hdr : BitVec 32) (payload : BitVec 256) : Flit := ⟨hdr, payload, bytePar payload⟩

/-- Whether a flit taken in at a port is one of a fenced or sealed site (R219, R221). -/
def fencedAt (s : State) (c port : Nat) (hdr : BitVec 32) : Bool :=
  let g := s.gath (siteGathKey c)
  let src := flitSrc hdr
  (port == 0 && g.sealed.contains (siteIdx c)) ||
    (port != 6 && siteValid src && siteGathKey src == siteGathKey c && g.fenced (siteIdx src))

/-- Header parity (R190). -/
def byteParity (h : Nat) : Bool := popCount h 32 % 2 == 1
def hparOf (h : Nat) : Nat :=
  packFields [(b2n (byteParity (bitsOf h 7 0)), 0, 1), (b2n (byteParity (bitsOf h 15 8)), 1, 1), (b2n (byteParity (bitsOf h 23 16)), 2, 1),
    (b2n (byteParity (bitsOf h 27 24)), 3, 1)]

/-- A header with its parity recomputed. -/
def withHpar (h : Nat) : BitVec 32 := BitVec.ofNat 32 (h % 2 ^ 28 + 2 ^ 28 * hparOf h)

/-- The header of a fixed-line flit (R190). -/
def flHdr (src : Nat) (poison : Bool) : BitVec 32 := withHpar (packFields [(3, 0, 2), (b2n poison, 7, 1), (src, 8, 17)])

/-- The observed unit of a router: the cluster at its site; none at an idle site. -/
def observeSent (s : State) (c ev n : Nat) : State :=
  match clusterAt s c with
  | some cl => if n = 0 then s else s.observe { ev := ev, part := sitePart s c, kind := 4, src := cl, count := n }
  | none => s

/-! #### One slot of one router (R205-R209, R239) -/

/-- Whether the first of `n` waiting flits was ready in the slot before a cycle: not all of them were put in during it. -/
def readyBefore (n lateAt late cycle : Nat) : Bool := decide ((if cycle ≤ lateAt then late else 0) < n)

/-- The next flit of the cluster's STREAM_IN n in a period, if one was ready in the slot before: a queued flit, or the next
word of a leaf handle, not before its FIRST_PERIOD (R205, R240, R260). A descriptor operation that waits for room goes on. -/
def takeStream (s : State) (cl n cycle period : Nat) : State × Option (BitVec 256 × Bool) :=
  let c := s.cluster cl
  let st := NMap.get {} c.streamIn n
  match st.buf with
  | f :: rest =>
    if readyBefore st.buf.length st.lateAt st.late cycle then
      (tdProgress (s.setCluster cl { c with streamIn := NMap.set {} c.streamIn n { st with buf := rest } }) cl, some f)
    else (s, none)
  | [] =>
    match st.bound with
    | some i =>
      match (NMap.get {} c.td i).red with
      | some r =>
        match r.outQ with
        | w :: rest => if r.root || decide (period < r.firstPeriod) || !readyBefore r.outQ.length r.lateAt r.late cycle then (s, none) else (s.setCluster cl (setRed c i { r with outQ := rest }), some (w, false))
        | [] => (s, none)
      | none => (s, none)
    | none => (s, none)

/-- The flit that stands in an input of a router in a cycle: taken from the link, or for LOC from the stream an entry
names. -/
def takeInput (s : State) (c cycle period : Nat) (e : Route) (port : Nat) : State × Option Flit :=
  let r := s.router c
  match r.fl.find? fun x => x.port = port && x.cycle = cycle with
  | some x => (s.setRouter c { r with fl := r.fl.filter fun y => !(y.port = port && y.cycle = cycle) }, some x.flit)
  | none =>
    if port ≠ 0 then (s, none)
    else
      match clusterAt s c with
      | none => (s, none)
      | some cl =>
        let (s, f) := takeStream s cl e.streamIn cycle period
        (s, f.map fun f => mkFlit (flHdr c f.2) f.1)

def takeInputs (c cycle period : Nat) (e : Route) : List Nat → State → State × List (Nat × Flit)
  | [], s => (s, [])
  | p :: ps, s =>
    let (s, f) := takeInput s c cycle period e p
    let (s, fs) := takeInputs c cycle period e ps s
    (s, match f with | some f => (p, f) :: fs | none => fs)

/-- A flit delivered through LOC into the cluster's STREAM_OUT, or dropped where the buffer is full (R208). A descriptor
operation that waits for it takes it (R260). -/
def streamDeliver (s : State) (c stream slot : Nat) (f : Flit) : State :=
  match clusterAt s c with
  | none => s
  | some cl =>
    let x := s.cluster cl
    let st := NMap.get {} x.streamOut stream
    if 8 ≤ st.buf.length then
      fabricFault (fabLog s c 5 0 slot f.hdr fun r => { r with hdrErrors := satAdd r.hdrErrors 1 0xFFFF }) c
    else tdProgress (s.setCluster cl { x with
      streamOut := NMap.set {} x.streamOut stream { st with buf := st.buf ++ [(f.payload, f.hdr.getLsbD 7 || !flitOk f)] } }) cl

/-- A flit that has crossed the switch in `cycle` towards LOC or SP: it is in the cluster's buffer two cycles later, or enters
the spine in the next spine-aligned cycle (R197). -/
def leaveBy (s : State) (c port cycle : Nat) (stream : Option Nat) (slot : Nat) (f : Flit) : State :=
  let r := s.router c
  s.setRouter c { r with
    leaving := r.leaving ++ [{ port := port, cycle := if port = 0 then cycle + 2 else nextAligned cycle, stream := stream, slot := slot, flit := f }] }

/-- A fixed-line flit sent through one output port. -/
def sendFl (s : State) (c cycle slot : Nat) (e : Route) (f : Flit) (port : Nat) : State :=
  if port = 0 || port = 6 then leaveBy s c port cycle (some e.streamOut) slot f
  else if edgeClosed s c port then edgeDrop s c port slot f.hdr
  else
    match neighbour c port with
    | some n =>
      let r := s.router n
      s.setRouter n { r with fl := r.fl ++ [⟨farPort port, cycle + 2, f⟩] }
    | none => s

/-- The mismatch of R239 counted, logged and raised. -/
def reduceMismatch (s : State) (c slot : Nat) (fs : List (Nat × Flit)) : State :=
  let r := s.router c
  let es := fs.map fun f => rwElem f.2.payload
  let (port, id) := match fs with
    | (p, f) :: _ => (p, rwId f.payload)
    | [] => (0, 0)
  fabricFault (s.setRouter c { r with
    mismatches := satAdd r.mismatches 1 0xFFFF
    redLog := BitVec.ofNat 128 (packFields [
      (1, 0, 1), (port, 1, 3), (slot, 4, 10), (id, 14, 16), (es.foldl min 511, 30, 9), (es.foldl max 0, 39, 9), (s.time.toNat, 64, 64)]) }) c

/-- What an entry sends in a slot: the flit of its one input, or the sum of its inputs' reduction flits. -/
def combine (c : Nat) (e : Route) : List (Nat × Flit) → Option (Option Flit)
  | [] => some none
  | (_, f) :: fs =>
    if !e.reduce then some (some f)
    else if fs.all (fun g => rwId g.2.payload = rwId f.payload && rwElem g.2.payload = rwElem f.payload) then
      let bad (g : Flit) : Bool := g.hdr.getLsbD 7 || !flitOk g
      if fs.isEmpty then some (some f)
      else some (some (mkFlit (flHdr c (bad f || fs.any fun g => bad g.2)) (fs.foldl (fun a g => redAdd a g.2.payload) f.payload)))
    else none

/-- A flit whose payload failed parity on the way carries POISON (R211, R25). -/
def poisonParity (f : Flit) : Flit :=
  if flitOk f then f else { f with hdr := withHpar ((f.hdr ||| 0x80#32).toNat), par := bytePar f.payload }

/-- One entry in its slot. -/
def entrySlot (c cycle period slot : Nat) (s : State) (k : Nat) (e : Route) : State :=
  let (s, fs) := takeInputs c cycle period e (portsOf e.inMask) s
  let fs := fs.map fun f => (f.1, poisonParity f.2)
  let first := match fs with | (p, f) :: _ => (p, f.hdr) | [] => ((portsOf e.inMask).headD 0, 0)
  if (s.router c).routeBad.contains k then collision s c 2 first.1 slot first.2
  else
    match fs.find? fun f => !f.2.hdr.getLsbD 1 with
    | some f => collision s c 1 f.1 slot f.2.hdr
    | none =>
      let (dropped, fs) := fs.partition fun f => fencedAt s c f.1 f.2.hdr
      let s := dropped.foldl (fun s f => fenceDrop s c f.1 slot f.2.hdr) s
      match combine c e fs with
      | none => reduceMismatch s c slot fs
      | some none => s
      | some (some f) =>
        let outs := portsOf e.outMask
        outs.foldl (fun s o => sendFl s c cycle slot e f o) (observeSent s c 0x10 outs.length)

/-- The entries of a router that cover the slot of a cycle carried out; the slot with them. -/
def slotEntries (s : State) (c cycle : Nat) : Nat × State :=
  match runningAt s c cycle with
  | none => (0, s)
  | some (c0, period) =>
    let slot := (cycle - c0) % period
    (slot, (s.router c).routes.foldl (fun s e =>
      let w := routeOf e.2
      if w.covers slot then entrySlot c cycle ((cycle - c0) / period) slot s e.1 w else s) s)

/-! #### The arbitrated class: routing (R198-R202, R211) -/

/-- The output towards a column and row in the leaf where a packet stands; none: it is there. -/
def towards (c px py : Nat) : Option Nat :=
  let (x, y) := physOf (siteIdx c)
  if x < px then some 1 else if px < x then some 2 else if y < py then some 3 else if py < y then some 4 else none

/-- The output towards the source's home spine port (R199). -/
def toSpine (c src : Nat) : Nat :=
  let (x, y) := physOf (siteIdx src)
  (towards c (homeSpineCol x) y).getD 6

/-- The output of a unicast to a site (R199). -/
def unicastOut (c src dest : Nat) : Nat :=
  if siteFolio dest ≠ siteFolio c then toSpine c src
  else
    let (x, y) := physOf (siteIdx dest)
    match towards c x y with
    | some o => o
    | none => if siteLeaf dest ≠ siteLeaf c then 5 else 0

/-- The rename of R200 applied to a route word. -/
def renameRoute (s : State) (c : Nat) (w : Nat) : Nat :=
  let dest := bitsOf w 18 2
  if bitOf w 19 || decide (18750 ≤ siteIdx dest) || siteGathKey dest ≠ siteGathKey c then w
  else
    match (s.gath (siteGathKey c)).renameOf (siteIdx dest) with
    | some r => w - dest * 4 + siteCode (siteFolio dest) (siteLeaf dest) r.site * 4 + 2 ^ 19
    | none => w

/-- Copies of a multicast that a router owes (R201). -/
def multicastOuts (s : State) (c port w : Nat) : List Nat :=
  let (x, y) := physOf (siteIdx c)
  let (tx0, tx1, ty0, ty1, leaves) := (bitsOf w 4 2, bitsOf w 7 5, bitsOf w 10 8, bitsOf w 13 11, bitsOf w 15 14)
  let xp := if x < 26 * tx1 + 25 then [1] else []
  let xn := if 26 * tx0 < x then [2] else []
  let yp := if y < 16 * ty1 + 15 then [3] else []
  let yn := if 16 * ty0 < y then [4] else []
  let v := if leaves = 3 then [5] else []
  let loc := if (s.folio (siteFolio c)).inService && (clusterAt s c).isSome then [0] else []
  let row := yp ++ yn ++ v ++ loc
  match port with
  | 1 => xn ++ row
  | 2 => xp ++ row
  | 3 => yn ++ v ++ loc
  | 4 => yp ++ v ++ loc
  | 5 => loc
  | _ => xp ++ xn ++ row

/-- The outputs of a head flit at a router and the flit as it goes on; none: a header error. -/
def routeHead (s : State) (c port : Nat) (f : Flit) : Option (List Nat × Flit) :=
  let w := bitsOf f.payload.toNat 63 0
  match w % 4 with
  | 0 =>
    let w' := renameRoute s c w
    if siteValid (bitsOf w 18 2) then
      some ([unicastOut c (flitSrc f.hdr) (bitsOf w' 18 2)], { f with payload := BitVec.ofNat 256 (f.payload.toNat - w + w') })
    else none
  | 1 => some ([toSpine c (flitSrc f.hdr)], f)
  | 2 => some (multicastOuts s c port w, f)
  | _ => none

def Router.setOpen (r : Router) (port vc : Nat) (o : Option (List Nat)) : Router :=
  { r with open_ := NMap.set none r.open_ (4 * port + vc) o }

/-- Virtual channel of a header. -/
def flitVc (h : BitVec 32) : Nat := bitsOf h.toNat 5 4

/-- A routed flit: its edge checks made, it waits for its outputs. A copy across a broken V link has no link to go by. -/
def placeArb (s : State) (c port vc : Nat) (outs : List Nat) (f : Flit) : State :=
  let outs := outs.filter fun o => !(o == 5 && (s.router c).vBroken)
  let (closed, outs) := outs.partition fun o => edgeClosed s c o
  let s := closed.foldl (fun s o => edgeDrop s c o 0 f.hdr) s
  if outs.isEmpty then s
  else
    let r := s.router c
    s.setRouter c { r with arb := r.arb ++ [{ port := port, vc := vc, outs := outs, rc := s.fab.cycle, flit := f }] }

/-- A flit of the arbitrated class at its routing stage (R197 RC). DEDUCED: of a flit that fails HPAR the header is not looked
at further, so the fence check comes after it, in the order in which R197 lists the two (log 12). -/
def routeArb (s : State) (c port : Nat) (f : Flit) : State :=
  let h := f.hdr.toNat
  let vc := flitVc f.hdr
  let r := s.router c
  let last := bitOf h 3
  let dropped := r.setOpen port vc (if last then none else some [])
  if hparOf h ≠ bitsOf h 31 28 then headerError (s.setRouter c dropped) c port f.hdr
  else if fencedAt s c port f.hdr then fenceDrop s c port 0 f.hdr
  else
    let f := poisonParity f
    if bitOf h 2 then
      match routeHead s c port f with
      | none => headerError (s.setRouter c dropped) c port f.hdr
      | some (outs, f) => placeArb (s.setRouter c (r.setOpen port vc (if last then none else some outs))) c port vc outs f
    else
      match NMap.get none r.open_ (4 * port + vc) with
      | none => s
      | some outs =>
        let s := if last then s.setRouter c (r.setOpen port vc none) else s
        if outs.isEmpty then s else placeArb s c port vc outs f

/-! #### The arbitrated class: allocation and crossing (R197 SA and ST, R207, R212) -/

/-- Flits of a channel that an input buffers or that are on the link towards it: at most 8 (R212). -/
def Router.buffered (r : Router) (port vc : Nat) : Nat :=
  (r.arb.filter fun a => a.port = port && a.vc = vc).length + (r.arbIn.filter fun x => x.port = port && flitVc x.flit.hdr = vc).length

/-- The next router has room for one more flit of the channel. -/
def hasCredit (s : State) (c o vc : Nat) : Bool :=
  if o = 0 || o = 6 then true
  else match neighbour c o with
    | some n => decide ((s.router n).buffered (farPort o) vc < 8)
    | none => false

def ArbFlit.key (a : ArbFlit) : Nat := 4 * a.port + a.vc

/-- The oldest flit of an input and channel. -/
def Router.front (r : Router) (key : Nat) : Option ArbFlit := r.arb.find? fun a => a.key = key

/-- Output o may carry a flit of channel vc in the next cycle: outside its slot mask, in a spine-aligned cycle for SP, with a
credit downstream. -/
def outputFree (s : State) (c cycle o vc : Nat) : Bool :=
  !reservedAt s c (cycle + 1) o && (o != 6 || spineAligned (cycle + 1)) && hasCredit s c o vc

/-- A packet that has waited 64 cycles since its RC. -/
def ArbFlit.isAged (cycle : Nat) (a : ArbFlit) : Bool := a.aged || decide (a.rc + 64 ≤ cycle)

/-- The order of R212 in spine frame f: aged packets first, the oldest of them first; high priority; the rank
(port - f) mod 7; the lower channel. -/
def ArbFlit.order (cycle f : Nat) (a : ArbFlit) : List Nat :=
  [if a.isAged cycle then 0 else 1, if a.isAged cycle then a.rc else 0, if a.flit.hdr.getLsbD 6 then 0 else 1, (a.port + 7 - f % 7) % 7, a.vc]

def lexLt : List Nat → List Nat → Bool
  | a :: as, b :: bs => decide (a < b) || (a == b && lexLt as bs)
  | _, _ => false

/-- The first of a list of flits in the order of R212. -/
def bestArb (cycle f : Nat) : List ArbFlit → Option ArbFlit
  | [] => none
  | a :: as => match bestArb cycle f as with
    | none => some a
    | some b => if lexLt (b.order cycle f) (a.order cycle f) then some b else some a

/-- Whether a waiting flit has passed its RC before this cycle. -/
def ArbFlit.routed (cycle : Nat) (a : ArbFlit) : Bool := decide (a.rc < cycle)

/-- Stage 1 of R212: the head flit that each input chooses among its channels. DEDUCED: among those with an output that could
take them, since separate buffers for each channel leave no cycle of dependencies (R211; log 27). -/
def stage1 (s : State) (c cycle f : Nat) : List ArbFlit :=
  let r := s.router c
  (List.range 7).filterMap fun p => bestArb cycle f ((List.range 4).filterMap fun v =>
    match r.front (4 * p + v) with
    | some a => if a.flit.hdr.getLsbD 2 && a.routed cycle && a.outs.any (fun o => (NMap.get none r.hold o).isNone && outputFree s c cycle o a.vc) then some a else none
    | none => none)

/-- Stage 2: the input and channel to which output o goes in the next cycle: the packet that holds it, or the best of those
chosen. -/
def stage2 (s : State) (c cycle f : Nat) (chosen : List ArbFlit) (o : Nat) : Option ArbFlit :=
  let r := s.router c
  match NMap.get none r.hold o with
  | some k => match r.front k with
    | some a => if a.outs.contains o && a.routed cycle && outputFree s c cycle o a.vc then some a else none
    | none => none
  | none => bestArb cycle f (chosen.filter fun a => a.outs.contains o && outputFree s c cycle o a.vc)

/-- SA: the outputs allocated for the next cycle; a head flit's packet holds its output from then on (R212). -/
def allocate (s : State) (c cycle : Nat) : State :=
  let f := cycle / frameCycles
  let chosen := stage1 s c cycle f
  let won := (List.range 7).filterMap fun o => (stage2 s c cycle f chosen o).map fun a => (a, o)
  let r := s.router c
  s.setRouter c { r with
    grants := won.map fun w => (w.1.key, w.2)
    hold := won.foldl (fun h w => if w.1.flit.hdr.getLsbD 3 then h else NMap.set none h w.2 (some w.1.key)) r.hold }

/-- ST of one allocated flit in `cycle`: it crosses towards its output; an output that is reserved now keeps it waiting. -/
def crossArb (c cycle : Nat) (s : State) (g : Nat × Nat) : State :=
  let (key, o) := g
  let r := s.router c
  match r.front key with
  | none => s
  | some a =>
    if !a.outs.contains o || reservedAt s c cycle o then s
    else
      let i := r.arb.findIdx fun x => x.key = key
      let outs := a.outs.filter (· ≠ o)
      let s := s.setRouter c { r with
        arb := if outs.isEmpty then r.arb.eraseIdx i else modAt r.arb i fun x => { x with outs := outs }
        hold := if a.flit.hdr.getLsbD 3 then NMap.set none r.hold o none else r.hold }
      let s := observeSent s c 0x11 1
      if o = 0 || o = 6 then leaveBy s c o cycle none 0 a.flit
      else
        match neighbour c o with
        | some n => s.setRouter n { s.router n with arbIn := (s.router n).arbIn ++ [⟨farPort o, cycle + 2, a.flit⟩] }
        | none => s

/-- The granted flits of a router cross. -/
def crossAll (s : State) (c cycle : Nat) : State :=
  let gs := (s.router c).grants
  gs.foldl (crossArb c cycle) (s.setRouter c { s.router c with grants := [] })

/-! #### Leaving the fabric (R197, R199, R201, R211) -/

/-- A packet that leaves through SP with a destination in the other folio: the spine injects it at the home spine port of the
destination there. DESIGN CHOICE: SRC is then that port's router, which injects it (R190), and the flit can be taken in from
the next cycle on (log 12). -/
def crossFolio (s : State) (f : Flit) (dest cycle : Nat) : State :=
  let n := homeSpinePort dest
  let h := withHpar (bitsOf f.hdr.toNat 7 0 + n * 256 + 2 ^ 25)
  s.setRouter n { s.router n with arbIn := (s.router n).arbIn ++ [⟨6, cycle + 1, { f with hdr := h }⟩] }

/-- Where the packet in progress from SRC on a channel goes in the other folio, for its flits after the head. -/
def openFolioKey (f : Flit) : Nat := 4 * flitSrc f.hdr + flitVc f.hdr

/-- An arbitrated flit has left: through LOC it is the cluster's, and one with POISON is a bus error of its partition (R208,
R211, R25); through SP it is the spine's, which carries a unicast for the other folio on. -/
def arbLeft (s : State) (c : Nat) (l : Leaving) : State :=
  let f := l.flit
  let h := f.hdr.toNat
  if l.port = 0 then
    let s := s.send (.flit c 0 f.hdr f.payload)
    if f.hdr.getLsbD 7 then
      match clusterAt s c, sitePart s c with
      | some cl, some p => if (s.part p).hasCluster cl then noteFault s p { cls := 5, time := s.time, cluster := cl } else s
      | _, _ => s
    else s
  else
    let w := bitsOf f.payload.toNat 63 0
    let k := openFolioKey f
    let dest := if bitOf h 2 then (if w % 4 = 0 && siteFolio (bitsOf w 18 2) ≠ siteFolio c then some (bitsOf w 18 2) else none)
      else NMap.get none s.fab.openFolio k
    let s := { s with fab := { s.fab with openFolio := NMap.set none s.fab.openFolio k (if bitOf h 3 then none else dest) } }
    match dest with
    | some d => crossFolio s f d l.cycle
    | none => s.send (.flit c 6 f.hdr f.payload)

/-- A flit whose cycle has come has left the fabric. -/
def hasLeft (c : Nat) (s : State) (l : Leaving) : State :=
  match l.stream with
  | some n => if l.port = 0 then streamDeliver s c n l.slot l.flit else s.send (.flit c 6 l.flit.hdr l.flit.payload)
  | none => arbLeft s c l

def leaveAll (s : State) (c cycle : Nat) : State :=
  let r := s.router c
  let (due, rest) := r.leaving.partition fun l => decide (l.cycle ≤ cycle)
  due.foldl (hasLeft c) (s.setRouter c { r with leaving := rest })

/-! #### One fabric cycle of one router -/

/-- Fixed-line flits that no entry has taken in the cycle are strays (R209). -/
def dropStrays (s : State) (c cycle slot : Nat) : State :=
  let r := s.router c
  let (left, rest) := r.fl.partition fun f => decide (f.cycle ≤ cycle)
  left.foldl (fun s f =>
    if fencedAt s c f.port f.flit.hdr then fenceDrop s c f.port slot f.flit.hdr else collision s c 0 f.port slot f.flit.hdr)
    (s.setRouter c { r with fl := rest })

/-- R205: fabric cycle `cycle` at the router of site `c`, which its folio reaches when every router has carried out the cycle
before (R189). Flits due leave, allocated arbitrated flits cross; each entry that covers the slot takes its inputs and places
its outputs; a fixed-line flit that no entry takes is a stray; then outputs are allocated for the next cycle (R212). -/
def execFixedLineSlot (c cycle : Nat) (s : State) : Host.Outcome State Fault Refusal :=
  match s.toCycle cycle with
  | none => .next s
  | some s1 =>
    let r := s1.router c
    if !siteValid c || !(s1.folio (siteFolio c)).inService || decide (cycle < r.nextCycle) || r.arbIn.any (fun f => decide (f.cycle ≤ cycle)) then .next s
    else
      let s1 := s1.setRouter c { r with nextCycle := cycle + 1 }
      let s1 := crossAll (leaveAll s1 c cycle) c cycle
      let (slot, s1) := slotEntries s1 c cycle
      .next (allocate (dropStrays s1 c cycle slot) c cycle)

/-- R210: at c0, the first cycle with c mod 3 = 0 at or after START_TIME, every router of the region begins slot 0. -/
def execScheduleStart (p cycle : Nat) (s : State) : Host.Outcome State Fault Refusal :=
  let x := s.part p
  if startDue s x && cycle == firstStart s x then
    match s.toCycle cycle with
    | some s => .next (s.setPart p { s.part p with schedArmed := false, schedRunning := true, schedC0 := some cycle })
    | none => .next s
  else .next s

/-! #### Arrivals (R197, R211, R212) -/

/-- What an agent may inject: VC and PRIO as the packet type has them, a head where no packet is in progress and only there, at
most five flits to a packet (R211), the injecting router in SRC and SPN as R190 has them; a multicast is one flit on VC2 or
VC3, injected at a spine port inside its target (R201). -/
def mayInject (s : State) (c port : Nat) (f : Flit) : Bool :=
  let r := s.router c
  let h := f.hdr.toNat
  let vc := flitVc f.hdr
  let w := bitsOf f.payload.toNat 63 0
  let n := NMap.get 0 r.inLen (4 * port + vc)
  let (x, y) := physOf (siteIdx c)
  bitOf h 6 == (vc % 2 == 1) && flitSrc f.hdr == c && bitOf h 25 == (port == 6) && bitOf h 2 == (n == 0) && (decide (n < 4) || bitOf h 3) &&
    (!bitOf h 2 || w % 4 != 2 ||
      (port == 6 && bitOf h 3 && decide (2 ≤ vc) && decide (bitsOf w 4 2 ≤ x / 26) && decide (x / 26 ≤ bitsOf w 7 5) &&
        decide (bitsOf w 10 8 ≤ y / 16) && decide (y / 16 ≤ bitsOf w 13 11))) &&
    decide (r.buffered port vc < 8) && decide (NMap.get 0 r.inAt port ≤ s.fab.cycle) && (port != 6 || spineAligned s.fab.cycle)

/-- The flit of an event at an input, taken from the link it stands on, or injected. -/
def takeArrival (s : State) (c port : Nat) (f : Flit) : Option State :=
  let r := s.router c
  let onLink := r.arbIn.find? fun x => x.port = port
  if (match onLink with | some x => decide (x.flit = f) && decide (x.cycle ≤ s.fab.cycle) | none => false) then
    some (s.setRouter c { r with arbIn := r.arbIn.eraseIdx (r.arbIn.findIdx fun x => x.port = port) })
  else if (port == 0 || port == 6) && mayInject s c port f then
    let k := 4 * port + flitVc f.hdr
    some (s.setRouter c { r with
      inAt := NMap.set 0 r.inAt port (s.fab.cycle + 1)
      inLen := NMap.set 0 r.inLen k (if f.hdr.getLsbD 3 then 0 else NMap.get 0 r.inLen k + 1) })
  else none

/-- R197: an arbitrated flit enters a router in the present fabric cycle: the oldest one on the link of that input, so that
packets keep their order (R202), or one that a cluster or the spine injects. In a slot in which an entry consumes the input it
stands there as a class mismatch (R209); else it is routed. -/
def execArbitratedFlitArrival (c port : Nat) (f : Flit) (s : State) : Host.Outcome State Fault Refusal :=
  if !siteValid c || !(s.folio (siteFolio c)).inService || !hasPort c port || !f.hdr.getLsbD 0 || f.hdr.getLsbD 1 then .next s
  else
    match takeArrival s c port f with
    | none => .next s
    | some s1 =>
      let r := s1.router c
      if decide (r.nextCycle ≤ s1.fab.cycle) && consumedAt s1 c s1.fab.cycle port then
        let r := if f.hdr.getLsbD 3 then r.setOpen port (flitVc f.hdr) none else r.setOpen port (flitVc f.hdr) (some [])
        .next (s1.setRouter c { r with fl := r.fl ++ [⟨port, s1.fab.cycle, f⟩] })
      else .next (routeArb s1 c port f)

/-- R212: the packet of the n-th waiting flit has waited 64 cycles since its RC. -/
def execPacketAged (c n : Nat) (s : State) : Host.Outcome State Fault Refusal :=
  let r := s.router c
  match r.arb[n]? with
  | some a =>
    if a.aged || decide (s.fab.cycle < a.rc + 64) then .next s
    else
      let s := s.setRouter c { r with arb := r.arb.map fun x => if x.key = a.key && flitSrc x.flit.hdr = flitSrc a.flit.hdr then { x with aged := true } else x }
      .next (match clusterAt s c with
        | some cl => s.observe { ev := 0x12, part := sitePart s c, kind := 4, src := cl }
        | none => s)
  | none => .next s

/-! #### Multicast by the command processor (R201, R211) -/

/-- The word of a multicast to the gatherings tx0-tx1, ty0-ty1 in the leaves of a mask. -/
def multicastWord (tx0 tx1 ty0 ty1 leaves : Nat) : Nat :=
  packFields [(2, 0, 2), (tx0, 2, 3), (tx1, 5, 3), (ty0, 8, 3), (ty1, 11, 3), (leaves, 14, 2)]

/-- The flit of a multicast that a spine port injects: one flit, head and tail, on a channel with its priority. -/
def multicastFlit (p0 vc word : Nat) : Flit :=
  mkFlit (withHpar (packFields [(1, 0, 1), (3, 2, 2), (vc, 4, 2), (vc % 2, 6, 1), (p0, 8, 17), (1, 25, 1)])) (BitVec.ofNat 256 word)

/-- The multicast put at P0, to be taken in from its SP input. -/
def injectMulticast (s : State) (p0 vc word : Nat) : State :=
  s.setRouter p0 { s.router p0 with arbIn := (s.router p0).arbIn ++ [⟨6, s.fab.cycle, multicastFlit p0 vc word⟩] }

/-- The lowest spine port of a gathering in leaf L. -/
def gathPort (folio g : Nat) : Nat :=
  siteCode folio 0 (idxAt ((spineRows.find? fun x => x / 26 = g % 6).getD 4) (16 * (g / 6)))

/-- A control message to a partition's region: one target in each folio in which it has a rectangle, both leaves (R201).
DESIGN CHOICE: P0 is the lowest spine port of the target's first gathering (log 27). -/
def regionMulticast (s : State) (p : Nat) : State :=
  ([0, 1] : List Nat).foldl (fun s f =>
    match (s.part p).rect f with
    | some r =>
      if (s.folio f).inService then
        injectMulticast s (gathPort f (6 * tyOf r.y0 + r.x0 / 25)) 3 (multicastWord (r.x0 / 25) (r.x1 / 25) (tyOf r.y0) (tyOf r.y1) 3)
      else s
    | none => s) s

/-- A message to a district: one packet for each gathering of its row, in its leaf (R194, R201). -/
def districtMulticast (s : State) (d vc : Nat) : State :=
  let (f, leaf, ty) := (d / 16, d / 8 % 2, d % 8)
  if !(s.folio f).inService then s
  else (List.range 6).foldl (fun s tx =>
    let p0 := siteCode f leaf (siteIdx (gathPort f (6 * ty + tx)))
    injectMulticast s p0 vc (multicastWord tx tx ty ty (2 ^ leaf))) s

end Sys2Proof.Machine
end

