-- ==== Sys2Proof/Machine/Ctl.lean ====
section
/-! DEFINITION. Control flow, barriers and fences (spec/03_cores_and_thread_groups.md R74-R77,
spec/04_instruction_set.md R110, R111, R113, spec/06_memory_model.md R168-R171). -/

namespace Sys2Proof.Machine

/-- pc + 4 * off for a signed offset of `w` bits, modulo 2^48 (R110). -/
def branchTarget (pc : BitVec 48) (off : Nat) (w : Nat) : BitVec 48 :=
  BitVec.ofInt 48 (pc.toNat + 4 * sextInt off w)

/-- Groups of block slot `b` of a cluster. -/
def blockGroups (c : Cluster) (b : Nat) : List (Nat × Group) :=
  c.groups.filter fun e => e.2.live && e.2.bslot = b

/-- Barrier `n` of a block complete: every group of it has arrived or ended (R77). -/
def barrierDone (c : Cluster) (b n : Nat) : Bool :=
  (blockGroups c b).all fun e => e.2.ended || e.2.barrier == some n

/-- Completed barriers of a block released (R77). -/
def releaseBarriers (c : Cluster) (b : Nat) : Cluster :=
  (List.range 4).foldl (fun c n =>
    if barrierDone c b n then
      { c with groups := NMap.mapVals {} (fun _ g =>
          if g.live && g.bslot = b && g.barrier == some n then { g with barrier := none } else g) c.groups }
    else c) c

/-- The effect of EXIT on a group's masks (R76): pops until a mask is non-zero, or the group ends. -/
def exitPop : List RcEntry → Group → Group
  | [], g => { g with stack := [], ended := true }
  | e :: es, g =>
    if e.mask = 0 then exitPop es g
    else { g with pc := e.pc, active := e.mask, rpc := e.rpc, stack := es }

def exitLanes (g : Group) (lanes : BitVec 8) : Group :=
  let st := g.stack.map fun e => { e with mask := e.mask &&& ~~~lanes }
  let g := { g with active := g.active &&& ~~~lanes, stack := st }
  if g.active = 0 then exitPop st g else g

/-- Whether loads or atomics of a group have not returned (R168, R171). -/
def outstanding (s : State) (g : Grp) : Bool :=
  s.hostReads.any fun h => match h.kind with
    | .lane g' .. => g' = g
    | .scalar g' .. => g' = g
    | _ => false

/-- R110: none. -/
def execNop (g : Grp) (s : State) : Host.Outcome State Fault Refusal :=
  .next (coreStep s g { vector := false } fun s _ _ _ => .done s)

/-- R110: pc = pc + 4 × OFF24. -/
def execJmp (g : Grp) (off : BitVec 24) (s : State) : Host.Outcome State Fault Refusal :=
  .next (coreStep s g { vector := false } fun s gr _ _ => .done s (some (branchTarget gr.pc off.toNat 24)))

/-- R74, R110: the uniform branch. -/
def execBr (g : Grp) (nz : Bool) (sc : BitVec 4) (off : BitVec 20) (s : State) : Host.Outcome State Fault Refusal :=
  .next (coreStep s g { sr := [sc.toNat], vector := false } fun s gr _ _ =>
    .done s (if (gr.s sc.toNat ≠ 0) = nz then some (branchTarget gr.pc off.toNat 20) else none))

/-- R74, R75: the divergent branch. -/
def execBrd (g : Grp) (p : BitVec 3) (t : BitVec 10) (j : BitVec 11) (s : State) : Host.Outcome State Fault Refusal :=
  .next (coreStep s g { ill := j == 0, psrc := [p.toNat], vector := false } fun s gr _ _ =>
    let take := gr.active &&& gr.p p.toNat
    let fall := gr.active &&& ~~~(gr.p p.toNat)
    let tgt := branchTarget gr.pc t.toNat 10
    let join := gr.pc + BitVec.ofNat 48 (4 * j.toNat)
    if take = 0 then .done s
    else if fall = 0 then .done s (some tgt)
    else
      let st := if join ≠ gr.rpc then ⟨join, gr.active, gr.rpc⟩ :: gr.stack else gr.stack
      let st := ⟨tgt, take, join⟩ :: st
      if 32 < st.length then .flt 6 0 0
      else .done (s.setGroup g { gr with stack := st, active := fall, rpc := join }))

/-- The link pair written (R111). -/
def setLink (gr : Group) (lp : Nat) (ret : BitVec 48) : Group :=
  (gr.setS (2 * lp) (ret.setWidth 32)).setS (2 * lp + 1) ((ret >>> 32).setWidth 32)

/-- R110, R111. -/
def execCall (g : Grp) (lp : BitVec 3) (off : BitVec 21) (s : State) : Host.Outcome State Fault Refusal :=
  .next (coreStep s g { sr := [2 * lp.toNat, 2 * lp.toNat + 1], ssrc := [], vector := false } fun s gr _ _ =>
    .done (s.setGroup g (setLink gr lp.toNat (gr.pc + 4))) (some (branchTarget gr.pc off.toNat 21)))

/-- R110, R111: a target with bits [1:0] not zero is an instruction-fetch fault that carries it. DESIGN CHOICE (log 29): where LP and
TP name one pair, the target is the pair's value before the link is written; the table does not say in which order the two
happen. -/
def execCallr (g : Grp) (lp tp : BitVec 3) (s : State) : Host.Outcome State Fault Refusal :=
  .next (coreStep s g {
      sr := [2 * lp.toNat, 2 * lp.toNat + 1, 2 * tp.toNat, 2 * tp.toNat + 1], ssrc := [2 * tp.toNat, 2 * tp.toNat + 1], vector := false } fun s gr _ _ =>
    let tgt := gr.pair tp.toNat
    if tgt % 4 ≠ 0 then .flt 3 0 tgt
    else .done (s.setGroup g (setLink gr lp.toNat (gr.pc + 4))) (some (BitVec.ofNat 48 tgt)))

/-- R110, R111. -/
def execRet (g : Grp) (tp : BitVec 3) (s : State) : Host.Outcome State Fault Refusal :=
  .next (coreStep s g { sr := [2 * tp.toNat, 2 * tp.toNat + 1], vector := false } fun s gr _ _ =>
    let tgt := gr.pair tp.toNat
    if tgt % 4 ≠ 0 then .flt 3 0 tgt else .done s (some (BitVec.ofNat 48 tgt)))

/-- R76: the executing lanes retire; a group that ends counts as arrived at every barrier (R77) and its
reservations break (R176). -/
def execExit (g : Grp) (pg : BitVec 3) (s : State) : Host.Outcome State Fault Refusal :=
  .next (coreStep s g { pg := pg.toNat, vector := false } fun s gr _ lanes =>
    let gr' := exitLanes gr lanes
    if gr'.ended then
      let s := s.setGroup g gr'
      let s := s.setCluster g.cl (releaseBarriers (s.cluster g.cl) gr.bslot)
      .done { s with mem := dropGroupResvs s.mem g }
    else if gr.active &&& ~~~lanes = 0 then .done (s.setGroup g gr') (some gr'.pc)
    else .done (s.setGroup g gr'))

/-- R77: the group arrives, and issues nothing further until every group of the block has arrived or ended. -/
def execBar (g : Grp) (n : BitVec 2) (s : State) : Host.Outcome State Fault Refusal :=
  .next (coreStep s g { vector := false } fun s gr _ _ =>
    let s := s.setGroup g { gr with barrier := some n.toNat }
    .done (s.setCluster g.cl (releaseBarriers (s.cluster g.cl) gr.bslot)))

/-- R113, R168-R171: in this model an access is performed in the step that issues it, but for reads and AtomicOps
of host memory that have not returned: the fence completes, and the group goes on, once none is outstanding. -/
def execFence (g : Grp) (scope kind : BitVec 2) (s : State) : Host.Outcome State Fault Refusal :=
  let _ := scope
  .next (coreStep s g { ill := kind == 0, vector := false } fun s _ _ _ => if outstanding s g then .hold else .done s)

end Sys2Proof.Machine
end

