-- ==== Sys2Proof/Machine/Block.lean ====
section
/-! DEFINITION. Blocks and contexts: admission, zeroing, release and completion
(spec/03_cores_and_thread_groups.md R61-R68, R92, R562). -/

namespace Sys2Proof.Machine

/-- The lowest base at which `n` units fit below `limit` beside the used intervals (base, length). -/
def lowestFit (used : List (Nat × Nat)) (n limit : Nat) : Option Nat :=
  let free (x : Nat) : Bool := decide (x + n ≤ limit) && used.all fun u => decide (x + n ≤ u.1) || decide (u.1 + u.2 ≤ x)
  (0 :: used.map fun u => u.1 + u.2).foldl (fun best x =>
    if free x then (match best with | none => some x | some b => some (min b x)) else best) none

/-- Register intervals in use on a core. -/
def coreUsed (c : Cluster) (core : Nat) : List (Nat × Nat) :=
  (c.groups.filter fun e => e.2.live && e.1 / 4 = core).map fun e => (e.2.vbase, 8 * (c.block e.2.bslot).vregs)

/-- One group placed: lowest free group slot of its core, lowest free run of registers, its registers zeroed
(R61, R63, R65). -/
def placeGroup (c : Cluster) (b gidx vregs entry args : Nat) : Option Cluster :=
  let core := (gidx + b) % 4
  match lowestBelow 4 (fun t => !(c.group core t).live), lowestFit (coreUsed c core) (8 * vregs) 1024 with
  | some t, some base =>
    let g : Group := {
      live := true, bslot := b, gidx := gidx, vbase := base, pc := BitVec.ofNat 48 entry, active := 0xFF
      sregs := NMap.set 0 (NMap.set 0 [] 0 (BitVec.ofNat 32 args)) 1 (BitVec.ofNat 32 (args >>> 32 % 65536)) }
    let lo := core * 1024 + base
    let hi := lo + 8 * vregs
    let out (k : Nat) : Bool := decide (k < lo) || decide (hi ≤ k)
    some ({ c with vrf := c.vrf.filter fun e => out e.1, vrfBad := c.vrfBad.filter out }.setGroup core t g)
  | _, _ => none

/-- Groups `gidx` on of a block placed, `n` of them. -/
def placeGroups (c : Cluster) (b vregs entry args : Nat) : Nat → Nat → Option Cluster
  | 0, _ => some c
  | n + 1, gidx =>
    match placeGroup c b gidx vregs entry args with
    | some c => placeGroups c b vregs entry args n (gidx + 1)
    | none => none

/-- One block admitted into the lowest free block slot, where it fits (R61, R66). -/
def admitBlock (c : Cluster) (k : Nat) (x : Ctx) (index : Nat) : Option Cluster :=
  match lowestBelow 4 (fun b => !(c.block b).used) with
  | none => none
  | some b =>
    let used := (c.blocks.filter fun e => e.2.used && e.2.scrSize ≠ 0).map fun e => (e.2.scrBase, e.2.scrSize)
    match lowestFit (if x.scratch = 0 then [] else used) x.scratch 16384 with
    | none => none
    | some base =>
      let ahead := c.blocks.any fun e => e.2.used && e.2.zeroing
      let order := c.blocks.foldl (fun m e => max m (e.2.order + 1)) 0
      let bl : Block := {
        used := true, ctx := k, part := x.part, index := index, groups := x.groups, vregs := x.vregs
        scrBase := base, scrSize := x.scratch, zeroing := x.scratch ≠ 0 || ahead, order := order }
      placeGroups (c.setBlock b bl) b x.vregs x.entry x.args x.groups 0

/-- Blocks admitted one after another, all or none (R62, R68). -/
def admitAll (c : Cluster) (k : Nat) (x : Ctx) : List Nat → Option Cluster
  | [] => some c
  | i :: is =>
    match admitBlock c k x i with
    | some c => admitAll c k x is
    | none => none

/-- The occupancy of a kernel: blocks an otherwise empty cluster holds at once (R66, R68). -/
def occupancy (x : Ctx) : Nat :=
  let fits (n : Nat) : Bool := (admitAll {} 0 x (List.range n)).isSome
  (lowestBelow 5 (fun n => !fits n)).getD 5 - 1

/-- Total blocks of a context's grid. -/
def Ctx.total (x : Ctx) : Nat := x.gx * x.gy * x.gz

/-- The stamp of a context's first block's start (R350). -/
def stampStart (s : State) (k : Nat) : State :=
  let x := s.ctx k
  if x.started.isNone then s.setCtx k { x with started := some s.time } else s

/-- BLOCK_START of the blocks of a cluster that started (R523). -/
def blockStarts (s : State) (cl : Nat) (bs : List Block) : State :=
  bs.foldl (fun s b => s.observe {
    ev := 0x0A, part := some b.part, kind := 4, src := cl
    payload := packFields [(b.index, 0, 32), ((s.ctx b.ctx).id.toNat, 32, 16)] }) s

/-- A context whose block has started, where no zeroing holds it back. -/
def startIfReady (s : State) (cl k : Nat) : State :=
  let started := (s.cluster cl).blocks.filter fun e => e.2.used && e.2.ctx = k && !e.2.zeroing
  if started.isEmpty then s else stampStart s k

/-- STREAMED contexts of a partition with blocks left to offer, in launch order. -/
def streamedCtxs (s : State) (p : Nat) : List Nat :=
  NMap.keysWhere (fun _ x => x.live && !x.ended && x.part == p && !x.placed && decide (x.next < x.total)) s.ctxs

/-- The STREAMED context of a partition whose block has been on offer longest. -/
def oldestStream (s : State) (p : Nat) : Option Nat :=
  (streamedCtxs s p).foldl (fun m k => match m with
    | some j => if (s.ctx k).offered < (s.ctx j).offered then some k else some j
    | none => some k) none

/-- Whether nothing offered to cluster `c` before the block on offer of STREAMED context `k` waits there, and the block fits. -/
def hasRoom (s : State) (c k : Nat) : Bool :=
  (s.cluster c).offers.all (fun o => decide ((s.ctx k).offered < o.order)) && (admitBlock (s.cluster c) k (s.ctx k) 0).isSome

/-- Blocks that started at once when a cluster went from `c` to `c'`. -/
def newBlocks (c c' : Cluster) : List Block :=
  (c'.blocks.filter fun e => e.2.used && !e.2.zeroing && !(c.block e.1).used).map Prod.snd

/-- A STREAMED block admitted by a cluster, if no cluster of lower number has room for it (R62); the next is offered. -/
def admitStream (s : State) (cl p k : Nat) : State :=
  let c := s.cluster cl
  let x := s.ctx k
  let lower := (List.range ((s.part p).index cl)).any fun n => hasRoom s ((s.part p).nth n) k
  match admitBlock c k x x.next with
  | some c' =>
    if lower then s
    else
      let n := s.offerNext
      let s := { (s.setCluster cl c').setCtx k { x with next := x.next + 1, offered := n } with offerNext := n + 1 }
      blockStarts (startIfReady s cl k) cl (newBlocks c c')
  | none => s

/-- A PLACED offer admitted once all its blocks fit (R62, R68). -/
def admitOffer (s : State) (cl : Nat) (o : Offer) (rest : List Offer) : State :=
  let c := s.cluster cl
  match admitAll c o.ctx (s.ctx o.ctx) o.blocks with
  | some c' => blockStarts (startIfReady (s.setCluster cl { c' with offers := rest }) cl o.ctx) cl (newBlocks c c')
  | none => s

/-- R61-R68: the cluster takes what was offered to it first, a PLACED offer or the block on offer of a STREAMED context; until
that fits it waits and holds back what was offered later. A frozen partition starts no block (R354). -/
def execBlockAdmission (cl : Nat) (s : State) : Host.Outcome State Fault Refusal :=
  let c := s.cluster cl
  match partOf s cl with
  | none => .next s
  | some p =>
    if (s.part p).st ≠ .running || !(s.part p).notes.isEmpty then .next s
    else
      match c.offers, oldestStream s p with
      | [], none => .next s
      | [], some k => .next (admitStream s cl p k)
      | o :: rest, none => .next (admitOffer s cl o rest)
      | o :: rest, some k =>
        .next (if (s.ctx k).offered < o.order then admitStream s cl p k else admitOffer s cl o rest)

/-- R562: the scratch of a block reads zero and its groups start, after the zeroing of every block admitted before it; blocks
admitted together took their slots in increasing order. -/
def execScratchZeroingEnd (cl bslot : Nat) (s : State) : Host.Outcome State Fault Refusal :=
  let c := s.cluster cl
  let b := c.block bslot
  if b.used && b.zeroing && c.blocks.all (fun e => !(e.2.used && e.2.zeroing && decide (e.2.order < b.order))) then
    let c := { c with
      scratch := ByteMap.zero c.scratch b.scrBase b.scrSize
      scratchBad := c.scratchBad.filter fun x => decide (x < b.scrBase) || decide (b.scrBase + b.scrSize ≤ x) }
    .next (blockStarts (stampStart (s.setCluster cl (c.setBlock bslot { b with zeroing := false })) b.ctx) cl [b])
  else .next s

/-- Whether work of block slot `b` still reads its scratch or names its descriptors (R68, R133, R244). -/
def blockBusy (s : State) (cl b : Nat) : Bool :=
  let c := s.cluster cl
  let own (o : ChainOwner) : Bool := o.bslot == b
  (c.mx.queues.any fun q => q.2.any fun e => own e.owner) || c.mx.incomplete.any own ||
  (match c.mx.current with | some ch => own ch.owner | none => false) ||
  (c.tdOps.any fun o => own o.owner) ||
  (c.td.any fun e => e.2.bslot = b && (match e.2.red with | some r => r.opActive || !r.outQ.isEmpty | none => false)) ||
  (s.hostReads.any fun h => match h.kind with
    | .lane g .. => g.cl == cl && (s.group g).bslot == b
    | .scalar g .. => g.cl == cl && (s.group g).bslot == b
    | _ => false)

/-- R68: registers, group slots, scratch, block slot and descriptor slots of a finished block released. -/
def execBlockRelease (cl bslot : Nat) (s : State) : Host.Outcome State Fault Refusal :=
  let c := s.cluster cl
  let b := c.block bslot
  if b.used && !b.zeroing && (blockGroups c bslot).all (fun e => e.2.ended) && !blockBusy s cl bslot then
    let c := (NMap.keysWhere (fun _ t => (t.live || t.closing) && t.bslot == bslot) c.td).foldl freeTd c
    let c := { c with groups := NMap.mapVals {} (fun _ g => if g.live && g.bslot = bslot then {} else g) c.groups }
    let s := s.setCluster cl (c.setBlock bslot {})
    let x := s.ctx b.ctx
    .next (s.setCtx b.ctx { x with retired := x.retired + 1 })
  else .next s

end Sys2Proof.Machine
end

