-- ==== Sys2Proof/Machine/Queue.lean ====
section
/-! DEFINITION. Queue pairs: opening and closing, doorbells, fetching and replies (spec/12_host_command_protocol.md R340-R347). -/

namespace Sys2Proof.Machine

/-! #### Replies (R344, R346) -/

/-- Whether the completion ring has no room (R344). -/
def Queue.ringFull (q : Queue) : Bool := (q.cqTail.toNat + 1) % 2 ^ q.cqLog2.toNat == q.cqHead.toNat

/-- The 32 bytes of a reply. -/
def replyBytes (q : Queue) (f n : Nat) (r : Reply) : List Byte :=
  leBytes r.status 1 ++ [r.opcode] ++ leBytes (b2n q.phase) 1 ++ leBytes r.detail 1 ++ leBytes r.tag.toNat 4 ++ leBytes q.sqHead.toNat 2 ++
    leBytes (n + 16 * f) 2 ++ List.replicate 4 0 ++ leBytes r.lo.toNat 8 ++ leBytes r.hi.toNat 8

/-- The oldest reply of a queue written, and its interrupt sent. -/
def writeReply (s : State) (f n : Nat) : State :=
  let q := s.queue f n
  match q.replies with
  | [] => s
  | r :: rest =>
    if !q.replying || q.ringFull then s
    else
      let bs := replyBytes q f n r
      let s := s.send (.hostWrite f (q.cqBase.toNat + 32 * q.cqTail.toNat) bs)
      let tail := (q.cqTail.toNat + 1) % 2 ^ q.cqLog2.toNat
      let q := { q with replies := rest, cqTail := BitVec.ofNat 16 tail, phase := if tail = 0 then !q.phase else q.phase }
      let s := s.setQueue f n q.settle
      let s := if r.irq then s.send (.msix f q.vec.toNat) else s
      let s := s.observe { ev := 0x51, part := r.part, payload := packFields [
        (r.opcode.toNat, 0, 8), (r.tag.toNat, 8, 32), (n + 16 * f, 40, 16), (r.status, 56, 8)] }
      let o := s.mem.obs
      let s := if r.opcode = 0x60 && r.status = 0 && o.armed then { s with mem := { s.mem with obs := { o with armed := false, run := true } } } else s
      journalDone s ⟨f, n, r.seq⟩ bs

/-- Whether a store of partition p that an OWN carries, or another of its writes, has still to be performed at a slice (R92, R279). -/
def storesPending (s : State) (p : Nat) : Bool :=
  let mine (r : SliceMsg) : Bool := match r with
    | .own c _ | .wb c _ => (s.part p).hasCluster c
    | _ => false
  let write (r : SliceReq) : Bool := mine r.msg || (r.part == some p && (match r.msg with | .atomic | .write _ => true | _ => false))
  s.mem.txns.any (fun x => mine x.req) ||
    s.spine.sliceQ.any fun e => e.2.ports.any write || e.2.waiting.any write || e.2.queue.any fun x => write x.req

/-! #### Opening and closing (R342) -/

/-- Commands of a queue that have started. -/
def Queue.onlyStarted (q : Queue) : Queue := { q with cmds := q.cmds.filter Cmd.started, fetching := false }

/-- A queue closed with no further reply (R338, R339): what has started runs on and its outcome is lost. -/
def Queue.shut (q : Queue) : Queue :=
  if q.state = 0 then q
  else { q.onlyStarted with state := 3, replies := [], closingOpen := false, opening := false, enable := false }.settle

/-- Host reads of entries of a queue given up. -/
def dropFetch (s : State) (f q : Nat) : State :=
  { s with hostReads := s.hostReads.filter fun h => h.kind ≠ .entry f q }

/-- The checks of an open in order: OPEN_ERR, 0 where it succeeds. -/
def openCheck (q : Queue) (f : Nat) : Nat :=
  let (sl, cl) := (q.sqLog2.toNat, q.cqLog2.toNat)
  if sl < 4 || 16 < sl || cl < sl || 16 < cl || (f != 0 && decide (15 < q.vec.toNat)) || q.verMin = 0 || q.verMax < q.verMin then 2
  else if q.sqBase.toNat % 4096 ≠ 0 || q.cqBase.toNat % 4096 ≠ 0 || 2 ^ 48 < q.sqBase.toNat + 64 * 2 ^ sl ||
      2 ^ 48 < q.cqBase.toNat + 32 * 2 ^ cl then 3
  else if 1 < q.verMin.toNat then 1
  else 0

/-- An open begun: BUSY until its outcome comes. -/
def beginOpen (q : Queue) : Queue := { q with enable := true, state := 3, opening := true, closingOpen := false, cmds := [], replies := [] }

/-- The outcome of an open. -/
def endOpen (q : Queue) (f : Nat) : Queue :=
  let e := openCheck q f
  if e ≠ 0 then { q with enable := false, state := 0, opening := false, openErr := BitVec.ofNat 4 e }
  else { q with
    opening := false, enable := true, state := 1, version := 1, openErr := 0, sqHead := 0, cqTail := 0, sqTail := 0, cqHead := 0, phase := true
    closingOpen := false, fetching := false, cmds := [], replies := [], lastSeq := none, lastFailed := false }

/-- A queue that is OPEN or in ERROR closed. -/
def closeQueue (s : State) (f n : Nat) : State :=
  let q := s.queue f n
  if q.state = 1 || q.state = 2 then
    let q := { q.onlyStarted with state := 3, closingOpen := q.state = 1, enable := false }
    dropFetch (s.setQueue f n q.settle) f n
  else s

/-- A write of the CTRL word of CMD_QCFG (R340, R342). -/
def writeCtrl (s : State) (f n : Nat) (v : BitVec 64) : State :=
  let q := s.queue f n
  if q.state = 0 then
    let q := { q with
      sqLog2 := v.extractLsb' 1 5, cqLog2 := v.extractLsb' 6 5, vec := v.extractLsb' 11 6, verMin := v.extractLsb' 17 4
      verMax := v.extractLsb' 21 4 }
    s.setQueue f n (if v.getLsbD 0 then beginOpen q else q)
  else if v.getLsbD 0 then s else closeQueue s f n

/-- Whether the device is in service. -/
def State.up (s : State) : Bool := s.rst.ready && s.rst.wait = .none_

/-- A function's configuration space. -/
def State.pcie (s : State) (f : Nat) : PcieFn := NMap.get {} s.host.cfg f
def State.setPcie (s : State) (f : Nat) (x : PcieFn) : State := { s with host := { s.host with cfg := NMap.set {} s.host.cfg f x } }

/-- Whether the BARs of function f answer Unsupported Request although the device is in service: between the steps of its reset
(R338), or in D3hot (R334). -/
def State.fnOff (s : State) (f : Nat) : Bool := s.host.flr.contains f || (s.pcie f).d3hot

/-- A request of function f handled as Unsupported Request: counted, and reported through AER (R337). -/
def countUr (s : State) (f : Nat) : State :=
  let s := { s with host := { s.host with urSent := satAdd s.host.urSent 1 0xFFFF } }
  s.setPcie f { s.pcie f with aerUr := true }

/-- Base camp mode with the host port's configuration space up: every BAR access is an Unsupported Request (R494). -/
def State.camp (s : State) : Bool :=
  let r := s.rst
  r.vddAux && r.baseCamp && r.wait = .none_ && !r.mgtRom && r.lastCause ≠ 1 && r.lastCause ≠ 3

/-- A posted write where function f's BARs are not served: an Unsupported Request in base camp and where the function is off, else
ignored (R337, R338, R486). -/
def postedOutside (s : State) (f : Nat) : State := if s.camp || s.up then countUr s f else s

/-- A queue enters ERROR (R345). -/
def queueError (s : State) (f n : Nat) (code : BitVec 4) : State :=
  dropFetch (s.setQueue f n { (s.queue f n).onlyStarted with state := 2, openErr := code, replies := [], closingOpen := false }) f n

/-! #### Fetching (R344, R347) -/

/-- A queue from which an entry may be fetched. -/
def Queue.canFetch (q : Queue) : Bool :=
  q.state = 1 && q.sqHead ≠ q.sqTail && decide ((q.cmds.filter fun c => !c.started).length < 8)

/-- The queue served next: in rotating order of 16 f + q after the one served last. -/
def nextQueue (s : State) : Option Nat :=
  ((List.range 1040).map fun d => (s.lastServed + 1 + d) % 1040).find? fun k => (NMap.get {} s.queues k).canFetch

/-- An entry read: the command joins its queue. -/
def takeEntry (s : State) (f n : Nat) (bs : List Byte) : State :=
  let q := s.queue f n
  let c : Cmd := { seq := s.seqNext, bytes := bs, prev := q.lastSeq, prevFailed := q.lastFailed }
  let s := { s with seqNext := s.seqNext + 1 }
  let s := s.setQueue f n { q with
    fetching := false, cmds := q.cmds ++ [c], lastSeq := some c.seq, lastFailed := false
    sqHead := BitVec.ofNat 16 ((q.sqHead.toNat + 1) % 2 ^ q.sqLog2.toNat) }
  journalFetch s ⟨f, n, c.seq⟩ bs

/-- A failed host read counted (R337). -/
def countReadErr (s : State) : State := { s with host := { s.host with readErr := satAdd s.host.readErr 1 0xFFFF } }

/-- The answer to the read of an entry. -/
def entryAnswer (s : State) (f q : Nat) : HostResult → State
  | .data bs => if bs.length = 64 then takeEntry s f q bs else s
  | .poisoned _ _ => queueError s f q 4
  | .failed _ => queueError (countReadErr s) f q 4
  | .timeout _ => queueError (countReadErr s) f q 4

end Sys2Proof.Machine
end

