-- ==== Sys2Proof/Machine/Cmd.lean ====
section
/-! DEFINITION. How a host command starts, is refused or held (spec/12_host_command_protocol.md R346-R352), memory as
commands see it, and the commands that copy, launch, freeze and reset (R350, R351, R353-R359). -/

namespace Sys2Proof.Machine

/-! #### Starting a command (R346, R347) -/

/-- What the protocol says of an opcode: which packets it is, who may issue it, and which parameter bits it defines as
(byte, lowest bit, width). -/
structure CmdDef where
  sel : Nat → Bool
  pfOnly : Bool := false
  needPart : Bool := false
  config : Bool := false
  params : List (Nat × Nat × Nat) := []
  /-- NOP and QUERY answer for an ABSENT partition too -/
  absentOk : Bool := false

/-- FREEZE, PART_RESET, PART_DESTROY. -/
def expeditedOp (op : Nat) : Bool := op == 0x16 || op == 0x17 || op == 0x21

/-- The opcodes of R350. -/
def knownOp (op : Nat) : Bool :=
  decide (op ≤ 2) || (decide (0x10 ≤ op) && decide (op ≤ 0x1A)) || (decide (0x20 ≤ op) && decide (op ≤ 0x29)) || op == 0x30 || op == 0x31 ||
    (decide (0x40 ≤ op) && decide (op ≤ 0x44)) || op == 0x48 || (decide (0x50 ≤ op) && decide (op ≤ 0x53)) || op == 0x60 || op == 0x61

/-- A parameter of a packet: `n` bytes from byte `o`, as a number. -/
def Cmd.arg (c : Cmd) (o n : Nat) : Nat := c.field o n

/-- Bits of a packet that version 1 does not define (R342, R346). -/
def Cmd.reservedBits (c : Cmd) (f : Nat) (d : CmdDef) : Bool :=
  let v := leNat c.bytes >>> 64
  let m := packFields (d.params.map fun x => (2 ^ x.2.2 - 1, 8 * (x.1 - 8) + x.2.1, x.2.2))
  bitsOf (c.field 1 1) 7 3 != 0 || bitsOf (c.field 2 1) 7 7 != 0 || (f != 0 && bitsOf (c.field 2 1) 5 0 != 0) ||
    bitsOf (c.field 3 1) 7 7 != 0 || v &&& m != v

/-- The partition number a command acts for; 64 for none. -/
def Cmd.partN (c : Cmd) (f : Nat) : Nat := (c.part f).getD 64

/-- The refusals that do not depend on the opcode's own rules. -/
def generalRefusals (f : Nat) (c : Cmd) (d : CmdDef) : List Nat :=
  (if knownOp c.opcode then [] else [0x04]) ++
  (if f ≠ 0 && (d.pfOnly || bitOf (c.field 2 1) 6) then [0x05] else []) ++
  (if c.reservedBits f d || (f = 0 && d.needPart && (c.part f).isNone) then [0x06] else [])

/-- Whether some earlier command of the queue has not completed. -/
def Queue.earlier (q : Queue) (seq : Nat) : Bool := q.cmds.any fun x => decide (x.seq < seq)

/-- Whether a configuration command must wait (R347). -/
def configWaits (s : State) (c : Cmd) : Bool :=
  s.cfgBusy.isSome ||
    (!expeditedOp c.opcode && s.queues.any fun e => e.2.cmds.any fun x =>
      !x.started && configOp x.opcode && (expeditedOp x.opcode || decide (x.seq < c.seq)))

/-- The command of a queue that may start next with an opcode that `sel` takes. -/
def nextCmd (q : Queue) (sel : Nat → Bool) : Option Cmd :=
  match q.cmds.find? fun c => !c.started && expeditedOp c.opcode && sel c.opcode with
  | some c => some c
  | none =>
    match q.cmds.find? fun c => !c.started with
    | some c => if sel c.opcode then some c else none
    | none => none

def minOf : List Nat → Nat
  | [] => 0
  | x :: xs => xs.foldl min x

/-- A command marked as started. -/
def markStarted (s : State) (r : CmdRef) : State :=
  let q := s.queue r.f r.q
  s.setQueue r.f r.q { q with cmds := q.cmds.map fun x => if x.seq = r.seq then { x with started := true, startTime := s.time } else x }

/-- What the command started changes at once: the phase of its partition, the configuration turn, its journal record. -/
def beginCmd (s : State) (r : CmdRef) (c : Cmd) (p : Nat) : State :=
  let s := markStarted s r
  let s := s.observe { ev := 0x50, part := partOpt p, payload := packFields [
    (c.opcode, 0, 8), (c.field 4 4, 8, 32), (r.q + 16 * r.f, 40, 16)] }
  journalStart s r

/-- A host command: turned away while it may not start, a fault event or reset of its partition among the reasons (R348, R357);
completed with the lowest refusal that applies; else `act`. A command of a VF, or one that needs a partition, whose partition is
ABSENT is UNAVAILABLE (R352, R356). Expedited commands start whatever their FENCE and CHAIN
bits (DEDUCED: they start as soon as they are fetched). -/
def runCmd (s : State) (f q : Nat) (d : CmdDef) (ready : State → Nat → Cmd → Bool) (refuse : State → Nat → Cmd → List Nat)
    (act : State → CmdRef → Nat → Cmd → State) : Host.Outcome State Fault Refusal :=
  let x := s.queue f q
  match (if s.up then nextCmd x d.sel else none) with
  | none => .next s
  | some c =>
    let r : CmdRef := ⟨f, q, c.seq⟩
    let p := c.partN f
    let chained := c.chain && c.prev.isSome && !expeditedOp c.opcode
    if !expeditedOp c.opcode && ((c.fence && x.earlier c.seq) || (chained && x.cmds.any fun y => c.prev = some y.seq)) then .next s
    else if decide (p < 64) && s.eventOpen p then .next s
    else if chained && c.prevFailed then .next (refuseCmd (markStarted s r) r 0x03)
    else if d.config && configWaits s c then .next s
    else if !ready s p c then .next s
    else
      let general := generalRefusals f c d
      let absent := decide (p < 64) && !d.absentOk && (f ≠ 0 || d.needPart) && (s.part p).st = .absent
      let own := if absent && f ≠ 0 then [] else if general.isEmpty then refuse s p c else []
      let codes := general ++ own ++ (if absent then [0x0D] else [])
      let s := beginCmd s r c p
      if !codes.isEmpty then
        let s := if minOf codes = 0x10 then { s with tok := { s.tok with refusals := satAdd s.tok.refusals 1 0xFFFF } } else s
        .next (refuseCmd s r (minOf codes))
      else
        let s := if bitOf (c.field 3 1) 6 && decide (p < 64) then setPhase s p (some (BitVec.ofNat 6 (c.field 3 1))) else s
        .next (act (if d.config then { s with cfgBusy := some r } else s) r p c)

def always (_ : State) (_ : Nat) (_ : Cmd) : Bool := true
def noRefusal (_ : State) (_ : Nat) (_ : Cmd) : List Nat := []

/-- A signed 64-bit parameter. -/
def Cmd.sarg (c : Cmd) (o : Nat) : Int := sextInt (c.field o 8) 64

/-! #### Memory as commands see it (R349) -/

/-- How far an agent goes in one piece from an address: to the end of its sector, or of its 8 bytes of a near-bank
window. -/
def pieceAt (a n : Nat) : Nat :=
  match rangeOf a with
  | .nbWin => min n (8 - a % 8)
  | _ => min n (32 - a % 32)

/-- One piece read for partition p (64: none): bytes, and whether they came in error. -/
def pieceRead (s : State) (p a n : Nat) : State × List Byte × Bool :=
  match rangeOf a with
  | .nbWin => (s, leBytes (nbRead s.mem a n) n, false)
  | _ =>
    let (s, bs, e) := engineRead s p a n
    (s, bs, e.isSome)

def pieceWrite (s : State) (p a : Nat) (bs : List Byte) : State :=
  match rangeOf a with
  | .nbWin => { s with mem := nbWrite s.mem (s.part p).allocs p a bs.length (leNat bs) }
  | _ => engineWrite s p a bs

/-- `n` bytes from `a` on, at most `fuel` pieces, up to the first that comes in error. -/
def spanRead (p : Nat) : Nat → State → Nat → Nat → State × List Byte × Bool
  | 0, s, _, _ => (s, [], false)
  | fuel + 1, s, a, n =>
    if n = 0 then (s, [], false)
    else
      let k := pieceAt a n
      let (s, bs, e) := pieceRead s p a k
      if e then (s, [], true)
      else
        let (s, rest, e) := spanRead p fuel s (a + k) (n - k)
        (s, bs ++ rest, e)

def spanWrite (p : Nat) : Nat → State → Nat → List Byte → State
  | 0, s, _, _ => s
  | fuel + 1, s, a, bs =>
    if bs.isEmpty then s
    else
      let k := pieceAt a bs.length
      spanWrite p fuel (pieceWrite s p a (bs.take k)) (a + k) (bs.drop k)

/-- Bytes written from an address on; to the host window as one write. -/
def putBytes (s : State) (p a : Nat) (bs : List Byte) : State :=
  if rangeOf a = .hostWin then (if bs.isEmpty then s else s.send (.hostWrite (hostFn p) (a - hostBase) bs))
  else spanWrite p (bs.length + 1) s a bs

/-- Whether a range must wait: for a transaction on one of its lines, a held range of scratch, or a cut (R281, R133,
R407). -/
def spanHeld (s : State) (a n : Nat) (write : Bool) : Bool :=
  match rangeOf a with
  | .dram | .spine =>
    (s.mem.txns.any fun t => decide (a / 128 ≤ t.line) && decide (t.line * 128 < a + n)) ||
      (write && !s.mem.mirrors.isEmpty && (List.range (n / 4096 + 2)).any fun i => s.mem.ropeHolds (min (a + 4096 * i) (a + n - 1)))
  | .scratchWin =>
    write && s.cl.any fun e => e.2.mx.held.any fun h =>
      let b := 0x030000000000 + e.1 * 0x4000 + h.base
      decide (b < a + n) && decide (a < b + h.len)
  | _ => false

/-- Why a command may not use an operand range: a command for a partition, outside its data allocations; one that names
none, outside stack DRAM, the spine-only regions and the host window (R349, R551). -/
def rangeRefusal (s : State) (p a n : Nat) : List Nat :=
  if p < 64 then (if dataAllowed s p a n then [] else [0x07])
  else
    let k := rangeOf a
    if k == rangeOf (a + n - 1) && (k == .dram || k == .spine || k == .hostWin) then [] else [0x06]

/-! #### NOP, QUERY, TIME_SYNC (R350, R428) -/

/-- R350: NOP; a packet with a reserved opcode is completed with BAD_OPCODE here too. -/
def execNopCommand (f q : Nat) (s : State) : Host.Outcome State Fault Refusal :=
  runCmd s f q { sel := fun op => op == 0 || !knownOp op, absentOk := true } always noRefusal fun s r _ _ => succeed0 s r

/-- The schedule bits of QUERY. -/
def schedBits (x : Part) : Nat := b2n x.sched.isSome + 2 * b2n x.schedRunning

def partCode : PartSt → Nat
  | .absent => 0
  | .idle => 1
  | .running => 2
  | .frozen => 3

/-- R350, R353. -/
def execQuery (f q : Nat) (s : State) : Host.Outcome State Fault Refusal :=
  runCmd s f q { sel := (· == 1), needPart := true, absentOk := true } always noRefusal fun s r p _ =>
    let x := s.part p
    if x.st = .absent then succeed s r 0 0
    else succeed s r (BitVec.ofNat 64 (partCode x.st + 2 ^ 8 * (s.runningCtxs p).length + 2 ^ 16 * schedBits x)) x.lastFault

/-- TIME_SYNC packets of one MODE; those with a reserved MODE go with mode 0. -/
def timeSync (f q : Nat) (s : State) (mode : Nat) (refuse : State → Int → Bool) (act : State → Int → State) :
    Host.Outcome State Fault Refusal :=
  let mine (op : Nat) : Bool := op == 2 && (match nextCmd (s.queue f q) (· == 2) with
    | some c => let m := c.arg 8 1; m == mode || (mode == 0 && decide (3 ≤ m))
    | none => false)
  runCmd s f q { sel := mine, pfOnly := true, config := true, params := [(8, 0, 8), (16, 0, 64)] } always
    (fun s _ c => if decide (3 ≤ c.arg 8 1) || refuse s (c.sarg 16) then [0x06] else [])
    fun s r _ c =>
      let t := s.clk.master
      let s := act s (c.sarg 16)
      succeed s r t s.clk.master

def execTimeSyncRead (f q : Nat) (s : State) : Host.Outcome State Fault Refusal :=
  timeSync f q s 0 (fun _ o => o != 0) fun s _ => s

/-- Whether a partition is RUNNING or its schedule ARMED. -/
def Part.active (x : Part) : Bool := x.st = .running || x.schedArmed

def execTimeSyncStep (f q : Nat) (s : State) : Host.Outcome State Fault Refusal :=
  timeSync f q s 1 (fun s o => decide (o < 0) && s.parts.any fun e => e.2.active)
    fun s o => { s with clk := { s.clk with master := s.clk.master + BitVec.ofInt 64 o, tsLeft := 0, tsCount := 0 } }

def execTimeSyncSlew (f q : Nat) (s : State) : Host.Outcome State Fault Refusal :=
  timeSync f q s 2 (fun _ o => decide (1000000 < o.natAbs)) fun s o => { s with clk := { s.clk with tsLeft := o, tsCount := 0 } }

/-! #### LAUNCH (R351, R348, R62, R67) -/

/-- The context a LAUNCH packet describes. -/
def launchCtx (r : CmdRef) (p : Nat) (c : Cmd) : Ctx :=
  let g := c.arg 26 1
  { live := true, part := p, id := BitVec.ofNat 16 (c.arg 24 2), entry := c.arg 8 6, args := c.arg 16 6, groups := bitsOf g 3 0 + 1
    vregs := 8 * (c.arg 27 1 % 16 + 1), scratch := c.arg 28 1 % 128 * 256, gx := c.arg 32 2, gy := c.arg 34 2, gz := c.arg 36 2
    placed := !bitOf g 4, cmd := r }

/-- The cases of R67. -/
def Ctx.tooBig (x : Ctx) : Bool := decide (128 < ceilDiv x.groups 4 * x.vregs) || decide (16384 < x.scratch)

/-- Whether a partition's rectangles hold a dead position or clusters of a folio out of service (R27, R31). -/
def rectUnavailable (s : State) (f : Nat) : Option Rect → Bool
  | none => false
  | some r =>
    let fo := if f = 0 then s.fab.folio0 else s.fab.folio1
    !fo.inService || fo.dead.any fun n => r.contains (n % 150) (n / 150)

def partUnavailable (s : State) (p : Nat) : Bool :=
  let x := s.part p
  x.st = .absent || rectUnavailable s 0 x.f0 || rectUnavailable s 1 x.f1

def launchRefusals (s : State) (p : Nat) (c : Cmd) : List Nat :=
  let x := launchCtx ⟨0, 0, 0⟩ p c
  (if x.entry % 4 ≠ 0 then [0x06] else []) ++
  (if (s.part p).st ≠ .absent && !codeAllowed s p x.entry 4 then [0x07] else []) ++
  (if x.gx = 0 || x.gy = 0 || x.gz = 0 || decide (2 ^ 32 < x.total) || x.tooBig ||
      (x.placed && decide ((s.part p).size * occupancy x < x.total)) then [0x08] else []) ++
  (if partUnavailable s p then [0x0D] else []) ++ (if (s.part p).st = .frozen then [0x0F] else [])

/-- The blocks of a PLACED grid that partition cluster n of C runs. -/
def placedBlocks (total n c : Nat) : List Nat := (List.range (ceilDiv (total - n) c)).map fun i => n + c * i

/-- A PLACED context's blocks offered to every cluster of its partition. -/
def offerPlaced (s : State) (k : Nat) (x : Ctx) : State :=
  let part := s.part x.part
  (List.range (min part.size x.total)).foldl (fun s n =>
    let cl := part.nth n
    let c := s.cluster cl
    s.setCluster cl { c with offers := c.offers ++ [⟨x.part, k, placedBlocks x.total n part.size, x.offered⟩] }) s

/-- R351: a context started. -/
def execLaunch (f q : Nat) (s : State) : Host.Outcome State Fault Refusal :=
  runCmd s f q { sel := (· == 0x10), needPart := true, params := [
      (8, 0, 48), (16, 0, 48), (24, 0, 16), (26, 0, 5), (27, 0, 4), (28, 0, 7), (32, 0, 16), (34, 0, 16), (36, 0, 16)] }
    (fun s p _ => decide ((s.runningCtxs p).length < 16)) launchRefusals fun s r p c =>
      let x := { launchCtx r p c with offered := s.offerNext }
      let k := s.ctxNext
      let s := { s.setCtx k x with ctxNext := k + 1, offerNext := s.offerNext + 1 }
      let s := s.setPart p { s.part p with st := .running }
      if x.placed then offerPlaced s k x else s

/-! #### COPY, FILL, CODE_WRITE (R350, R352, R84, R85) -/

/-- A transfer's command completed, its bytes for the host sent first; after a CODE_WRITE the partition's instruction caches are empty
(R85). -/
def endXfer (s : State) (x : Xfer) (status : Nat) : State :=
  let s := if x.toHost.isEmpty then s else s.send (.hostWrite (hostFn x.part) (x.dst - x.toHost.length - hostBase) x.toHost)
  let s := if x.op ≠ 0x11 then s
    else { s with cl := NMap.mapVals {} (fun k y => if (s.part x.part).hasCluster k then { y with icache := [] } else y) s.cl }
  completeCmd s x.cmd status 0 0 0

/-- How far a transfer goes in one piece. -/
def Xfer.piece (x : Xfer) : Nat :=
  let n := pieceAt x.dst x.left
  match x.src with
  | .mem a => pieceAt a n
  | _ => n

/-- The tokens of a request into the spine spent, and its turn at the slice taken. -/
def sendPiece (s : State) (p a : Nat) : State :=
  if spineSectors a = 0 then s else (spendTokens s cmdRequester (partOpt p) (spineSectors a)).takeTurn (a / 128)

/-- Whether a transfer's next piece may go: tokens for its requests, their turn, and nothing that holds its lines or scratch. -/
def xferMayGo (s : State) (x : Xfer) : Bool :=
  let n := x.piece
  let turn (a : Nat) : Bool := spineSectors a = 0 || s.inTurn (a / 128) (·.requester == cmdRequester)
  let (cost, held) := match x.src with
    | .mem a => (spineSectors a, spanHeld s a n false || !turn a)
    | _ => (0, false)
  hasTokens s cmdRequester (partOpt x.part) (cost + spineSectors x.dst) && !held && !spanHeld s x.dst n true && turn x.dst

/-- One piece moved; none where the source came in error. -/
def xferPiece (s : State) (x : Xfer) : State × Option Xfer :=
  let n := x.piece
  let (s, bs, src, bad) := match x.src with
    | .mem a =>
      let (s, bs, e) := pieceRead (sendPiece s x.part a) x.part a n
      (s, bs, XferSrc.mem (a + n), e)
    | .bytes bs => (s, bs.take n, .bytes (bs.drop n), false)
    | .fill v base => (s, (List.range n).map fun i => BitVec.ofNat 8 (v >>> (8 * ((x.dst + i - base) % 8))), .fill v base, false)
  let y := { x with src := src, dst := x.dst + n, left := x.left - n }
  if bad then (s, none)
  else if rangeOf x.dst = .hostWin then (s, some { y with toHost := x.toHost ++ bs })
  else (pieceWrite (sendPiece s x.part x.dst) x.part x.dst bs, some y)

/-- A transfer carried on while its requests may go: done, stopped by a poisoned sector with the bytes before it written (R352), or
kept. -/
def runXfer : Nat → State → Xfer → State
  | 0, s, x => { s with xfers := s.xfers ++ [x] }
  | fuel + 1, s, x =>
    if x.left = 0 then endXfer s x 0
    else if !xferMayGo s x then { s with xfers := s.xfers ++ [x] }
    else
      match xferPiece s x with
      | (s, some x) => runXfer fuel s x
      | (s, none) => endXfer s x 0x12

/-- Transfers that wait carried on, in the order they started. -/
def pumpXfers (s : State) : State := s.xfers.foldl (fun s x => runXfer (x.left + 1) s x) { s with xfers := [] }

/-- A transfer begun with the bytes of its source. -/
def startXfer (s : State) (r : CmdRef) (p : Nat) (c : Cmd) (src : XferSrc) (dst n : Nat) : State :=
  runXfer (n + 1) s { cmd := r, op := c.opcode, part := p, src := src, dst := dst, left := n }

/-- COPY and CODE_WRITE: a source in the host window is asked of the host first. -/
def copyStart (s : State) (r : CmdRef) (p : Nat) (c : Cmd) : State :=
  let (src, n) := (c.arg 8 8, c.arg 24 8)
  if rangeOf src = .hostWin then sendHostRead s (hostFn p) [(src - hostBase, n)] (.command r)
  else startXfer s r p c (.mem src) (c.arg 16 8) n

/-- The transfers of some commands dropped. -/
def dropXfers (s : State) (rs : List CmdRef) : State := { s with xfers := s.xfers.filter fun x => !rs.contains x.cmd }

def lengthBad (n : Nat) : Bool := n == 0 || decide (2 ^ 40 < n)

/-- Frozen, or for code a running context (R353, R354). -/
def frozenCode (s : State) (p : Nat) : List Nat := if decide (p < 64) && (s.part p).st = .frozen then [0x0F] else []

def copyRefusals (s : State) (p : Nat) (c : Cmd) : List Nat :=
  let (src, dst, n) := (c.arg 8 8, c.arg 16 8, c.arg 24 8)
  (if lengthBad n || (decide (src < dst + n) && decide (dst < src + n)) then [0x06] else []) ++
  (if lengthBad n then [] else rangeRefusal s p src n ++ rangeRefusal s p dst n) ++ frozenCode s p

def execCopy (f q : Nat) (s : State) : Host.Outcome State Fault Refusal :=
  runCmd s f q { sel := (· == 0x12), params := [(8, 0, 192)] } always copyRefusals copyStart

def codeRefusals (s : State) (p : Nat) (c : Cmd) : List Nat :=
  let (src, dst, n) := (c.arg 8 8, c.arg 16 8, c.arg 24 8)
  let bad := lengthBad n || n % 4 != 0
  (if bad then [0x06] else []) ++
  (if bad then [] else rangeRefusal s p src n ++ (if codeAllowed s p dst n then [] else [0x07])) ++
  (if (s.part p).st = .frozen then [0x0F] else if !(s.runningCtxs p).isEmpty then [0x0E] else [])

def execCodeWrite (f q : Nat) (s : State) : Host.Outcome State Fault Refusal :=
  runCmd s f q { sel := (· == 0x11), needPart := true, params := [(8, 0, 192)] } always codeRefusals copyStart

def execFill (f q : Nat) (s : State) : Host.Outcome State Fault Refusal :=
  runCmd s f q { sel := (· == 0x13), params := [(8, 0, 192)] } always
    (fun s p c =>
      let (dst, n) := (c.arg 8 8, c.arg 16 8)
      (if lengthBad n then [0x06] else rangeRefusal s p dst n) ++ frozenCode s p)
    fun s r p c => startXfer s r p c (.fill (c.arg 24 8) (c.arg 8 8)) (c.arg 8 8) (c.arg 16 8)

/-! #### FREEZE, PART_RESET, FLR (R338, R339, R354, R355) -/

/-- Whether a group of the partition holds a reservation. -/
def partResvs (s : State) (p : Nat) : Nat := (s.mem.resvs.filter fun r => (s.part p).hasCluster r.grp.cl).length

/-- Every reservation of the partition broken, its groups stopped (R178). -/
def breakResvs (s : State) (p : Nat) : State :=
  let x := s.part p
  { s with mem := { s.mem with resvs := s.mem.resvs.filter fun r => !x.hasCluster r.grp.cl } }

/-- A partition frozen: it starts nothing more; while groups hold reservations the freeze waits for its deadline. -/
def freezePart (s : State) (p : Nat) (r : CmdRef) : State :=
  let s := stopSched s p
  let wait := 0 < partResvs s p
  s.setPart p { s.part p with
    st := .frozen, freezing := if wait then some r else none, freezeStamp := if wait then (s.part p).freezeStamp else s.time }

/-- The contents of the codebooks of a partition's clusters are lost (R46). -/
def loseCodebooks (s : State) (p : Nat) : State :=
  let x := s.part p
  let ks := NMap.keysWhere (fun k c => x.hasCluster k && c.codebook ≠ []) s.cl
  ks.foldl (fun s k =>
    { s.setCluster k { s.cluster k with codebook := [], cbLost := some s.freeCtr, cbLoaded := [] } with freeCtr := s.freeCtr + 1 }) s

/-- Commands of a partition that have been fetched and are not complete, but one. -/
def partCmds (s : State) (p : Nat) (but : Option CmdRef) : List CmdRef :=
  s.queues.flatMap fun e => (e.2.cmds.filter fun c => c.part (e.1 / 16) = some p).filterMap fun c =>
    let r : CmdRef := ⟨e.1 / 16, e.1 % 16, c.seq⟩
    if some r = but then none else some r

/-- The work of a partition ended and what it used released (R355 steps 1 and 2): every command fetched for it but `but`
completes ABORTED. Step 3 comes when those outcomes have been written. -/
def resetPart (s : State) (p : Nat) (but : Option CmdRef) (e : ResetEnd) : State :=
  let s := stopSched s p
  let s := dropPartition s p
  let s := dropFabric s p
  let s := dropEngines s p
  let chans := NMap.keysWhere (fun _ n => n.ownerValid && n.owner.toNat = p) s.mem.nbu
  let s := { s with mem := chans.foldl (fun m c => m.setNbu c (nbMode (m.nbuAt c) p false (m.nbuAt c).version)) s.mem }
  let s := loseCodebooks s p
  let rs := partCmds s p but
  let s := dropXfers { s with hostReads := s.hostReads.filter fun h => match h.kind with | .command r => !rs.contains r | _ => true } rs
  let s := { s with ctxs := NMap.mapVals {} (fun _ x => if x.part = p then { x with ended := true } else x) s.ctxs }
  let s := rs.foldl (fun s r => refuseCmd s r 0x03) s
  let x := s.part p
  if x.st = .absent then s
  else s.setPart p { x with
    st := if x.st = .running then .frozen else x.st, notes := [], freezing := none, awaits := x.awaits ++ rs, reset := some e }

/-- FREEZE and PART_RESET of an ABSENT partition. -/
def absentRefusal (s : State) (p : Nat) (_ : Cmd) : List Nat := if (s.part p).st = .absent then [0x0D] else []

end Sys2Proof.Machine
end

