-- ==== Sys2Proof/Machine/Bar4.lean ====
section
/-! DEFINITION. What waits at the host port and the command processor's port: answers of the host port, accesses of BAR4 in arrival
order (spec/06_memory_model.md R174, R182, spec/12 R336, R337), and transfers (R349). -/

namespace Sys2Proof.Machine

/-- A request handled as Unsupported Request, counted; a posted write has no completion (R337). -/
def answerUr (s : State) (f : Nat) (posted : Bool) : State :=
  let s := countUr s f
  if posted then s else s.send (.completion f .ur)

/-- A completion with data. -/
def answerData (s : State) (f : Nat) (bs : List Byte) : State := s.send (.completion f (.data bs))

/-- A completion with EP set, counted (R336). -/
def answerPoisoned (s : State) (f : Nat) (bs : List Byte) : State :=
  { s with host := { s.host with poisonedCpl := satAdd s.host.poisonedCpl 1 0xFFFF } }.send (.completion f (.poisoned bs))

/-- The partition a function's BAR4 accesses act for; 64 for the PF. -/
def bar4Part (f : Nat) : Nat := if f = 0 then 64 else f - 1

/-- The slice operation of a PCIe AtomicOp of 4 or 8 bytes; none for the 128-bit CAS. -/
def pcieSliceOp (op : PcieAtomic) (size : Nat) (a b : BitVec 64) : Option SliceOp :=
  match op, size with
  | .fetchAdd, 4 => some (.add32 (a.setWidth 32))
  | .fetchAdd, 8 => some (.add64 a)
  | .swap, 4 => some (.xchg32 (a.setWidth 32))
  | .swap, 8 => some (.xchg64 a)
  | .cas, 4 => some (.cas32 (a.setWidth 32) (b.setWidth 32))
  | .cas, 8 => some (.cas64 a b)
  | _, _ => none

def Bar4Op.size : Bar4Op → Nat
  | .read n => n
  | .write bs => bs.length
  | .atomic _ n _ _ => n

def Bar4Op.writes : Bar4Op → Bool
  | .read _ => false
  | _ => true

/-- Tokens of an access: its sectors, those of an AtomicOp once (R277, R292). -/
def Bar4Req.sectors (x : Bar4Req) : Nat := (x.addr + x.op.size - 1) / 32 + 1 - x.addr / 32

/-- A write turned away by a hold of R407 is counted. -/
def countHold (s : State) (a n : Nat) : State :=
  if spanHeld s a n true && !spanHeld s a n false then { s with rope := { s.rope with holds := satAdd s.rope.holds 1 0xFFFF } } else s

/-- Whether an access may be served: its lines free and its turn come, and tokens for its sectors. -/
def bar4MayGo (s : State) (x : Bar4Req) : Bool :=
  !spanHeld s x.addr x.op.size x.op.writes && turnOf s x.addr x.op.size (·.requester == hostRequester) &&
    hasTokens s hostRequester (partOpt (bar4Part x.f)) x.sectors

/-- An access served. An AtomicOp on raw lines of a channel in near-bank mode completes with Completer Abort (R326). -/
def serveBar4 (s : State) (x : Bar4Req) : State :=
  let p := bar4Part x.f
  let s := takeLines (spendTokens (s.acting (partOpt p)) hostRequester (partOpt p) x.sectors) x.addr x.op.size
  match x.op with
  | .read n =>
    let (m, bs, e) := uncachedRead s.mem s.time (s.ways p) x.addr n
    let s := { s with mem := m }
    if e.isSome then answerPoisoned s x.f bs else answerData s x.f bs
  | .write bs => { s with mem := uncachedWrite s.mem s.time (s.ways p) x.addr bs }
  | .atomic op n a b =>
    if isNbRaw s.mem x.addr then s.send (.completion x.f .ca)
    else
      match pcieSliceOp op n a b with
      | none => s
      | some sop =>
        let (m, old, e) := sliceAtomicAt s.mem s.time (s.ways p) x.addr sop
        let s := { s with mem := m }
        if e then answerPoisoned s x.f (leBytes old n) else answerData s x.f (leBytes old n)

/-- Accesses served in arrival order up to the first that may not be: writes are performed in that order and a read returns only once
the writes before it have been performed (R182). -/
def serveBar4s : List Bar4Req → State → State
  | [], s => s
  | x :: xs, s =>
    if bar4MayGo s x then serveBar4s xs (serveBar4 s x)
    else
      let s := { s with host := { s.host with bar4 := x :: xs } }
      if x.op.writes then countHold s x.addr x.op.size else s

def pumpBar4 (s : State) : State := serveBar4s s.host.bar4 { s with host := { s.host with bar4 := [] } }

/-- Everything that waits at the two ports carried on. -/
def pumpPorts (s : State) : State := pumpEngines (pumpXfers (pumpBar4 s))

end Sys2Proof.Machine
end

