-- ==== Sys2Proof/Machine/Maint.lean ====
section
/-! DEFINITION. Maintenance tokens (spec/19_fault_coverage_and_colophon.md R509-R511), and the lines of the slices as
configuration commands change them (spec/10_spine_cache.md R274, R287, R290, R291). -/

namespace Sys2Proof.Machine

/-! #### Tokens -/

/-- Whether a hold is still held: until its reply is written, or lost. -/
def holdActive (s : State) (h : TokHold) : Bool :=
  match h.cmd with
  | none => true
  | some r => let q := s.queue r.f r.q; q.cmds.any (fun c => c.seq = r.seq) || q.replies.any (fun c => c.seq = r.seq)

def State.holds (s : State) : List TokHold := s.tok.holds.filter (holdActive s)

/-- Whether two activities want one token, not both shared. -/
def TokHold.conflicts (a b : TokHold) : Bool :=
  (a.lnk.isSome && a.lnk == b.lnk) || (a.gath.isSome && a.gath == b.gath) || a.stk &&& b.stk != 0 ||
    (a.vddqExcl && (b.vddqExcl || b.vddqShared)) || (b.vddqExcl && a.vddqShared) || (a.obs && b.obs) || (a.mgt && b.mgt) ||
    (a.pmb && b.pmb) || (a.scrub && b.scrub) || (a.scrub && b.stk != 0) || (b.scrub && a.stk != 0)

/-- Whether an activity cannot take its tokens (R510). -/
def tokensBusy (s : State) (h : TokHold) : Bool := s.holds.any h.conflicts

/-- BUSY where an activity cannot take its tokens. -/
def busyToken (s : State) (h : TokHold) : List Nat := if tokensBusy s h then [0x10] else []

/-- The tokens taken. -/
def takeTokens (s : State) (h : TokHold) : State := { s with tok := { s.tok with holds := s.holds ++ [h] } }

/-- CMD_MAINT[i] (R511). -/
def cmdMaint (s : State) (i : Nat) : BitVec 64 :=
  let hs := s.holds
  let bits (f : TokHold → Option Nat) (lo n : Nat) : Nat := packFields ((List.range n).map fun k => (b2n (hs.any fun h => f h = some (lo + k)), k, 1))
  BitVec.ofNat 64 (match i with
    | 0 => bits (·.lnk) 0 64
    | 1 => bits (·.gath) 0 48
    | 2 => bits (·.gath) 48 48
    | _ => packFields [
        (hs.foldl (fun m h => m ||| h.stk.toNat) 0, 0, 8), (b2n (hs.any (·.vddqExcl)), 8, 1), (b2n (hs.any (·.vddqShared)), 9, 1),
        (b2n (hs.any (·.obs)), 10, 1), (b2n (hs.any (·.mgt)), 11, 1), (b2n (hs.any (·.pmb)), 12, 1), (b2n (hs.any (·.scrub)), 13, 1),
        (s.tok.refusals, 32, 16)])

/-! #### Lines -/

/-- Lines present in a range. -/
def linesIn (m : MemSys) (a n : Nat) : List Nat :=
  NMap.keysWhere (fun ln l => l.present && spansMeet a n (ln * 128) 128) m.lines

/-- Every line of a range written back and invalidated, in the L1s too. -/
def flushRange (m : MemSys) (t : BitVec 64) (a n : Nat) : MemSys := (linesIn m a n).foldl (fun m ln => evictLine m t ln) m

/-- A line dropped from its slice and every L1, with nothing written back. -/
def discardLine (m : MemSys) (ln : Nat) : MemSys := ((holders m ln).foldl (fun m c => l1Drop m c ln) m).setLine ln {}

/-- The anchored lines of partition p in a range become ordinary; spine-only lines stay (R290, R291). -/
def unanchorRange (m : MemSys) (p a n : Nat) : MemSys :=
  { m with lines := NMap.mapVals {} (fun ln l =>
      if l.anchored = some p && rangeOf (ln * 128) == .dram && spansMeet a n (ln * 128) 128 then { l with anchored := none } else l) m.lines }

/-- The free way that a line is anchored in: one of the mask that no other anchored line of its set holds, an empty one
first. -/
def anchorWay (m : MemSys) (ln : Nat) (mask : BitVec 16) : Option Nat :=
  let others := (linesOfSet m (homeSlice m (ln * 128)) (homeSet m (ln * 128))).filter (· ≠ ln)
  let holds (w : Nat) (f : SLine → Bool) : Bool := others.any fun x => (m.lineAt x).way = w && f (m.lineAt x)
  match lowestBelow 16 fun w => mask.getLsbD w && !holds w fun _ => true with
  | some w => some w
  | none => lowestBelow 16 fun w => mask.getLsbD w && !holds w fun l => l.anchored.isSome || l.trace

/-- A line with four zero sectors that has no DRAM behind it (R291). -/
def zeroLine (w used : Nat) : SLine :=
  let z : Sector := { valid := true, dirty := true }
  { present := true, way := w, s0 := z, s1 := z, s2 := z, s3 := z, used := used }

/-- An ordinary line that stands in way `w` of the line's set leaves it. -/
def clearWay (m : MemSys) (t : BitVec 64) (ln w : Nat) : MemSys :=
  ((linesOfSet m (homeSlice m (ln * 128)) (homeSet m (ln * 128))).filter fun x => x ≠ ln && (m.lineAt x).way = w).foldl
    (fun m x => evictLine m t x) m

/-- One line anchored for partition p (R290, R291): a cached line moves, another partition's anchored line too; none where no way
is free. -/
def anchorLine (m : MemSys) (t : BitVec 64) (p ln : Nat) : Option MemSys :=
  let m := (checkSet m t (ln * 128)).tick
  if (m.lineAt ln).present && (m.lineAt ln).anchored = some p then some m
  else
    match anchorWay m ln (NMap.get {} m.partq p).anchorMask with
    | none => none
    | some w =>
      let m := clearWay m t ln w
      let l := m.lineAt ln
      some (if l.present then m.setLine ln { l with way := w, anchored := some p, used := m.useCtr }
        else if rangeOf (ln * 128) != .dram then m.setLine ln { zeroLine w m.useCtr with anchored := some p }
        else (List.range 4).foldl (fun m i => sliceFetchSec m t ln i false)
          (m.setLine ln { present := true, way := w, anchored := some p, used := m.useCtr }))

/-- Lines anchored in increasing order up to the first that cannot be: the memory, and that line. -/
def anchorLines (t : BitVec 64) (p : Nat) : List Nat → MemSys → MemSys × Option Nat
  | [], m => (m, none)
  | ln :: lns, m =>
    match anchorLine m t p ln with
    | some m => anchorLines t p lns m
    | none => (m, some ln)

/-- Line numbers of a range of whole lines. -/
def lineRange (a n : Nat) : List Nat := (List.range (n / 128)).map (a / 128 + ·)

/-- A data entry of an allocation table goes (R291, R350): its spine-only lines are discarded, its other lines unanchored. -/
def freeEntry (m : MemSys) (p : Nat) (e : Alloc) : MemSys :=
  if e.typ ≠ 1 then m
  else
    let (a, n) := (e.basePage * 4096, e.pages * 4096)
    if rangeOf a == .spine then (linesIn m a n).foldl discardLine m else unanchorRange m p a n

/-- The staging area of a roped pair (R409). -/
def stagingStart : Nat := 0x005F80000000
def stagingSize : Nat := 0x80000000

/-! #### The trace buffer's range (R527) -/

def traceBase : Nat := 0x0100FC000000
def onTrace (s : State) (a n : Nat) : Bool := s.mem.obs.size != 0 && spansMeet a n traceBase (s.mem.obs.size * 0x100000)

end Sys2Proof.Machine
end

