-- ==== Sys2Proof/Machine/Part.lean ====
section
/-! DEFINITION. Configuration commands for partitions, schedules, allocations, regions, anchoring, remapping and stacks
(spec/12_host_command_protocol.md R350-R356; spec/07 R206, R210, R214-R221; spec/09 R248; spec/10 R274, R287-R293;
spec/11 R307, R311, R312, R318, R319; spec/20 R527). -/

namespace Sys2Proof.Machine

/-! #### Shares (R276, R288, R293) -/

structure Shares where
  slots : Nat
  rate : Nat
  burst : Nat
  allocMask : Nat
  anchorMask : Nat
  quota : Nat
  unreg : Bool

def sharesOf (c : Cmd) : Shares :=
  { slots := c.arg 24 8, rate := c.arg 32 2, burst := c.arg 34 2, allocMask := c.arg 36 2, anchorMask := c.arg 38 2
    quota := c.arg 40 2, unreg := bitOf (c.arg 42 1) 0 }

def anchorWaysMask (ways : Nat) : Nat := 2 ^ 16 - 2 ^ (16 - ways)

/-- Refusals of a partition's shares. -/
def sharesBad (s : State) (p : Nat) (x : Shares) : List Nat :=
  let others := s.mem.partq.filter fun e => e.1 ≠ p
  let anchors := anchorWaysMask s.mem.anchorWays
  (if (x.burst = 0 && !x.unreg) || x.quota = 0 || decide (928 < x.quota) then [0x06] else []) ++
  (if x.allocMask = 0 || x.allocMask &&& anchors != 0 || x.anchorMask &&& anchors != x.anchorMask ||
      others.any (fun e => e.2.anchorMask.toNat &&& x.anchorMask != 0) ||
      decide (928 < x.quota + (others.map fun e => e.2.entryQuota).sum) ||
      (s.mem.obs.size ≠ 0 && bitOf x.anchorMask s.mem.obs.way) ||
      (List.range 64).any (fun k => bitOf x.slots k && slotOwner s k != 0x40 && slotOwner s k != p)
    then [0x0A] else [])

/-- A partition's shares written: its slots, quotas and tokens. -/
def setShares (s : State) (p : Nat) (x : Shares) : State :=
  let slots := (List.range 64).foldl (fun m k =>
    if bitOf x.slots k then NMap.set 0x40 m k p else if NMap.get 0x40 m k = p then NMap.set 0x40 m k 0x40 else m) s.spine.slots
  { s with
    spine := { s.spine with
      slots := slots
      tokens := NMap.set {} s.spine.tokens p { NMap.get {} s.spine.tokens p with
        rate := BitVec.ofNat 16 x.rate, burst := BitVec.ofNat 16 x.burst, unregulated := x.unreg } }
    mem := { s.mem with partq := NMap.set {} s.mem.partq p ⟨BitVec.ofNat 16 x.allocMask, BitVec.ofNat 16 x.anchorMask, x.quota⟩ } }

/-- Slots, quotas and tokens of a partition back at their reset values. -/
def clearShares (s : State) (p : Nat) : State :=
  { s with
    spine := { s.spine with
      slots := NMap.mapVals 0x40 (fun _ o => if o = p then 0x40 else o) s.spine.slots
      tokens := NMap.set {} s.spine.tokens p {}
      buckets := s.spine.buckets.filter fun e => e.1 % 64 ≠ p }
    mem := { s.mem with partq := NMap.set {} s.mem.partq p {} } }

def shareParams : List (Nat × Nat × Nat) := [(24, 0, 64), (32, 0, 80), (42, 0, 1)]

/-! #### PART_CREATE, PART_SHARES, PART_DESTROY -/

/-- The rectangle that four bytes give. -/
def rectAt (c : Cmd) (o : Nat) : Rect := ⟨c.arg o 1, c.arg (o + 1) 1, c.arg (o + 2) 1, c.arg (o + 3) 1⟩

def createRects (c : Cmd) : Option Rect × Option Rect :=
  (if bitOf (c.arg 8 1) 0 then some (rectAt c 9) else none, if bitOf (c.arg 8 1) 1 then some (rectAt c 13) else none)

def rectRange : Option Rect → Bool
  | none => true
  | some r => decide (max r.x0 r.x1 < 150) && decide (max r.y0 r.y1 < 125)

def rectOrder : Option Rect → Bool
  | none => true
  | some r => decide (r.x0 ≤ r.x1) && decide (r.y0 ≤ r.y1)

def createRefusals (s : State) (p : Nat) (c : Cmd) : List Nat :=
  let (f0, f1) := createRects c
  let reg := Part.region { f0 := f0, f1 := f1 }
  (if rectRange f0 && rectRange f1 then [] else [0x06]) ++ sharesBad s p (sharesOf c) ++
  (if (f0.isNone && f1.isNone) || !(rectOrder f0 && rectOrder f1) || (s.part p).st ≠ .absent ||
      s.parts.any (fun e => e.2.st ≠ .absent && reg.any fun g => e.2.region.contains g) then [0x0A] else []) ++
  (if (f0.isSome && !s.fab.folio0.inService) || (f1.isSome && !s.fab.folio1.inService) then [0x0D] else [])

def execPartCreate (f q : Nat) (s : State) : Host.Outcome State Fault Refusal :=
  runCmd s f q { sel := (· == 0x20), pfOnly := true, needPart := true, config := true, absentOk := true
                 params := [(8, 0, 2), (9, 0, 64)] ++ shareParams } always createRefusals fun s r p c =>
    let (f0, f1) := createRects c
    let x := s.part p
    let s := s.setPart p { st := .idle, f0 := f0, f1 := f1, faultRec := x.faultRec, lastFault := x.lastFault }
    succeed0 (setShares (clearShares s p) p (sharesOf c)) r

def execPartShares (f q : Nat) (s : State) : Host.Outcome State Fault Refusal :=
  runCmd s f q { sel := (· == 0x22), pfOnly := true, needPart := true, config := true, params := shareParams } always
    (fun s p c => sharesBad s p (sharesOf c)) fun s r p c => succeed0 (setShares s p (sharesOf c)) r

/-- What PART_DESTROY does after the reset (R356). -/
def destroyPart (s : State) (p : Nat) : State :=
  let x := s.part p
  let mem := x.allocs.foldl (fun m e => freeEntry m p e.2) s.mem
  let mem := { mem with lines := NMap.mapVals {} (fun _ l => if l.anchored = some p then { l with anchored := none } else l) mem.lines }
  let s := clearShares { s with mem := mem } p
  { s.setPart p { faultRec := x.faultRec, lastFault := x.lastFault } with
    lnk := { s.lnk with jobs := s.lnk.jobs.filter fun j => j.part ≠ some p } }

/-! #### FREEZE, PART_RESET, PART_DESTROY, FLR and Hot Reset (R338, R339, R354-R356) -/

/-- Step 3 of a reset: the partition is IDLE, or destroyed, and the command replies. -/
def finishReset (s : State) (p : Nat) (e : ResetEnd) : State :=
  let s := clearPhase (s.setPart p { s.part p with st := .idle, reset := none, awaits := [] }) p
  let s := if e.destroy then destroyPart s p else s
  match e.cmd with
  | some r => succeed0 s r
  | none => s

/-- What follows once replies have been written or lost: contexts end (R353), and resets whose outcomes have all been written come to
their step 3 (R355). -/
def settleReplies (s : State) : State :=
  let s := reapCtxs s
  (NMap.keysWhere (fun _ x => x.reset.isSome && !x.awaits.any (replyWaits s)) s.parts).foldl (fun s p =>
    match (s.part p).reset with
    | some e => finishReset s p e
    | none => s) s

/-- PART_RESET or PART_DESTROY once the freeze is over. -/
def endReset (s : State) (r : CmdRef) (p : Nat) (destroy : Bool) : State :=
  settleReplies (resetPart s p (some r) { cmd := some r, destroy := destroy })

def execFreeze (f q : Nat) (s : State) : Host.Outcome State Fault Refusal :=
  runCmd s f q { sel := (· == 0x16), needPart := true, config := true } always absentRefusal fun s r p _ =>
    let x := s.part p
    if x.st = .frozen then succeed s r 0 x.freezeStamp
    else
      let s := freezePart s p r
      if (s.part p).freezing.isSome then s else succeed s r 0 s.time

/-- A reset begun: a RUNNING partition is frozen first (R355). -/
def startReset (s : State) (r : CmdRef) (p : Nat) (destroy : Bool) : State :=
  if (s.part p).st = .running then
    let s := freezePart s p r
    if (s.part p).freezing.isSome then s else endReset s r p destroy
  else endReset s r p destroy

def execPartReset (f q : Nat) (s : State) : Host.Outcome State Fault Refusal :=
  runCmd s f q { sel := (· == 0x17), needPart := true, config := true } always absentRefusal fun s r p _ => startReset s r p false

def execPartDestroy (f q : Nat) (s : State) : Host.Outcome State Fault Refusal :=
  runCmd s f q { sel := (· == 0x21), pfOnly := true, needPart := true, config := true } always absentRefusal fun s r p _ =>
    startReset s r p true

/-- R178, R354: a freeze is over where no reservation is left, and at its deadline of 10 µs, when the rest are broken; every group
stops. -/
def execFreezeDeadline (p : Nat) (s : State) : Host.Outcome State Fault Refusal :=
  let x := s.part p
  match x.freezing with
  | none => .next s
  | some r =>
    let n := partResvs s p
    let cmd := (s.queue r.f r.q).cmds.find? fun c => c.seq = r.seq
    let early := match cmd with
      | some c => decide ((s.time - c.startTime).toNat < 10000)
      | none => false
    if n ≠ 0 && early then .next s
    else
      let s := breakResvs (s.setPart p { x with freezing := none, freezeBroken := n, freezeStamp := s.time }) p
      match cmd.map Cmd.opcode with
      | some 0x16 => .next (succeed s r (BitVec.ofNat 64 n) s.time)
      | some 0x21 => .next (endReset s r p true)
      | some _ => .next (endReset s r p false)
      | none => .next s

/-- Step 1 of a Function Level Reset of virtual function v (R338): its queues close, its configuration space reads as after reset and
its BARs are off. -/
def flrStart (s : State) (v : Nat) : State :=
  let s := (List.range 16).foldl (fun s q => dropFetch (s.setQueue v q (s.queue v q).shut) v q) s
  let h := s.host
  let cfg : PcieFn := { msix := (s.pcie v).msix }
  { s with host := { h with
      captures := NMap.set none h.captures v none, cfg := NMap.set {} h.cfg v cfg, flr := if h.flr.contains v then h.flr else h.flr ++ [v] } }

/-- Steps 2 and 3: its partition is reset, its MSI-X table and queue configuration are clear, and it is ready. -/
def flrEnd (s : State) (v : Nat) : State :=
  let s := settleReplies (resetPart s (v - 1) none {})
  { s with
    queues := s.queues.filter fun e => e.1 / 16 ≠ v
    host := { s.host with cfg := NMap.set {} s.host.cfg v {}, flr := s.host.flr.filter (· ≠ v) } }

/-- R338. Another reset of the same function before the end of the first starts at step 1 again. -/
def execFunctionLevelReset (v : Nat) (s : State) : Host.Outcome State Fault Refusal :=
  .next (if s.up && decide (1 ≤ v) && decide (v ≤ 64) then flrStart s v else s)

/-- R339: the configuration spaces at their reset values, every queue closed without replies, every partition with a running context
reset. -/
def execHotReset (s : State) : Host.Outcome State Fault Refusal :=
  let s := { s with host := { s.host with cfg := [] } }
  if !s.up then .next s
  else
    let s := { s with
      queues := NMap.mapVals {} (fun _ q => q.shut) s.queues
      hostReads := s.hostReads.filter fun h => match h.kind with | .entry _ _ => false | _ => true }
    let s := (List.range 64).foldl (fun s p => if (s.runningCtxs p).isEmpty then s else resetPart s p none {}) s
    .next (settleReplies s)

/-! #### Schedules (R206, R210, R350) -/

/-- The records of a schedule image; whether a reserved bit of record k is set. -/
def schedRecs (bs : List Byte) (n : Nat) : List (SchedRec × Bool) :=
  (List.range n).map fun k =>
    let b := (bs.drop (16 * k)).take 16
    let (w, v) := (leNat (b.take 8), leNat (b.drop 8))
    ({ site := bitsOf w 16 0, entry := bitsOf w 39 32, value := BitVec.ofNat 64 v },
      bitsOf w 31 17 != 0 || bitsOf w 63 40 != 0 || bitsOf v 63 54 != 0)

/-- Whether record's entry breaks a check of R206 or R239 by itself. -/
def entryBad (s : State) (region : List Nat) (period : Nat) (x : SchedRec) : Bool :=
  let e := routeOf x.value
  let ports := portsOf (e.inMask ||| e.outMask)
  !siteValid x.site || !region.contains (siteGathKey x.site) ||
    (e.valid && ((e.count ≠ 1 && e.stride = 0) || e.slots.any (fun t => decide (period ≤ t)) ||
      (!e.reduce && (portsOf e.inMask).length != 1) || (e.reduce && ports.contains 6) ||
      ports.any (fun o => !hasPort x.site o || edgeClosed s x.site o) ||
      (ports.contains 0 && !localOpen s x.site) || (ports.contains 5 && (s.router x.site).vBroken) ||
      (ports.contains 6 && (period % 3 != 0 || e.slots.any fun t => t % 3 = 2))))

/-- Whether two entries of a router use an output, or an input, in one slot. -/
def entriesClash (a b : Route) : Bool :=
  (a.outMask &&& b.outMask != 0 || a.inMask &&& b.inMask != 0) && a.slots.any fun t => b.slots.contains t

/-- Whether slots of a cyclic period reserve more than 7 in a row. -/
def longRun : List Bool → Nat → Bool
  | [], _ => false
  | true :: l, n => decide (7 ≤ n) || longRun l (n + 1)
  | false :: l, _ => longRun l 0

def outputOver (period : Nat) (es : List Route) (o : Nat) : Bool :=
  let mine := (es.filter fun e => bitOf e.outMask o).flatMap Route.slots
  let mask := (List.range period).map fun t => mine.contains t
  let aligned := ((List.range period).filter fun t => t % 3 ≠ 2).map fun t => mine.contains t
  let cyclic (l : List Bool) : List Bool := (List.replicate (8 / l.length + 2) l).flatten
  decide (7 * period < 8 * (mask.filter id).length) || longRun (cyclic mask) 0 || (o == 6 && longRun (cyclic aligned) 0)

/-- The last record of each entry of each router, with its place in the image. -/
def lastRecords (rs : List (Nat × SchedRec)) : List (Nat × SchedRec) :=
  rs.filter fun x => !rs.any fun y => decide (x.1 < y.1) && y.2.site = x.2.site && y.2.entry = x.2.entry

/-- The lowest record involved in a failed check (R206). -/
def schedBad (s : State) (p period : Nat) (rs : List (SchedRec × Bool)) : Option Nat :=
  let region := (s.part p).region
  let numbered := (List.range rs.length).zip rs
  let own := (numbered.filter fun x => x.2.2 || entryBad s region period x.2.1).map Prod.fst
  let last := lastRecords (numbered.map fun x => (x.1, x.2.1))
  let valid := last.filter fun x => (routeOf x.2.value).valid && decide ((routeOf x.2.value).slots.all fun t => decide (t < period))
  let shared := (valid.filter fun x =>
    let peers := valid.filter fun y => y.2.site = x.2.site
    peers.any (fun y => y.1 ≠ x.1 && entriesClash (routeOf x.2.value) (routeOf y.2.value)) ||
      (portsOf (routeOf x.2.value).outMask).any (outputOver period (peers.map fun y => routeOf y.2.value))).map Prod.fst
  match own ++ shared with
  | [] => none
  | l => some (minOf l)

/-- A table committed in every router of the region. -/
def commitSched (s : State) (p pm1 : Nat) (rs : List SchedRec) : State :=
  let s := mapRegion (s.setPart p { s.part p with sched := some (rs, pm1) }) p fun r => { r with routes := [], routeBad := [] }
  rs.foldl (fun s x =>
    let r := s.router x.site
    s.setRouter x.site { r with routes := NMap.set 0 r.routes x.entry x.value }) s

/-- A schedule that is armed or runs. -/
def Part.scheduling (x : Part) : Bool := x.schedArmed || x.schedRunning

def frozenPart (s : State) (p : Nat) : List Nat := if (s.part p).st = .frozen then [0x0F] else []

/-- A command's image read from memory or asked of the host; a poisoned source sector ends it with nothing changed. -/
def withImage (s : State) (r : CmdRef) (p a n : Nat) (poisoned : State → State) (k : State → List Byte → State) : State :=
  if n = 0 then k s []
  else if rangeOf a = .hostWin then sendHostRead s (hostFn p) [(a - hostBase, n)] (.command r)
  else
    let (s, bs, bad) := spanRead p (n + 1) s a n
    if bad then poisoned s else k s bs

/-- The refusals of SCHED_LOAD that do not lie in its image. -/
def schedState (s : State) (p : Nat) : List Nat := (if (s.part p).scheduling then [0x0E] else []) ++ frozenPart s p

/-- SCHED_LOAD with its image read: the lowest of the codes that apply (R352). -/
def schedImage (s : State) (r : CmdRef) (p : Nat) (c : Cmd) (bs : List Byte) : State :=
  let pm1 := bitsOf (c.arg 20 2) 9 0
  let rs := schedRecs bs (c.arg 16 4)
  match schedBad s p (pm1 + 1) rs, schedState s p with
  | some k, _ => completeCmd s r 0x09 0 (BitVec.ofNat 64 k) 0
  | none, [] => succeed0 (commitSched s p pm1 (rs.map Prod.fst)) r
  | none, codes => refuseCmd s r (minOf codes)

/-- A SCHED_LOAD whose image could not be read. -/
def schedFails (s : State) (r : CmdRef) (p status : Nat) : State := refuseCmd s r (minOf (status :: schedState s p))

def execSchedLoad (f q : Nat) (s : State) : Host.Outcome State Fault Refusal :=
  runCmd s f q { sel := (· == 0x18), needPart := true, config := true, params := [(8, 0, 64), (16, 0, 32), (20, 0, 10)] }
    (fun s _ c => !spanHeld s (c.arg 8 8) (16 * c.arg 16 4) false)
    (fun s p c => if c.arg 16 4 = 0 then [] else rangeRefusal s p (c.arg 8 8) (16 * c.arg 16 4))
    fun s r p c => withImage s r p (c.arg 8 8) (16 * c.arg 16 4) (fun s => schedFails s r p 0x12) fun s bs => schedImage s r p c bs

def execSchedStart (f q : Nat) (s : State) : Host.Outcome State Fault Refusal :=
  runCmd s f q { sel := (· == 0x19), needPart := true, params := [(8, 0, 64)] } always
    (fun s p _ =>
      (if (s.part p).sched.isNone then [0x09] else []) ++ (if (s.part p).scheduling then [0x0E] else []) ++ frozenPart s p)
    fun s r p c =>
      let x := s.part p
      let start := c.arg 8 8
      let s := x.region.foldl (fun s k => s.setGath k { s.gath k with
        periodM1 := BitVec.ofNat 10 ((x.sched.map Prod.snd).getD 0), start := BitVec.ofNat 64 start }) s
      let (n, s) := s.freeNat
      let tick := BitVec.ofNat 64 (max start s.clk.master.toNat + n)
      succeed (s.setPart p { x with schedArmed := true, schedTick := tick }) r tick 0

def execSchedStop (f q : Nat) (s : State) : Host.Outcome State Fault Refusal :=
  runCmd s f q { sel := (· == 0x1A), needPart := true } always (fun s p _ => frozenPart s p)
    fun s r p _ => succeed (stopSched s p) r s.time 0

/-! #### Allocations, regions, raw ranges, ways (R248, R274, R287, R291, R307, R311, R312) -/

/-- A partition with running contexts, by the code its command gives it (R353). -/
def contextsRun (s : State) (p : Nat) : List Nat := if (s.runningCtxs p).isEmpty then [] else [0x0E]

/-- Whether a range lies wholly inside one range of the address map. -/
def oneRange (a n : Nat) : Bool := rangeOf a == rangeOf (a + n - 1) && decide (a + n ≤ 2 ^ 48)

def allocOf (c : Cmd) : Alloc :=
  if bitsOf (c.arg 9 1) 1 0 = 0 then {} else ⟨c.arg 16 8 / 4096, c.arg 24 8 / 4096, BitVec.ofNat 2 (c.arg 9 1)⟩

def Alloc.base (e : Alloc) : Nat := e.basePage * 4096
def Alloc.size (e : Alloc) : Nat := e.pages * 4096

/-- R248, R402 and R527 on an entry to be written. -/
def allocBad (s : State) (p e : Nat) (x : Alloc) : Bool :=
  let k := rangeOf x.base
  !oneRange x.base x.size || k == .control || k == .unbacked || (x.typ = 2 && k != .dram && k != .spine) ||
    (s.part p).allocs.any (fun y => y.1 ≠ e && y.2.typ ≠ 0 && spansMeet x.base x.size y.2.base y.2.size) ||
    (k == .scratchWin && (List.range (winCluster (x.base + x.size - 1) + 1 - winCluster x.base)).any fun i =>
      !(s.part p).hasCluster (winCluster x.base + i)) || onTrace s x.base x.size ||
    (s.rope.st = 3 && (spansMeet x.base x.size stagingStart stagingSize ||
      s.mem.mirrors.any fun y => y.2.valid && spansMeet x.base x.size (y.2.base2m * 0x200000) (y.2.size2m * 0x200000)))

/-- The memory with an entry's lines: the old entry's freed, a new spine-only data entry's anchored with zeros (R291); whether all
could be. -/
def allocLines (s : State) (p : Nat) (old new : Alloc) : MemSys × Bool :=
  let m := freeEntry s.mem p old
  if new.typ = 1 && rangeOf new.base == .spine then
    let lines := lineRange new.base new.size
    let (m, stop) := anchorLines s.time p lines (lines.foldl discardLine m)
    (m, stop.isNone)
  else (m, true)

def allocRefusals (s : State) (p : Nat) (c : Cmd) : List Nat :=
  let e := c.arg 8 1 % 16
  let x := allocOf c
  let (base, size) := (c.arg 16 8, c.arg 24 8)
  let shape := bitsOf (c.arg 9 1) 1 0 = 3 || (x.typ ≠ 0 && (base % 4096 != 0 || size % 4096 != 0 || size = 0 || decide (2 ^ 48 ≤ size)))
  let bad := x.typ ≠ 0 && !shape && allocBad s p e x
  (if shape then [0x06] else []) ++ (if bad then [0x0B] else []) ++
  (if !shape && !bad && !(allocLines s p (NMap.get {} (s.part p).allocs e) x).2 then [0x0C] else []) ++ contextsRun s p

def execAllocSet (f q : Nat) (s : State) : Host.Outcome State Fault Refusal :=
  runCmd s f q { sel := (· == 0x23), pfOnly := true, needPart := true, config := true
                 params := [(8, 0, 4), (9, 0, 2), (16, 0, 128)] }
    (fun s p _ => s.mem.txns.isEmpty && !(s.host.bar4.any fun x => x.f = p + 1)) allocRefusals fun s r p c =>
    let e := c.arg 8 1 % 16
    let x := allocOf c
    let y := s.part p
    let s := { s with mem := (allocLines s p (NMap.get {} y.allocs e) x).1 }
    let s := { s with cl := NMap.mapVals {} (fun k c => if y.hasCluster k then { c with allocBad := c.allocBad.filter (· ≠ e) } else c) s.cl }
    succeed0 (s.setPart p { s.part p with allocs := NMap.set {} y.allocs e x }) r

/-- Whether a partition with a running context has an allocation that meets a range. -/
def rangeInUse (s : State) (a n : Nat) : Bool :=
  s.parts.any fun e => !(s.runningCtxs e.1).isEmpty && e.2.allocs.any fun y => y.2.typ ≠ 0 && spansMeet a n y.2.base y.2.size

def regionOfCmd (c : Cmd) : Region :=
  { base2m := c.arg 16 8 / 0x200000, size2m := c.arg 24 8 / 0x200000, interleave := BitVec.ofNat 2 (c.arg 9 1), folio := b2n (bitOf (c.arg 9 1) 2)
    chanBase := c.arg 10 1, chanLog2 := c.arg 11 1 % 8, valid := bitOf (c.arg 9 1) 3 }

def Region.base (r : Region) : Nat := r.base2m * 0x200000
def Region.size (r : Region) : Nat := r.size2m * 0x200000

/-- Whether a range holds an anchored or trace line. -/
def anchoredIn (m : MemSys) (a n : Nat) : Bool := (linesIn m a n).any fun ln => (m.lineAt ln).anchored.isSome || (m.lineAt ln).trace

def poolBase : Nat := 0x006000000000

def regionRefusals (s : State) (_ : Nat) (c : Cmd) : List Nat :=
  let e := c.arg 8 1 % 64
  let x := regionOfCmd c
  let old := NMap.get {} s.mem.regions e
  let (base, size) := (c.arg 16 8, c.arg 24 8)
  let shape := x.valid && (base % 0x200000 != 0 || size % 0x200000 != 0 || size = 0 || decide (2 ^ 48 ≤ size) || x.interleave = 3 ||
    (x.interleave = 2 && x.chanBase % 2 ^ x.chanLog2 != 0))
  let k := rangeOf x.base
  let pinned := x.interleave = 2 && k == .dram &&
    !(decide (poolBase + x.chanBase * 0x20000000 ≤ x.base) && decide (x.base + x.size ≤ poolBase + (x.chanBase + 2 ^ x.chanLog2) * 0x20000000))
  let bad := x.valid && (!oneRange x.base x.size || !(k == .dram || k == .spine) || pinned || onTrace s x.base x.size ||
    s.mem.regions.any (fun y => y.1 ≠ e && y.2.valid && spansMeet x.base x.size y.2.base y.2.size) || anchoredIn s.mem x.base x.size)
  (if shape then [0x06] else []) ++
  (if !shape && (bad || (old.valid && anchoredIn s.mem old.base old.size)) then [0x0B] else []) ++
  (if (!shape && x.valid && rangeInUse s x.base x.size) || (old.valid && rangeInUse s old.base old.size) then [0x0E] else [])

def execRegionSet (f q : Nat) (s : State) : Host.Outcome State Fault Refusal :=
  runCmd s f q { sel := (· == 0x24), pfOnly := true, config := true
                 params := [(8, 0, 6), (9, 0, 4), (10, 0, 8), (11, 0, 3), (16, 0, 128)] }
    (fun s _ _ => s.mem.txns.isEmpty) regionRefusals fun s r _ c =>
    let e := c.arg 8 1 % 64
    let x := regionOfCmd c
    let old := NMap.get {} s.mem.regions e
    let m := if old.valid then flushRange s.mem s.time old.base old.size else s.mem
    let m := if x.valid then flushRange m s.time x.base x.size else m
    succeed0 { s with mem := { m with regions := NMap.set {} m.regions e (if x.valid then x else {}) } } r

def rawOfCmd (c : Cmd) : RawEntry := if bitOf (c.arg 9 1) 0 then ⟨c.arg 16 8 / 0x200000, c.arg 24 8 / 0x200000, true⟩ else {}
def RawEntry.base (r : RawEntry) : Nat := r.base2m * 0x200000
def RawEntry.size (r : RawEntry) : Nat := r.size2m * 0x200000

/-- Channels and stacks that hold part of a pool range: one channel for each 512 MiB block. -/
def poolChans (a n : Nat) : List Nat :=
  ((List.range 256).filter fun b => spansMeet a n (poolBase + b * 0x20000000) 0x20000000).map fun b => 32 * sliceStack b + sliceChan b

def stackMask (chans : List Nat) : BitVec 8 := BitVec.ofNat 8 (chans.foldl (fun m c => m ||| 2 ^ (c / 32)) 0)

/-- Channels that a RAW_SET touches: those of the old range and of the new. -/
def rawChans (s : State) (c : Cmd) : List Nat :=
  let old := NMap.get {} s.mem.raws (c.arg 8 1 % 16)
  let new := rawOfCmd c
  (if old.valid then poolChans old.base old.size else []) ++ (if new.valid then poolChans new.base new.size else [])

def rawHold (s : State) (c : Cmd) (r : Option CmdRef) : TokHold := { cmd := r, stk := stackMask (rawChans s c), vddqShared := true }

def rawRefusals (s : State) (_ : Nat) (c : Cmd) : List Nat :=
  let e := c.arg 8 1 % 16
  let x := rawOfCmd c
  let old := NMap.get {} s.mem.raws e
  let (base, size) := (c.arg 16 8, c.arg 24 8)
  let shape := x.valid && (base % 0x200000 != 0 || size % 0x200000 != 0 || size = 0 || decide (2 ^ 37 < size))
  let bad := x.valid && !shape && (decide (x.base < poolBase) || decide (0x008000000000 < x.base + x.size) ||
    s.mem.raws.any (fun y => y.1 ≠ e && y.2.valid && spansMeet x.base x.size y.2.base y.2.size))
  let inUse (y : RawEntry) : Bool := y.valid && rangeInUse s y.base y.size
  (if shape then [0x06] else []) ++ (if bad then [0x0B] else []) ++
  (if !shape && !bad && (inUse x || inUse old || (rawChans s c).any fun k => (s.mem.nbuAt k).nb) then [0x0E] else []) ++
  (if shape || bad then [] else busyToken s (rawHold s c none))

/-- Every sector of a range that is protected given its check code (R312). -/
def protectRange (m : MemSys) (a n : Nat) : MemSys :=
  let sectors := ((m.dram.filter fun e => decide (a ≤ e.1) && decide (e.1 < a + n)).map fun e => e.1 / 32).eraseDups
  let ecc := m.dramEcc.filter fun e => !(decide (a / 32 ≤ e.1) && decide (e.1 < (a + n) / 32))
  { m with dramEcc := sectors.foldl (fun x k => if isRaw m (32 * k) then x else NMap.set 0 x k (checkCode (m.dramSector (32 * k)))) ecc }

/-- R311, R312. Accepted; the entry is written, and a range that was raw given its check code, at the next step (endRaw). -/
def execRawSet (f q : Nat) (s : State) : Host.Outcome State Fault Refusal :=
  runCmd s f q { sel := (· == 0x25), pfOnly := true, config := true, params := [(8, 0, 4), (9, 0, 1), (16, 0, 128)] } always
    rawRefusals fun s r _ c =>
    let s := takeTokens s (rawHold s c (some r))
    { s with mem := { s.mem with rawWork := some ⟨r, c.arg 8 1 % 16, rawOfCmd c⟩ } }

/-- The end of a raw range change (R312): the reply follows the last write. -/
def endRaw (s : State) : State :=
  match s.mem.rawWork with
  | none => s
  | some w =>
    let old := NMap.get {} s.mem.raws w.entry
    let m := { s.mem with raws := NMap.set {} s.mem.raws w.entry w.new, rawWork := none }
    succeed0 { s with mem := if old.valid then protectRange m old.base old.size else m } w.cmd

/-- Lines in ways from `lo` on and below `hi`. -/
def linesInWays (m : MemSys) (lo hi : Nat) : List Nat :=
  NMap.keysWhere (fun _ l => l.present && decide (lo ≤ l.way) && decide (l.way < hi)) m.lines

def execAnchorWaysSet (f q : Nat) (s : State) : Host.Outcome State Fault Refusal :=
  runCmd s f q { sel := (· == 0x26), pfOnly := true, config := true, params := [(8, 0, 4)] } (fun s _ _ => s.mem.txns.isEmpty)
    (fun s _ c =>
      let new := 16 - c.arg 8 1 % 16
      let old := 16 - s.mem.anchorWays
      (if (linesInWays s.mem (min new old) (max new old)).any (fun ln => (s.mem.lineAt ln).anchored.isSome || (s.mem.lineAt ln).trace) ||
          (s.mem.obs.size ≠ 0 && decide (s.mem.obs.way < new)) then [0x0A] else []) ++
      (if s.noContext then [] else [0x0E]))
    fun s r _ c =>
      let new := 16 - c.arg 8 1 % 16
      let m := (linesInWays s.mem new (16 - s.mem.anchorWays)).foldl (fun m ln => evictLine m s.time ln) s.mem
      succeed0 { s with mem := { m with anchorWays := 16 - new } } r

/-! #### ANCHOR and UNANCHOR (R290, R326) -/

def anchorRange (c : Cmd) : Nat × Nat := (c.arg 8 8, c.arg 16 8)

def anchorAllowed (s : State) (p : Nat) (c : Cmd) : List Nat :=
  let (a, n) := anchorRange c
  let shape := a % 128 != 0 || n % 128 != 0
  (if shape then [0x06] else []) ++
  (if !shape && !(allocCovers (s.part p).allocs 1#2 a n && (rangeOf a == .dram || rangeOf a == .spine)) then [0x07] else []) ++ frozenPart s p

def execAnchor (f q : Nat) (s : State) : Host.Outcome State Fault Refusal :=
  runCmd s f q { sel := (· == 0x14), needPart := true, params := [(8, 0, 128)] }
    (fun s _ c => !spanHeld s (c.arg 8 8) (c.arg 16 8) false && s.mem.txns.isEmpty)
    (fun s p c =>
      let (a, n) := anchorRange c
      anchorAllowed s p c ++ (if a % 128 = 0 && (lineRange a n).any (fun ln => isNbRaw s.mem (ln * 128)) then [0x0B] else []))
    fun s r p c =>
      let (a, n) := anchorRange c
      let (m, stop) := anchorLines s.time p (lineRange a n) s.mem
      let s := { s with mem := m }
      match stop with
      | none => succeed s r (BitVec.ofNat 64 (a + n)) 0
      | some ln => completeCmd s r 0x0C 0 (BitVec.ofNat 64 (ln * 128)) 0

def execUnanchor (f q : Nat) (s : State) : Host.Outcome State Fault Refusal :=
  runCmd s f q { sel := (· == 0x15), needPart := true, params := [(8, 0, 128)] } always anchorAllowed fun s r p c =>
    let (a, n) := anchorRange c
    succeed0 { s with mem := unanchorRange s.mem p a n } r

/-! #### REMAP (R217, R218, R221) -/

/-- The spare a remap takes: the lowest of its gathering that works and is unused (R217). -/
def spareOf (s : State) (k : Nat) : Option Nat :=
  if (s.folio (k / 48)).sparesUsed.toNat < 1218 then
    lowestBelow 41 fun n => spareExists (k % 48) n && !(s.gath k).used.contains n
  else none

/-- A site index fenced, or sealed where no entry is free (R218, R221). -/
def fenceSite (g : Gath) (idx : Nat) : Gath :=
  if g.fenced idx || g.sealed.contains idx then g
  else
    match lowestBelow 48 fun k => !(NMap.get {} g.fences k).valid with
    | some k => { g with fences := NMap.set {} g.fences k ⟨idx, true⟩ }
    | none => { g with sealed := g.sealed ++ [idx] }

def Gath.entry (g : Gath) (k : Nat) : Rename := NMap.get {} g.renames k

/-- A position placed onto spare k (R218 step 3): its rename entry written or updated. -/
def renameTo (g : Gath) (home idx : Nat) : Gath :=
  let at_ := match lowestBelow 41 fun k => (g.entry k).valid && (g.entry k).home = home with
    | some k => some k
    | none => lowestBelow 41 fun k => !(g.entry k).valid
  match at_ with
  | some k => { g with renames := NMap.set ({} : Rename) g.renames k ⟨home, idx, true⟩ }
  | none => g

/-- A cluster reset at a new site: what its L1 held is written back, and nothing of the old site remains. -/
def resetCluster (s : State) (cl : Nat) : State :=
  let lines := ((s.mem.l1At cl).lines.map Prod.fst) ++ ((s.mem.l1At cl).wbuf.map Prod.fst)
  let m := lines.foldl (fun m ln => l1Evict m s.time cl ln) s.mem
  let s := { s with mem := m.setL1 cl {} }
  { s.setCluster cl { cbLost := some s.freeCtr } with freeCtr := s.freeCtr + 1 }

/-- A logical position moved onto spare `n` of its gathering; its old site pair fenced (R218). -/
def movePosition (s : State) (f home n : Nat) : State :=
  let k := siteGathKey (siteCode f 0 home)
  let g := s.gath k
  let old := g.siteOf home
  let g := renameTo (fenceSite g old) home (spareIdx (k % 48) n)
  let s := s.setGath k { g with used := g.used ++ [n] }
  let fo := s.folio f
  let s := s.setFolio f { fo with sparesUsed := fo.sparesUsed + 1, dead := fo.dead.filter (· ≠ home) }
  resetCluster (resetCluster s (f * 37500 + home)) (f * 37500 + 18750 + home)

def remapHome (c : Cmd) : Nat × Nat := (bitsOf (c.arg 10 1) 0 0, c.arg 9 1 * 150 + c.arg 8 1)

/-- The partition that holds a position of a folio. -/
def positionPart (s : State) (f home : Nat) : Option Nat := partOf s (f * 37500 + home)

def remapRefusals (s : State) (_ : Nat) (c : Cmd) : List Nat :=
  let (f, home) := remapHome c
  let k := siteGathKey (siteCode f 0 home)
  if 150 ≤ c.arg 8 1 ∨ 125 ≤ c.arg 9 1 then [0x06]
  else
    (if (spareOf s k).isNone || !(s.folio f).inService then [0x0D] else []) ++
    (match positionPart s f home with
     | some p => if !(s.runningCtxs p).isEmpty || (s.part p).scheduling then [0x0E] else []
     | none => []) ++ busyToken s { gath := some k }

def execRemap (f q : Nat) (s : State) : Host.Outcome State Fault Refusal :=
  runCmd s f q { sel := (· == 0x27), pfOnly := true, config := true, params := [(8, 0, 8), (9, 0, 8), (10, 0, 1)] }
    (fun s _ _ => s.mem.txns.isEmpty) remapRefusals fun s r _ c =>
    let (fo, home) := remapHome c
    let k := siteGathKey (siteCode fo 0 home)
    match spareOf s k with
    | none => refuseCmd s r 0x0D
    | some n =>
      let s := movePosition (takeTokens s { cmd := some r, gath := some k }) fo home n
      let s := match positionPart s fo home with
        | some p => if (s.part p).sched.isSome then
            mapRegion (s.setPart p { s.part p with sched := none }) p fun x => { x with routes := [], routeBad := [] } else s
        | none => s
      succeed s r (BitVec.ofNat 64 (siteCode fo 0 (spareIdx (k % 48) n))) 0

/-! #### SCRUB_SET and STACK_MARGIN -/

def execScrubSet (f q : Nat) (s : State) : Host.Outcome State Fault Refusal :=
  runCmd s f q { sel := (· == 0x28), pfOnly := true, config := true, params := [(8, 0, 2)] } always
    (fun s _ _ => busyToken s { scrub := true }) fun s r _ c =>
    let s := takeTokens s { cmd := some r, scrub := true }
    succeed0 { s with mem := { s.mem with slcScrubEn := bitOf (c.arg 8 1) 0, mstScrubEn := bitOf (c.arg 8 1) 1 } } r

def marginHold (c : Cmd) (r : Option CmdRef) : TokHold :=
  let full := bitOf (c.arg 8 1) 3
  { cmd := r, stk := BitVec.ofNat 8 (2 ^ (c.arg 8 1 % 8)), vddqExcl := full, vddqShared := !full, pmb := full }

/-- MST_MARGIN after a measurement of the read margins, and of the write margins and the VDDQ steps where taken (R318, R319).
WR_VALID follows the write margins (DEDUCED: log entry 32). -/
def marginWord (old : BitVec 64) (wr vddq : Bool) (m : MarginRead) : BitVec 64 :=
  let o := old.toNat
  let w (v hi lo : Nat) : Nat := if wr then v else bitsOf o hi lo
  let vq (v hi lo : Nat) : Nat := if vddq then v else bitsOf o hi lo
  BitVec.ofNat 64 (packFields [
    (m.rdEarly.toNat, 0, 6), (m.rdLate.toNat, 6, 6), (m.rdVlo.toNat, 12, 6), (m.rdVhi.toNat, 18, 6),
    (w m.wrEarly.toNat 29 24, 24, 6), (w m.wrLate.toNat 35 30, 30, 6), (w m.wrVlo.toNat 41 36, 36, 6), (w m.wrVhi.toNat 47 42, 42, 6),
    (m.worstPin.toNat, 48, 7), (1, 55, 1), (w 1 56 56, 56, 1), (vq m.vqLo.toNat 59 57, 57, 3), (vq m.vqHi.toNat 62 60, 60, 3)])

/-- R318: `ms` holds what the controller measured, by channel of the stack. -/
def execStackMargin (f q : Nat) (ms : List (Nat × MarginRead)) (s : State) : Host.Outcome State Fault Refusal :=
  runCmd s f q { sel := (· == 0x29), pfOnly := true, config := true, params := [(8, 0, 4)] } always
    (fun s _ c => (if bitOf (c.arg 8 1) 3 && !s.noContext then [0x0E] else []) ++ busyToken s (marginHold c none)) fun s r _ c =>
    let s := takeTokens s (marginHold c (some r))
    let k := c.arg 8 1 % 8
    let margin := ms.foldl (fun x m =>
      if m.1 < 32 then NMap.set 0 x (32 * k + m.1) (marginWord (NMap.get 0 x (32 * k + m.1)) (bitOf (c.arg 8 1) 3) (bitOf (c.arg 8 1) 3) m.2) else x) s.mem.mstMargin
    succeed0 { s with mem := { s.mem with mstMargin := margin } } r

end Sys2Proof.Machine
end

