-- ==== Sys2Proof/Machine/LinkCmd.lean ====
section
/-! DEFINITION. Link, key and collective commands, received DATA and START frames, and the commands of a roped pair
(spec/13_links_and_rope_transport.md R362-R372, R381-R383, R387-R390; spec/14_roped_pair.md R398, R400, R402, R412,
R416). -/

namespace Sys2Proof.Machine

/-! #### LINK_CONFIG, LINK_TRAIN, LINK_DOWN, LINK_SWEEP -/

def Cmd.link (c : Cmd) : Nat := c.arg 8 1

/-- Whether a running collective uses a link. -/
def linkUsed (s : State) (l : Nat) : Bool := s.lnk.engines.any fun e => e.2.busy && e.2.linkMask.getLsbD l

def badLink (c : Cmd) : List Nat := if 64 ≤ c.link then [0x06] else []

def linkHold (c : Cmd) (r : Option CmdRef) : TokHold := { cmd := r, lnk := some c.link }

/-- The configuration that a LINK_CONFIG gives a link. -/
def configured (lk : Link) (c : Cmd) : Link :=
  let v := c.arg 9 1
  { lk with
    configured := true, phy := bitOf v 0, encap := BitVec.ofNat 2 (v / 2), peerMac := BitVec.ofNat 48 (c.arg 10 6)
    localIp := BitVec.ofNat 128 (c.arg 16 16), peerIp := BitVec.ofNat 128 (c.arg 32 16), udpPort := BitVec.ofNat 16 (c.arg 48 2)
    localMac := BitVec.ofNat 48 (c.arg 50 6) }

def execLinkConfig (f q : Nat) (s : State) : Host.Outcome State Fault Refusal :=
  runCmd s f q { sel := (· == 0x40), pfOnly := true, config := true
                 params := [(8, 0, 8), (9, 0, 3), (10, 0, 48), (16, 0, 128), (32, 0, 128), (48, 0, 16), (50, 0, 48)] } always
    (fun s _ c => badLink c ++ (if c.arg 9 1 / 2 % 4 = 3 then [0x06] else []) ++ (if linkUsed s c.link then [0x0E] else []) ++
      busyToken s (linkHold c none))
    fun s r _ c =>
      let s := takeTokens s (linkHold c (some r))
      let l := c.link
      let lk := s.link l
      let new := configured lk c
      let s := if new = { lk with configured := true } then s.setLink l new
        else if new.phy != lk.phy then
          let s := endSession s l 0 lk.failCause
          s.setLink l { configured (s.link l) c with qualified := false }
        else
          let s := endSession s l 3 lk.failCause
          s.setLink l (configured (s.link l) c)
      succeed0 s r

/-- Bits that one lane checks in a qualification (R364). -/
def laneBits : Nat := 2125000000000

/-- R363: `w` is what the wires give. The link trains; what follows comes step by step (nextLink), and the command waits for the
session. -/
def execLinkTrain (f q : Nat) (w : TrainResult) (s : State) : Host.Outcome State Fault Refusal :=
  runCmd s f q { sel := (· == 0x41), pfOnly := true, config := true, params := [(8, 0, 8), (9, 0, 1)] } always
    (fun s _ c => badLink c ++ busyToken s (linkHold c none) ++
      (if !(s.link c.link).configured || (!bitOf (c.arg 9 1) 0 && !(s.link c.link).qualified) then [0x15] else []))
    fun s r _ c =>
      let s := takeTokens s (linkHold c (some r))
      let l := c.link
      let s := endSession s l 1 0
      s.setLink l { s.link l with work := some (r, .train (bitOf (c.arg 9 1) 0) w) }

/-- A LINK_TRAIN that fails before negotiation. -/
def trainFails (s : State) (l : Nat) (r : CmdRef) (cause : BitVec 3) : State :=
  refuseCmd (s.setLink l { s.link l with st := 7, failCause := cause, work := none }) r 0x15

/-- Step 4 of R363, with the counts of step 3. -/
def trainDone (s : State) (l : Nat) (r : CmdRef) (errs bits : Nat) : State :=
  negotiate (s.setLink l { s.link l with work := none, train := some r, trainErrs := errs, trainBits := bits }) l

/-- The outcome of training: failure, QUALIFYING, or negotiation. -/
def trainEnds (s : State) (l : Nat) (r : CmdRef) (qualify : Bool) (w : TrainResult) : State :=
  if !w.trained then trainFails s l r 1
  else
    let s := clockBack s (0x40 + l)
    if qualify then s.setLink l { s.link l with st := 2 } else trainDone s l r 0 0

/-- The outcome of a qualification (R364). -/
def qualifyEnds (s : State) (l : Nat) (r : CmdRef) (w : TrainResult) : State :=
  let pass := w.locked && w.laneErrors.all fun e => decide (e * 100000 < laneBits)
  let s := s.setLink l { s.link l with qualified := pass }
  if !w.locked then trainFails s l r 4
  else if !pass then trainFails s l r 3
  else trainDone s l r (w.laneErrors.foldl (· + ·) 0) (4 * laneBits)

def execLinkDown (f q : Nat) (s : State) : Host.Outcome State Fault Refusal :=
  runCmd s f q { sel := (· == 0x42), pfOnly := true, config := true, params := [(8, 0, 8)] } always
    (fun s _ c => badLink c ++ busyToken s (linkHold c none)) fun s r _ c =>
      succeed0 (endSession (takeTokens s (linkHold c (some r))) c.link 0 0) r

/-- A lane's sweep register (R382, R383). -/
def sweepReg (locked : Bool) (x : SweepLane) : SweepReg :=
  { tEarly := x.tEarly, tLate := x.tLate, vLo := x.vLo, vHi := x.vHi, points := if locked then 512 else min x.points 512
    complete := locked, aborted := !locked }

/-- The outcome of a sweep (R381, R382). -/
def sweepEnds (s : State) (l : Nat) (r : CmdRef) (locked : Bool) (lanes : List SweepLane) : State :=
  let lk := { s.link l with work := none, sweep := (List.range 4).map fun i => sweepReg locked (lanes.getD i ⟨0, 0, 0, 0, 0⟩) }
  if locked then succeed0 (s.setLink l { lk with st := 3 }) r
  else refuseCmd (s.setLink l { lk with st := 0, qualified := false, failCause := 4 }) r 0x15

/-- What a link's wires are at goes on by one step (R363, R381). -/
def nextLink (s : State) (l : Nat) : State :=
  let lk := s.link l
  match lk.work with
  | some (r, .train q w) => if lk.st = 1 then trainEnds s l r q w else if lk.st = 2 then qualifyEnds s l r w else s
  | some (r, .sweep locked lanes) => if lk.st = 6 then sweepEnds s l r locked lanes else s
  | none => s

/-- R381: `locked` and `lanes` say whether the partner's pattern locked and stayed, and what each lane measures. The sweep begins
with no point done; its outcome comes in a step of its own. -/
def execLinkSweep (f q : Nat) (locked : Bool) (lanes : List SweepLane) (s : State) : Host.Outcome State Fault Refusal :=
  runCmd s f q { sel := (· == 0x43), pfOnly := true, config := true, params := [(8, 0, 8)] } always
    (fun s _ c => badLink c ++ busyToken s (linkHold c none) ++
      (if !((s.link c.link).st = 3 || (s.link c.link).st = 5) || linkUsed s c.link then [0x15] else []))
    fun s r _ c =>
      let l := c.link
      let s := endSession (takeTokens s (linkHold c (some r))) l 6 0
      let clear (x : SweepReg) : SweepReg := { x with points := 0, complete := false, aborted := false }
      s.setLink l { s.link l with work := some (r, .sweep locked lanes), sweep := (s.link l).sweep.map clear }

/-! #### KEY_SET (R369-R371) -/

def keyRefusals (s : State) (p : Nat) (c : Cmd) : List Nat :=
  let id := BitVec.ofNat 32 (c.arg 8 4)
  if id = 0 then (if p < 64 then [0x06] else [])
  else if 64 ≤ p then [0x06]
  else
    match s.job id with
    | some j => if j.part = some p then [] else [0x06]
    | none => if bitOf (c.arg 12 1) 1 && decide (64 ≤ (s.lnk.jobs.filter fun j => j.id ≠ 0).length) then [0x06] else []

/-- A slot's key installed or cleared. -/
def Job.withKey (j : Job) (slot : Bool) (k : Option (BitVec 256)) : Job :=
  if slot then { j with key1 := k } else { j with key0 := k }

/-- What a KEY_SET with VALID = 1 does: the slot active, its counters 0 on every link, held frames sent. -/
def installKey (s : State) (id : BitVec 32) (p : Option Nat) (slot : Bool) (k : BitVec 256) : State :=
  let j := { ((s.job id).getD { id := id, part := p }).withKey slot (some k) with active := slot }
  let s := { s with lnk := { s.lnk with
    jobs := if (s.job id).isSome then s.lnk.jobs.map fun x => if x.id = id then j else x else s.lnk.jobs ++ [j]
    links := NMap.mapVals {} (fun _ l => { l with txCtr := NMap.set 0 l.txCtr (2 * id.toNat + b2n slot) 0 }) s.lnk.links } }
  (List.range 64).foldl pumpLink s

def execKeySet (f q : Nat) (s : State) : Host.Outcome State Fault Refusal :=
  runCmd s f q { sel := (· == 0x44), pfOnly := true, config := true, params := [(8, 0, 32), (12, 0, 2), (16, 0, 256)] } always
    keyRefusals fun s r p c =>
      let id := BitVec.ofNat 32 (c.arg 8 4)
      let slot := bitOf (c.arg 12 1) 0
      if bitOf (c.arg 12 1) 1 then succeed0 (installKey s id (partOpt p) slot (BitVec.ofNat 256 (c.arg 16 32))) r
      else
        let s := { s with lnk := { s.lnk with jobs := s.lnk.jobs.map fun x => if x.id = id then x.withKey slot none else x } }
        succeed0 (freeJob s id) r

/-! #### COLLECTIVE (R387-R390) -/

def freeEngine (s : State) : Option Nat := lowestBelow 16 fun k => !(s.engine k).busy

def collectiveJob (c : Cmd) : BitVec 32 := BitVec.ofNat 32 (c.arg 12 4)

/-- The pieces of the two pairs, in order. -/
def pairPieces (c : Cmd) : List (Nat × Nat) := [(c.arg 16 8, 128), (c.arg 24 8, 128)]

/-- Sectors of the spine that reading the pairs moves (R292, R349). -/
def pairSectors (c : Cmd) : Nat := ((pairPieces c).map fun x => spineSectors x.1 * ceilDiv (x.1 % 32 + x.2) 32).sum

def collectiveReady (s : State) (p : Nat) (c : Cmd) : Bool :=
  (freeEngine s).isSome && !(s.lnk.engines.any fun e => e.2.busy && e.2.job = collectiveJob c && e.2.stage = 0) &&
    (pairPieces c).all (fun x => !spanHeld s x.1 x.2 false) && hasTokens s cmdRequester (partOpt p) (pairSectors c)

/-- Refusals known before the images are read. -/
def collectiveRefusals (s : State) (p : Nat) (c : Cmd) : List Nat :=
  let job := match s.job (collectiveJob c) with
    | some j => j.id ≠ 0 && j.part = some p && (j.key0.isSome || j.key1.isSome)
    | none => false
  (if decide (4 < c.arg 8 1) || !job then [0x06] else []) ++
  (if dataAllowed s p (c.arg 16 8) 128 && dataAllowed s p (c.arg 24 8) 128 then [] else [0x07])

/-- NOT_READY: a link of LINK_MASK that is not READY or is a rope link. -/
def maskNotReady (s : State) (e : Engine) : Bool := e.links.any fun l => (s.link l).st ≠ 5 || (s.link l).rope

/-- A collective whose two pairs of images have been read: refused, or started. -/
def pairsRead (s : State) (k : Nat) (bs : List Byte) : State :=
  let img (i : Nat) : BitVec 512 := BitVec.ofNat 512 (leNat ((bs.drop (64 * i)).take 64))
  let e := { s.engine k with srcD := img 0, srcL := img 1, dstD := img 2, dstL := img 3 }
  let e := { e with fed := e.st_.sbind == 1 }
  let codes := collRefusals s e ++ (if maskNotReady s e then [0x15] else []) ++ frozenPart s e.part
  if codes.isEmpty then collStart (s.setEngine k e) k else refuseCmd (endEngine (s.setEngine k e) k) e.cmd (minOf codes)

/-- The bytes of the pairs with the host's pieces filled in from an answer. -/
def pairBytes (s : State) (p : Nat) : List (Nat × Nat) → List Byte → State × List Byte × Bool
  | [], _ => (s, [], false)
  | (a, n) :: rest, host =>
    let (s, bs, bad, host) := if rangeOf a = .hostWin then (s, host.take n, false, host.drop n)
      else let (s, bs, bad) := spanRead p (n + 1) s a n; (s, bs, bad, host)
    if bad then (s, [], true)
    else
      let (s, more, bad) := pairBytes s p rest host
      (s, bs ++ more, bad)

/-- A collective's pairs complete, with what the host answered. -/
def collectivePairs (s : State) (k : Nat) (c : Cmd) (host : List Byte) : State :=
  let e := s.engine k
  let (s, bs, bad) := pairBytes s e.part (pairPieces c) host
  if bad then refuseCmd (endEngine s k) e.cmd 0x12 else pairsRead s k bs

def execCollective (f q : Nat) (s : State) : Host.Outcome State Fault Refusal :=
  runCmd s f q { sel := (· == 0x48), needPart := true
                 params := [(8, 0, 8), (12, 0, 32), (16, 0, 64), (24, 0, 64), (32, 0, 64), (40, 0, 32)] } collectiveReady
    collectiveRefusals fun s r p c =>
      match freeEngine s with
      | none => s
      | some k =>
        let s := (spendTokens s cmdRequester (partOpt p) (pairSectors c)).setEngine k {
          busy := true, cmd := r, part := p, op := c.arg 8 1, job := collectiveJob c, root := c.arg 40 4
          linkMask := BitVec.ofNat 64 (c.arg 32 8), handle := BitVec.ofNat 16 (c.field 4 2) }
        let host := (pairPieces c).filter fun x => rangeOf x.1 = .hostWin
        if host.isEmpty then collectivePairs s k c []
        else sendHostRead s (hostFn p) (host.map fun x => (x.1 - hostBase, x.2)) (.command r)

/-! #### DATA and START (R372, R375, R389, R395, R400) -/

/-- Whether an instance of a job has ended: it was started here and no engine runs it. -/
def instEnded (s : State) (job seq : BitVec 32) : Bool :=
  match s.job job with
  | none => true
  | some j => decide ((j.nextSeq - seq - 1).toNat < 2 ^ 31) && decide (seq ≠ j.nextSeq)

/-- R372, R375: a DATA frame checked; accepted, acknowledged, and placed where it is new and its instance runs here. -/
def execData (l : Nat) (fr : Frame) (s : State) : Host.Outcome State Fault Refusal :=
  if !(s.link l).listens then .next s
  else
    match rxCheck s l fr with
    | some k => .next (countErr s l k)
    | none =>
      if fr.ftype ≠ tData || (s.link l).st ≠ 5 then .next s
      else if fr.jobId = 0 then
        let (kind, r) := ropeOfFrame l fr.payload
        if ropeDrops s kind r then .next (ropeRecv s kind r)
        else
          let (s, new) := rxWindow s l fr
          .next (if new then ropeRecv s kind r else s)
      else
        match engineOf s fr.jobId fr.collSeq with
        | some k =>
          let (s, new) := rxWindow s l fr
          .next (if new then collData s k l fr else s)
        | none => .next (rxWindow s l fr).1

/-- R389: a START frame: met by its collective, held for it, or discarded where that has ended. A link holds 16; one more is accepted
and discarded (DESIGN CHOICE, log 31). -/
def execStart (l : Nat) (fr : Frame) (s : State) : Host.Outcome State Fault Refusal :=
  if !(s.link l).listens then .next s
  else
    match rxCheck s l fr with
    | some k => .next (countErr s l k)
    | none =>
      if fr.ftype ≠ tStart || (s.link l).st ≠ 5 then .next s
      else
        match engineOf s fr.jobId fr.collSeq with
        | some k =>
          let (s, new) := rxWindow s l fr
          .next (if new then collPeer s k l fr.payload else s)
        | none =>
          if instEnded s fr.jobId fr.collSeq || decide (16 ≤ (s.link l).early.length) then .next (rxWindow s l fr).1
          else
            let (s, new) := rxWindow s l fr
            .next (if new then s.setLink l { s.link l with early := (s.link l).early ++ [fr] } else s)

/-! #### The roped pair's commands (R398, R402, R412, R416) -/

/-- Why a ROPE_FORM is refused at once: REFUSAL, and the status. -/
def formRefusal (s : State) (second : Bool) (epoch : BitVec 64) : Option (BitVec 3 × Nat) :=
  if epoch.toNat < s.rope.epoch.toNat then some (0, 0x14)
  else if s.rope.st ≠ 0 then some (5, 0x15)
  else if ropeLinks.any fun l => (s.link l).st ≠ 5 then some (1, 0x15)
  else if second && s.parts.any (fun p => p.2.allocs.any fun a => a.2.typ ≠ 0 && spansMeet a.2.base a.2.size stagingStart stagingSize) then some (4, 0x15)
  else none

def execRopeForm (f q : Nat) (s : State) : Host.Outcome State Fault Refusal :=
  runCmd s f q { sel := (· == 0x50), pfOnly := true, config := true, params := [(8, 0, 1), (16, 0, 64)] } always noRefusal
    fun s r _ c =>
      let second := bitOf (c.arg 8 1) 0
      let epoch := BitVec.ofNat 64 (c.arg 16 8)
      match formRefusal s second epoch with
      | some (why, st) => refuseCmd { s with rope := { s.rope with refusal := why } } r st
      | none =>
        let s := setRopeBits { s with rope := { s.rope with
          st := 1, epoch := epoch, second := second, refusal := 0, cmd := some r, formStart := s.time, formAt := s.time, lastHeard := s.time } } true
        ropeSendAll s 1 (b2n second)

def MirrorEntry.base (e : MirrorEntry) : Nat := e.base2m * 0x200000
def MirrorEntry.size (e : MirrorEntry) : Nat := e.size2m * 0x200000

/-- R402; `secondRefuses` is the second's answer about its own allocations. -/
def mirrorRefusals (secondRefuses : Bool) (s : State) (_ : Nat) (c : Cmd) : List Nat :=
  let e := c.arg 8 1 % 16
  let (base, size) := (c.arg 16 8, c.arg 24 8)
  let others := s.mem.mirrors.filter fun y => y.1 ≠ e && y.2.valid
  let bad := bitOf (c.arg 9 1) 0 && (base % 0x200000 != 0 || size % 0x200000 != 0 || size = 0 || decide (0x008000000000 < base + size) ||
    others.any (fun y => spansMeet base size y.2.base y.2.size) || spansMeet base size stagingStart stagingSize ||
    s.mem.raws.any (fun y => y.2.valid && spansMeet base size y.2.base y.2.size) ||
    decide (2 ^ 35 < size + (others.map fun y => y.2.size).sum) || secondRefuses)
  (if bad then [0x0B] else []) ++ (if s.rope.st = 2 then [] else [0x15])

def execRopeMirror (f q : Nat) (secondRefuses : Bool) (s : State) : Host.Outcome State Fault Refusal :=
  runCmd s f q { sel := (· == 0x51), pfOnly := true, config := true, params := [(8, 0, 4), (9, 0, 1), (16, 0, 128)] } always
    (mirrorRefusals secondRefuses) fun s r _ c =>
      let e := c.arg 8 1 % 16
      let old := NMap.get {} s.mem.mirrors e
      let new : MirrorEntry := if bitOf (c.arg 9 1) 0 then
        { base2m := c.arg 16 8 / 0x200000, size2m := c.arg 24 8 / 0x200000, valid := true } else {}
      let dirty := s.mem.dirty.filter fun p => !(old.valid && spansMeet (p.1 * 4096) 4096 old.base old.size)
      succeed0 { s with mem := { s.mem with mirrors := NMap.set {} s.mem.mirrors e new, dirty := dirty } } r

/-- A partition as 512 bytes of a state image give it (partImage). -/
def partOfImage (s : State) (img : ByteMap) (p : Nat) : State :=
  let rd (o n : Nat) : Nat := ByteMap.readNat img (512 * p + o) n
  let fl := rd 0 1
  if !bitOf fl 0 then s
  else
    let rect (o : Nat) : Rect := ⟨rd o 1, rd (o + 1) 1, rd (o + 2) 1, rd (o + 3) 1⟩
    let allocs := (List.range 16).foldl (fun m e => NMap.set {} m e ⟨rd (64 + 16 * e) 8, rd (72 + 16 * e) 7, BitVec.ofNat 2 (rd (79 + 16 * e) 1)⟩) []
    let x := s.part p
    let s := s.setPart p {
      st := .idle, f0 := if bitOf fl 1 then some (rect 1) else none, f1 := if bitOf fl 2 then some (rect 5) else none
      allocs := allocs, faultRec := x.faultRec, lastFault := x.lastFault }
    setShares s p {
      slots := rd 9 8, rate := rd 17 2, burst := rd 19 2, allocMask := rd 21 2, anchorMask := rd 23 2, quota := rd 25 2, unreg := bitOf fl 3 }

/-- The held state image applied (R412 step 4). -/
def applyImage (s : State) (img : ByteMap) : State :=
  let s := (List.range 64).foldl (fun s p => partOfImage s img p) s
  let rd (o n : Nat) : Nat := ByteMap.readNat img o n
  let regions := (List.range 64).foldl (fun m e =>
    let o := 32768 + 16 * e
    NMap.set {} m e {
      base2m := rd o 4, size2m := rd (o + 4) 4, interleave := BitVec.ofNat 2 (rd (o + 8) 1), folio := rd (o + 9) 1
      chanBase := rd (o + 10) 1, chanLog2 := rd (o + 11) 1, valid := bitOf (rd (o + 12) 1) 0 }) []
  let raws := (List.range 16).foldl (fun m e =>
    let o := 33792 + 16 * e
    NMap.set {} m e { base2m := rd o 4, size2m := rd (o + 4) 4, valid := bitOf (rd (o + 8) 1) 0 }) []
  let m := flushRange s.mem s.time 0 (2 ^ 48)
  let old := m.raws
  let m := { m with regions := regions, raws := raws, anchorWays := rd 34304 1 }
  let m := old.foldl (fun m e => protectRange m e.2.base e.2.size) m
  let m := (List.range (rd 34320 8)).foldl (fun m i =>
    let o := 34336 + 16 * i
    (anchorLines s.time (rd o 4) ((List.range (rd (o + 10) 6)).map (rd (o + 4) 6 + ·)) m).1) m
  { s with mem := m }

/-- The last complete epoch on a second (R409, R412): the one acknowledged last, or the next where it has arrived whole. -/
def lastWhole (s : State) : Nat := if epochWhole s (s.rope.done + 1) then s.rope.done + 1 else s.rope.done

/-- Steps 2 to 5 of R412: applies finished, the device's own partitions destroyed, the state image applied, the journal window
frozen. -/
def failoverSteps (s : State) (r : CmdRef) : State :=
  let m := lastWhole s
  let s := applyEpoch s
  let s := if s.rope.done < m then applyEpoch { s with rope := { s.rope with done := m, apply := some m } } else s
  let s := (List.range 64).foldl (fun s p => if (s.part p).st = .absent then s else
    finishReset (resetPart s p (some r) { destroy := true }) p { destroy := true }) s
  let s := applyImage s s.rope.image
  let s := { s with rope := { s.rope with st := 0, cmd := none, jFirst := journalFirst s m, placed := [], stagedState := [], endCount := [] } }
  succeed s r (BitVec.ofNat 64 m) 0

/-- R412. Step 1; the rest comes at the next step of the sequence (endFailover). -/
def execRopeFailover (f q : Nat) (s : State) : Host.Outcome State Fault Refusal :=
  runCmd s f q { sel := (· == 0x52), pfOnly := true, config := true, params := [(16, 0, 64)] } always
    (fun s _ c =>
      let e := c.arg 16 8
      (if e = s.rope.epoch.toNat then [0x06] else []) ++ (if e < s.rope.epoch.toNat then [0x14] else []) ++
        (if s.rope.st = 3 then [] else [0x15]))
    fun s r _ c =>
      let m := lastWhole s
      let part := s.rope.placed.any (fun x => decide (m < x.1)) || s.rope.endCount.any fun x => decide (m < x.1)
      setRopeBits { s with rope := { s.rope with
        epoch := BitVec.ofNat 64 (c.arg 16 8), st := 4, cmd := some r, partials := satAdd s.rope.partials (b2n part) 0xFFFF
        placed := s.rope.placed.filter fun x => decide (x.1 ≤ m), stagedState := s.rope.stagedState.filter fun x => decide (x.1 ≤ m)
        endCount := s.rope.endCount.filter fun x => decide (x.1 ≤ m) } } false

/-- Steps 2 to 5 of R412. -/
def endFailover (s : State) : State :=
  match s.rope.cmd with
  | some r => if s.rope.st = 4 then failoverSteps s r else s
  | none => s

def execRopeDissolve (f q : Nat) (s : State) : Host.Outcome State Fault Refusal :=
  runCmd s f q { sel := (· == 0x53), pfOnly := true, config := true } always
    (fun s _ _ => if s.rope.st = 1 || s.rope.st = 2 || s.rope.st = 3 then [] else [0x15])
    fun s r _ _ =>
      let s := ropeSendAll s 8 0
      succeed0 (if s.rope.st = 1 then formFails s 0x15 0 else unpair s) r

end Sys2Proof.Machine
end

