-- ==== Sys2Proof/Machine/Halt.lean ====
section
/-! DEFINITION. The power registers as they read, and how the device stops: failed starts, a lost rail or spine domain, a
power failure (spec/15 R434, spec/16 R438, R439, R443, R450-R455, spec/17 R476-R480, spec/18 R483, R491-R493, R498,
spec/19 R516). -/

namespace Sys2Proof.Machine

/-- The PWR_ registers at reset: the limits are the variant's caps (R459, R476). -/
def Pwr.fresh (v : Variant) : Pwr := { sust := v.sustCap, fast := v.fastCap, sustNow := v.sustCap, fastNow := v.fastCap }

/-! #### Domains and their codes -/

def State.dom (s : State) (d : Nat) : Dom := NMap.get {} s.pwr.doms d
def State.setDom (s : State) (d : Nat) (x : Dom) : State := { s with pwr := { s.pwr with doms := NMap.set {} s.pwr.doms d x } }
def State.setPwr (s : State) (x : Pwr) : State := { s with pwr := x }

/-- VDD_LF, VDDA_LF, VDD_SPN, VDDA_SPN. -/
def domKind (d : Nat) : Nat := if d < 4 then 0 else if d < 8 then 1 else if d = 8 then 2 else 3

/-- The folio that a leaf domain serves (R437). -/
def domFolio (d : Nat) : Nat := d % 4 / 2

/-- The range of a domain in codes of 2.5 mV (R437, R438). -/
def domRange (d : Nat) : Nat × Nat := ([(220, 340), (280, 360), (260, 320), (300, 360)] : List (Nat × Nat)).getD (domKind d) (0, 0)

def clampCode (d c : Nat) : Nat := max (domRange d).1 (min c (domRange d).2)

/-- The droop sensors of a domain (R437). -/
def domSensors (d : Nat) : Nat := ([576, 192, 512, 512] : List Nat).getD (domKind d) 0

/-- The core clocks of the points of PWR_VF (R455). -/
def vfClk (n : Nat) : Nat := ([12, 24, 30, 36] : List Nat).getD n 36

/-- The voltage–frequency curve (R439): linear between points, rounded up to a code; below the first point that point's
code. -/
def curve (kind clk : Nat) : Nat :=
  let v (n : Nat) : Nat := (Config.vfCode n kind).toNat
  if clk ≤ 12 then v 0
  else
    let n := if clk ≤ 24 then 0 else if clk ≤ 30 then 1 else 2
    let (c0, c1) := (vfClk n, vfClk (n + 1))
    ceilDiv (v n * (c1 - clk) + v (n + 1) * (clk - c0)) (c1 - c0)

/-- The present setpoint: on its way at 25 mV/µs in a slew, at 0.5 mV/µs in soft start (R440, R444); the regulators run by the
supervisor's clock. -/
def presentSet (s : State) (x : Dom) : Nat :=
  let ns := (s.rst.sup - x.slewAt).toNat
  if x.st = 1 then min x.vset (ns / 5000)
  else if !x.slewing then x.vnow
  else if x.vnow ≤ x.vset then min x.vset (x.vnow + ns / 100) else max x.vset (x.vnow - ns / 100)

/-! #### Registers of the CLK_ and PWR_ blocks -/

/-- CLK_STATUS (R434). -/
def clkStatus (s : State) : BitVec 64 :=
  BitVec.ofNat 64 (packFields [(coreClk s, 0, 6), (s.clk.target, 6, 6), (b2n (s.clk.stage ≠ 0), 12, 1), (b2n s.clk.fast, 13, 1),
    (b2n s.clk.pllLock, 14, 1), (b2n s.clk.mgtLock, 15, 1), (b2n s.clk.tbLock, 16, 1)])

/-- PWR_DOMAIN[d] (R451); the output current is a physical quantity that nothing states: a free value. -/
def domWord (s : State) (d : Nat) : BitVec 64 :=
  let x := s.dom d
  BitVec.ofNat 64 (packFields [(x.st.toNat, 0, 3), (x.vset, 3, 9), (presentSet s x, 12, 9), (b2n x.slewing, 21, 1), (x.attempts, 22, 3),
    (x.failCause.toNat, 25, 2), (if x.st = 0 || x.st = 4 then 0 else Config.domCurrent d s.freeCtr, 28, 16), (x.suspects.length, 44, 10)])

/-- PWR_VMIN[d] (R452). -/
def vminWords (s : State) (d : Nat) : List (BitVec 64) :=
  let x := s.dom d
  [BitVec.ofNat 64 (packFields [(x.vmin.toNat, 0, 9), (x.vminSensor.toNat, 9, 12), (x.droops, 21, 16), (b2n x.vheld, 63, 1)]), x.vminTime]

/-- PWR_RAIL[r] (R453). -/
def railWord (s : State) (r : Nat) : BitVec 64 :=
  let x := NMap.get {} s.pwr.rails r
  BitVec.ofNat 64 (packFields [(x.st.toNat, 0, 2), (b2n (r = 1 || r = 3), 2, 1), (x.vout.toNat, 3, 16), (x.iout.toNat, 19, 16),
    (x.status.toNat, 35, 16), (x.nacks, 51, 8)])

/-- PWR_BOND_LOG (R454). -/
def bondWords (s : State) : List (BitVec 64) :=
  let x := s.pwr
  [BitVec.ofNat 64 (packFields [(b2n x.bondValid, 0, 1), (x.bondDomain.toNat, 1, 4), (x.bondSensor.toNat, 5, 12),
    (x.bondExcess.toNat, 17, 8), (min x.bondFlags.length 0xFFFF, 25, 16)]), x.bondTime]

/-- PWR_VF[n] (R455). -/
def vfWord (n : Nat) : BitVec 64 :=
  BitVec.ofNat 64 (packFields [((Config.vfCode n 0).toNat, 0, 9), ((Config.vfCode n 1).toNat, 9, 9), ((Config.vfCode n 2).toNat, 18, 9),
    ((Config.vfCode n 3).toNat, 27, 9), (vfClk n, 36, 6)])

def pwrLevel (p : Pwr) (k : Nat) : Nat := NMap.get 0 p.levels k

/-- PWR_LIMIT, PWR_BELAY and PWR_AVG (R476). -/
def limitWord (s : State) : BitVec 64 := BitVec.ofNat 64 (packFields [(s.pwr.sust, 0, 8), (s.pwr.fast, 8, 8)])

def belayWord (s : State) : BitVec 64 :=
  let p := s.pwr
  BitVec.ofNat 64 (packFields [
    (pwrLevel p 0, 0, 4), (pwrLevel p 1, 4, 4), (pwrLevel p 2, 8, 4), (pwrLevel p 3, 12, 4), (pwrLevel p 4, 16, 4),
    ((List.range 8).foldl (fun m k => max m (pwrLevel p (5 + k))) 0, 20, 4), (p.ceil, 24, 6), (p.thmCeil, 30, 6), (p.reason.toNat, 36, 3),
    (b2n (p.alert ≠ 0), 39, 1), (p.alerts, 40, 16), (b2n p.unmet, 56, 1)])

/-- An integer number of µW in W, as a 16-bit field. -/
def wattField (v : Int) : Nat := min (v / 1000000).toNat 0xFFFF

def avgWord (s : State) : BitVec 64 :=
  BitVec.ofNat 64 (packFields [(wattField s.pwr.p, 0, 16), (wattField s.pwr.aFast, 16, 16), (wattField s.pwr.aSust, 32, 16)])

/-- PWR_PHASE[t] and PWR_PPHASE[p] (R477). -/
def phaseWord (s : State) (t : Nat) : BitVec 64 :=
  let x := NMap.get {} s.pwr.phases t
  BitVec.ofNat 64 (packFields [(x.lf, 0, 16), (x.spn, 16, 10), (x.stk, 26, 10), (x.samples, 36, 16), (b2n x.valid, 52, 1)])

def pphaseWord (s : State) (p : Nat) : BitVec 64 :=
  match NMap.get none s.pwr.pphase p with
  | some t => BitVec.ofNat 64 (t.toNat + 64)
  | none => 0

/-! #### Registers of the THM_ block -/

/-- THM_STATUS (R478). -/
def thmStatus (s : State) : BitVec 64 :=
  let t := s.thm
  BitVec.ofNat 64 (packFields [(wrapInt t.tmax 12, 0, 12), (t.tmaxSensor, 12, 9), (b2n (decide (s.pwr.thmCeil < s.clk.applied)), 21, 1),
    ((t.sensors.filter fun e => e.2.suspect).length, 22, 9), (t.trips, 31, 8), (t.bands.foldl (fun m e => max m e.2.band) 0, 39, 2)])

/-- PARTNER, ALPHA and BETA of a leaf L sensor. -/
def isLeafL (n : Nat) : Bool := decide (n < 96) || (decide (192 ≤ n) && decide (n < 288))
def thmPartner (n : Nat) : Nat := (Config.thmFuse n).toNat % 64
def thmAlpha (n : Nat) : Nat := (Config.thmFuse n).toNat / 64 % 256
def thmBeta (n : Nat) : Nat := (Config.thmFuse n).toNat / 2 ^ 14

/-- THM_SENSOR[n] (R479). -/
def sensorWord (s : State) (n : Nat) : BitVec 64 :=
  let x := NMap.get {} s.thm.sensors n
  let l := isLeafL n
  BitVec.ofNat 64 (packFields [(wrapInt x.reading 12, 0, 12), (wrapInt x.govern 12, 12, 12), (wrapInt x.estimate 12, 24, 12),
    (b2n x.suspect, 36, 1), (x.cause.toNat, 37, 2), (if l then thmPartner n else 0, 39, 6), (if l then thmAlpha n else 0, 45, 8),
    (if l then thmBeta n else 0, 53, 10)])

/-- THM_DIODE[k]. -/
def diodeWord (s : State) (k : Nat) : BitVec 64 := BitVec.ofNat 64 (wrapInt (NMap.get 0 s.thm.diodes k) 12)

/-- THM_TRIP_LOG (R480). -/
def tripWords (s : State) : List (BitVec 64) :=
  let t := s.thm
  [BitVec.ofNat 64 (packFields [(b2n t.tripValid, 0, 1), (t.tripSource.toNat, 1, 2), (t.tripSensor.toNat, 3, 9), (t.tripValue.toNat, 12, 12)]),
    t.tripTime]

/-- SPN_FOLIO_STATUS[f] (R26). -/
def folioWord (s : State) (f : Nat) : BitVec 64 :=
  let x := s.folio f
  BitVec.ofNat 64 (packFields [(b2n x.inService, 0, 1), (x.outCause.toNat, 1, 3), (x.bonds.toNat, 8, 18), (x.sparesUsed.toNat, 32, 11)])

/-! #### Bodies of colophon records (R514) -/

def wordsBody (ws : List (BitVec 64)) : List Byte := ws.flatMap fun w => leBytes w.toNat 8

def stepTimes (s : State) : List (BitVec 64) := (List.range 10).map fun c => NMap.get 0 s.rst.stepTime c
def domWords (s : State) : List (BitVec 64) := (List.range 10).map (domWord s)

/-- A RAIL record of a domain, or of a board rail. -/
def domRecord (s : State) (d : Nat) : State := submitRec s 8 (wordsBody (domWord s d :: vminWords s d))
def railRecord (s : State) (r : Nat) : State := submitRec s 8 (wordsBody [railWord s r])

/-! #### Stopping -/

/-- PLDM platform events of the model's numbering beyond the bits of CMD_EVENT. -/
def evClock : Nat := 0x10
def evUnmet : Nat := 0x11
def evFailedStart : Nat := 0x12
def evTrip : Nat := 0x13
def evStopped : Nat := 0x14

/-- A domain off; one that has failed stays so. -/
def Dom.off (x : Dom) : Dom :=
  { x with st := if x.st = 4 then 4 else 0, vset := 0, vnow := 0, slewing := false, held := none, drooping := false }

/-- What is left when the switched rails or every integrated domain go: all work is discarded with nothing written, and
spine, leaves, stacks, links and queues lose their contents. -/
def offState (s : State) : State :=
  { ({} : State) with
    pending := s.pending, variant := s.variant, fuseRenames := s.fuseRenames, rst := s.rst, clp := s.clp, thm := s.thm, rope := { epoch := s.rope.epoch }
    pwr := { s.pwr with doms := NMap.mapVals {} (fun _ x => x.off) s.pwr.doms, pphase := [], phaseMoved := [] }
    clk := { mgtLock := s.clk.mgtLock }, tok := { holds := s.tok.holds.filter fun h => h.cmd.isNone }
    tap := s.tap, scan := s.scan, scanOut := s.scanOut, tapHigh := s.tapHigh, hrNext := s.hrNext, out := s.out, freeCtr := s.freeCtr }

/-- The device stops serving until RST_N or a loss of power (R443, R450); the management port reports it. -/
def stopServing (s : State) : State :=
  let s := offState s
  { s with rst := { s.rst with wait := .dead } }.send (.pldm evStopped 0)

/-- The time of the present step recorded, in µs (R498). -/
def recordStep (r : Rst) (failed : Bool) : Rst :=
  let us := (r.sup - r.mark).toNat / 1000
  { r with stepTime := NMap.set 0 r.stepTime r.step.toNat (BitVec.ofNat 64 (min us (2 ^ 32 - 1) + 2 ^ 32 + 2 ^ 33 * b2n failed)) }

/-- A failed start (R491, R492). -/
def failedStart (s : State) (cause : Nat) : State :=
  let step := s.rst.step
  let r := recordStep s.rst true
  let s := { s with rst := { r with
    lastCause := BitVec.ofNat 4 cause, lastFailStep := step, failedStarts := if r.failedStarts = 3 then 3 else r.failedStarts + 1
    failedFw := r.fwImage } }
  let s := submitRec s 2 (leBytes cause 1 ++ leBytes step.toNat 1 ++ wordsBody (stepTimes s ++ domWords s))
  let s := (offState s).send (.pldm evFailedStart cause)
  { s with rst := { s.rst with step := 0xA, wait := .failed, pwrEn := s.rst.pwrEn && cause ≠ 1 }.enter }

/-- Whether a start is under way. -/
def Rst.starting (r : Rst) : Bool := r.vddAux && r.wait = .none_ && !r.ready && !r.baseCamp && decide (2 ≤ r.step.toNat) && decide (r.step.toNat ≤ 9)

/-- The body of a POWER_FAIL record (R516). -/
def powerFailBody (s : State) : List Byte :=
  wordsBody ([avgWord s, belayWord s, thmStatus s] ++ domWords s ++ ((List.range 10).flatMap (vminWords s)) ++
    (List.range 8).map (railWord s) ++ [folioWord s 0, folioWord s 1]) ++
  ((List.range 64).flatMap fun p => leBytes (match (s.part p).st with | .absent => 0 | .idle => 1 | .running => 2 | .frozen => 3) 1 ++
    leBytes (pphaseWord s p).toNat 8) ++
  (match s.clp.writing with | some r => leBytes s.clp.nextSeq 8 ++ leBytes r.typ 1 | none => leBytes 0 9) ++ leBytes (b2n s.thm.tripped) 1

/-- A record being programmed is abandoned, and an erase or an image write is given up (R516 step 1). -/
def abandonWrite (c : Clp) : Clp :=
  let c := match c.writing with
    | some _ => { c with ring := NMap.set .erased c.ring c.ptr .torn, ptr := ringNext c.ptr, writing := none }
    | none => c
  { c with erasing := none }

/-- A power failure (R516), which a lost reference clock and a loss of VIN18 are too (R450, R543): what is kept through it
is the flash. -/
def powerFail (s : State) : State :=
  let lowest := { s with pwr := { s.pwr with levels := (List.range 13).map fun k => (k, 15) } }
  let body := powerFailBody lowest
  let s := { lowest with clp := abandonWrite lowest.clp }
  let s := submitRec s 7 body
  let s := offState s
  { s with
    rope := {}, thm := {}
    pwr := Pwr.fresh s.variant
    rst := { ({} : Rst) with
      sup := s.rst.sup, mark := s.rst.sup, mgtMark := s.rst.mgtMark
      vddAux := s.rst.vddAux, mgtUp := s.rst.mgtUp, rstLow := s.rst.rstLow, wait := .powerFail, mgtImage := s.rst.mgtImage, mgtRom := s.rst.mgtRom
      fwBuild := 0, cfg0 := s.rst.cfg0, cfg1 := s.rst.cfg1, mgtA := s.rst.mgtA, mgtB := s.rst.mgtB, fwA := s.rst.fwA, fwB := s.rst.fwB
      mgtTrial := s.rst.mgtTrial, newMgt := s.rst.newMgt, newFw := s.rst.newFw } }

end Sys2Proof.Machine
end

