-- ==== Sys2Proof/Machine/Power.lean ====
section
/-! DEFINITION. Regulator domains and the core clock: voltage commands, slews, shorts, droop and bond sensing, board rails,
CLOCK_SET and the fast step (spec/15 R424-R428, R432-R435, spec/16 R438-R450, spec/17 R459, R467). -/

namespace Sys2Proof.Machine

def State.rail (s : State) (r : Nat) : Rail := NMap.get {} s.pwr.rails r
def State.setRail (s : State) (r : Nat) (x : Rail) : State := s.setPwr { s.pwr with rails := NMap.set {} s.pwr.rails r x }

/-! #### Voltage commands (R438, R444) -/

/-- The array domain of a logic domain, the logic domain of an array domain. -/
def arrayOf (d : Nat) : Option Nat := if d < 4 then some (d + 4) else if d = 8 then some 9 else none
def logicOf (d : Nat) : Option Nat := if 4 ≤ d ∧ d < 8 then some (d - 4) else if d = 9 then some 8 else none

/-- What a domain tells the issuer of a command (R444). -/
def report (s : State) (who : VIssuer) (d : Nat) (r : VReport) (code : Nat) : State := s.send (.voltage who d r code)

/-- The target in force or held is replaced: its issuer is told at once, with the present setpoint. -/
def replaceTarget (s : State) (d : Nat) : State :=
  let x := s.dom d
  if x.slewing || x.held.isSome then report s x.issuer d .superseded (presentSet s x) else s

/-- A slew begins from the present setpoint; it is over at once, and reported complete, where that is the target. -/
def startSlew (s : State) (d code : Nat) (who : VIssuer) : State :=
  let s := replaceTarget s d
  let x := s.dom d
  let now := presentSet s x
  let s := s.setDom d { x with vset := code, vnow := now, slewAt := s.rst.sup, slewing := now ≠ code, held := none, issuer := who }
  if now = code then report s who d .complete code else s

/-- A target held: for the end of soft start, or for the array domain to go first. -/
def holdTarget (s : State) (d code : Nat) (who : VIssuer) : State :=
  let s := replaceTarget s d
  s.setDom d { s.dom d with held := some code, issuer := who }

/-- Where a domain is heading. -/
def Dom.goal (x : Dom) : Nat := x.held.getD x.vset

/-- A target for a domain: refused where it is OFF or FAILED, held during soft start, else begun; a raise of a logic domain
above its array domain moves the array domain first, and an array domain is not lowered below its logic domain. -/
def commandDom (s : State) (d code : Nat) (who : VIssuer) : State :=
  let x := s.dom d
  let code := clampCode d code
  if x.st = 0 || x.st = 4 then report s who d .refused code
  else if x.st ≠ 2 then holdTarget s d code who
  else
    match arrayOf d, logicOf d with
    | some a, _ =>
      let y := s.dom a
      if y.st ≠ 0 && y.st ≠ 4 && decide (y.goal < code) then
        let s := if y.st = 2 then startSlew s a code who else holdTarget s a code who
        if (s.dom a).slewing || (s.dom a).st ≠ 2 then holdTarget s d code who else startSlew s d code who
      else startSlew s d code who
    | _, some l => startSlew s d (max code (max (s.dom l).vset (s.dom l).goal)) who
    | _, _ => startSlew s d code who

/-- A logic domain that waited for its array domain starts. -/
def releaseLogic (s : State) (d : Nat) : State :=
  match logicOf d with
  | some l => match (s.dom l).held with
    | some c => if (s.dom l).st = 2 then startSlew (s.setDom l { s.dom l with held := none }) l c (s.dom l).issuer else s
    | none => s
  | none => s

/-- A domain's slew has reached its target, which is reported complete. -/
def domDone (s : State) (d : Nat) : State :=
  let x := s.dom d
  releaseLogic (report (s.setDom d { x with vnow := x.vset, slewing := false }) x.issuer d .complete x.vset) d

/-- A domain comes up at its soft-start target and then takes the last held one (R440, R444). -/
def domUp (s : State) (d aborts : Nat) : State :=
  let x := s.dom d
  let s := s.setDom d { x with st := 2, vnow := x.vset, slewing := false, attempts := aborts, held := none }
  match x.held with
  | some c =>
    let s := commandDom s d c x.issuer
    if (s.dom d).slewing then s else releaseLogic s d
  | none => s

/-- Whether every domain that is ON stands at its target. -/
def suppliesSettled (s : State) : Bool := s.pwr.doms.all fun e => e.2.st ≠ 2 || (!e.2.slewing && e.2.held.isNone)

/-- The supplies commanded to the curve at a clock: on a raise only those below it, on a fall only those above. -/
def commandAll (s : State) (clk : Nat) (raise : Bool) (who : VIssuer) : State :=
  (if raise then [4, 5, 6, 7, 9, 0, 1, 2, 3, 8] else [0, 1, 2, 3, 8, 4, 5, 6, 7, 9]).foldl (fun s d =>
    let v := curve (domKind d) clk
    let x := s.dom d
    if x.st ≠ 0 && x.st ≠ 4 && (if raise then decide (x.goal < v) else decide (v < x.goal)) then commandDom s d v who else s) s

/-! #### The core clock (R424-R426, R467) -/

/-- CLK_REASON: why the effective clock lies below the one CLOCK_SET applied; while the PLL is on its way back, why it did. -/
def clkReason (s : State) : BitVec 3 :=
  let p := s.pwr
  let a := s.clk.applied
  if a ≤ coreClk s then 0
  else if s.clk.fastReg then 3
  else if s.clk.fastTemp then 4
  else if p.ceil < a && decide (p.ceil ≤ p.thmCeil) then 1
  else if p.thmCeil < a then 2
  else p.reason

/-- After a change of the clocks: CLK_REASON, and where the effective clock is no longer `old`, the event of R523, and that of R467
where a ceiling or the fast step keeps it below the clock that CLOCK_SET applied, or did until now. -/
def noteClock (s : State) (old : Nat) : State :=
  let was := s.pwr.reason
  let s := s.setPwr { s.pwr with reason := clkReason s }
  if coreClk s = old then s
  else
    let s := s.observe { ev := 0x53, payload := (clkStatus s).toNat % 2 ^ 17 + s.pwr.reason.toNat * 2 ^ 17 }
    if s.pwr.reason ≠ 0 || was ≠ 0 then s.send (.pldm evClock (coreClk s)) else s

/-- The clock that CLOCK_SET, the power ceiling and the thermal ceiling allow. -/
def allowedClk (s : State) : Nat := min s.clk.applied (min s.pwr.ceil s.pwr.thmCeil)

/-- A CLOCK_SET that waits writes its reply with clock v. -/
def replyClock (s : State) (v : Nat) : State :=
  match s.clk.cmd with
  | none => s
  | some (r, d) => completeCmd { s with clk := { s.clk with cmd := none } } r 0 d (BitVec.ofNat 64 v) 0

/-- The slew is over, and the waiting CLOCK_SET replies. -/
def clockDone (s : State) : State := replyClock { s with clk := { s.clk with stage := 0 } } s.clk.applied

/-- The PLL begins to move to its target, or has nothing to move. -/
def slewPll (s : State) : State :=
  if s.clk.now = s.clk.target then clockDone s
  else { s with clk := { s.clk with stage := if s.clk.now < s.clk.target then 3 else 4, slewAt := s.time } }

/-- Where the supplies have done what the slew waits for: on a rise the PLL moves, on a fall the slew is over. -/
def settleClock (s : State) : State :=
  if !suppliesSettled s then s
  else if s.clk.stage = 1 then slewPll s
  else if s.clk.stage = 2 then clockDone s
  else s

/-- The supplies follow a fall; while REG_ALERT_N holds them at their lowest point there is nothing to lower. -/
def fallSupplies (s : State) : State :=
  if s.pwr.alert = 1 then clockDone s
  else settleClock (commandAll { s with clk := { s.clk with stage := 2 } } s.clk.target false .clockSet)

/-- One 50 MHz of the slew, 1 µs each (R424 step 3). -/
def pllStep (s : State) : State :=
  let up := s.clk.stage = 3 && decide (s.clk.now < s.clk.target)
  let down := s.clk.stage = 4 && decide (s.clk.target < s.clk.now)
  if !(up || down) || !s.since s.clk.slewAt 1000 then s
  else
    let old := coreClk s
    let s := noteClock { s with clk := { s.clk with now := if up then s.clk.now + 1 else s.clk.now - 1, slewAt := s.time } } old
    if s.clk.now ≠ s.clk.target then s else if up then clockDone s else fallSupplies s

/-- A new target of the slew (R424, R425): a CLOCK_SET whose target it replaces replies with the present clock. On a rise the
supplies move first, on a fall the PLL does. While REG_ALERT_N holds the supplies at their lowest point the PLL moves
underneath the fast step. -/
def setTarget (s : State) (t : Nat) (cmd : Option (CmdRef × Nat)) : State :=
  let s := if s.clk.target ≠ t && s.clk.stage ≠ 0 then replyClock s s.clk.now else s
  let s := { s with clk := { s.clk with target := t, cmd := match cmd with | some c => some c | none => s.clk.cmd } }
  let s := s.setPwr { s.pwr with reason := clkReason s }
  if s.clk.now < t && s.pwr.alert ≠ 1 then settleClock (commandAll { s with clk := { s.clk with stage := 1 } } t true .clockSet)
  else if s.clk.now = t then fallSupplies s
  else slewPll s

/-- The target follows the ceilings and the applied clock (R467). -/
def followCeilings (s : State) : State :=
  if s.clk.target = allowedClk s then s.setPwr { s.pwr with reason := clkReason s } else setTarget s (allowedClk s) none

/-- The dividers follow the requests for the fast step (R426). -/
def applyFast (s : State) : State :=
  let old := coreClk s
  noteClock { s with clk := { s.clk with fast := s.clk.fastReg || s.clk.fastTemp } } old

/-- Step 5 of R468 once the supplies of the clock are back: the fast step is released. -/
def settleAlert (s : State) : State :=
  if s.pwr.alert = 2 && suppliesSettled s then
    followCeilings (applyFast { s.setPwr { s.pwr with alert := 0 } with clk := { s.clk with fastReg := false } })
  else s

/-- What follows when a supply has reached its target. -/
def settleAll (s : State) : State := settleAlert (settleClock s)

/-- R424: CLOCK_SET. Its slew goes on with the time base (pllStep). -/
def execClockSet (f q : Nat) (s : State) : Host.Outcome State Fault Refusal :=
  runCmd s f q { sel := (· == 0x30), pfOnly := true, config := true, params := [(8, 0, 16)] } always
    (fun _ _ c => if c.arg 8 2 < 12 then [0x06] else []) fun s r _ c =>
      let v := c.arg 8 2
      let a := min v s.variant.ceil
      let s := { s with clk := { s.clk with applied := a } }
      setTarget s (allowedClk s) (some (r, b2n (decide (a < v))))

/-- R459: POWER_SET. -/
def execPowerSet (f q : Nat) (s : State) : Host.Outcome State Fault Refusal :=
  runCmd s f q { sel := (· == 0x31), pfOnly := true, config := true, params := [(8, 0, 16), (10, 0, 16)] } always noRefusal
    fun s r _ c =>
      let (v, w) := (c.arg 8 2, c.arg 10 2)
      let sust := max 50 (min v s.variant.sustCap)
      let fast := max sust (max 50 (min w s.variant.fastCap))
      let s := s.setPwr { s.pwr with sust := sust, fast := fast }
      completeCmd s r 0 (b2n (sust ≠ v) + 2 * b2n (fast ≠ w)) (BitVec.ofNat 64 (sust + fast * 65536)) 0

/-- R444: a domain's slew reaches its target. -/
def execSlewComplete (d : Nat) (s : State) : Host.Outcome State Fault Refusal :=
  .next (if (s.dom d).st = 2 && (s.dom d).slewing then settleAll (domDone s d) else s)

/-- R444: a voltage command. It is never below the curve for the clock in force, except at cold start (R439); one that
replaces the target of a CLOCK_SET's slew ends that CLOCK_SET at the present clock (R425). -/
def execVoltageCommand (d : Nat) (code : BitVec 9) (who : VIssuer) (s : State) : Host.Outcome State Fault Refusal :=
  if 10 ≤ d then .next s
  else
    let code := if who = .coldStart then code.toNat else max code.toNat (curve (domKind d) (coreClk s))
    let s := if who ≠ .clockSet && (s.dom d).slewing && s.clk.stage = 1 then
        replyClock { s with clk := { s.clk with stage := 0, target := s.clk.now } } s.clk.now
      else s
    .next (settleAll (commandDom s d code who))

/-- R426: the belay controller requests or releases the fast step, where the rule of its source has it do so. -/
def execFastStep (src : FastSource) (on : Bool) (s : State) : Host.Outcome State Fault Refusal :=
  if !s.clk.pllLock then .next s
  else
    match src with
    | .regAlert => .next (if on = decide (s.pwr.alert ≠ 0) then applyFast { s with clk := { s.clk with fastReg := on } } else s)
    | .temperature =>
      let due := if on then decide (420 ≤ s.thm.tmax) else decide (s.thm.tmax ≤ 408) && decide (1000000 ≤ (s.time - s.thm.fastHot).toNat)
      .next (if due then applyFast { s with clk := { s.clk with fastTemp := on } } else s)

/-- R427: every 1 µs the replicas are corrected; one that is ahead waits for the master. -/
def execTimeBaseCorrection (s : State) : Host.Outcome State Fault Refusal :=
  .next (if s.clk.tbLock && decide (s.time < s.clk.master) then { s with time := s.clk.master } else s)

/-! #### Crossings (R432) -/

/-- The answer to an access in a crossing whose receiving clock has stopped, by its requester. -/
def hangAnswer (s : State) (a : HangAccess) : State :=
  match a.requester with
  | 0 => match a.group with
    | some g => if (s.group g).live then groupFault s g 5 0 0 else s
    | none => s
  | 1 => if a.write then s else s.send (.completion 0 (.data (List.replicate 8 0xFF)))
  | 2 => let s := countUr s 0; if a.write then s else s.send (.completion 0 .ur)
  | 3 => if a.write then s else match a.queue with
    | some (f, q) => match (s.queue f q).cmds.find? Cmd.started with
      | some c =>
        let op := c.opcode
        refuseCmd s ⟨f, q, c.seq⟩ (if decide (0x20 ≤ op) && decide (op ≤ 0x23) || decide (0x40 ≤ op) && decide (op ≤ 0x43) then 0x0D else 0x06)
      | none => s
    | none => s
  | _ => s

/-- R432: an access that has waited 100 µs ends with an error response, and its domain is marked STOPPED. -/
def execCrossingTimeout (a : HangAccess) (s : State) : Host.Outcome State Fault Refusal :=
  if !s.up then .next s
  else if s.clk.stopped.contains a.domain then .next (hangAnswer s a)
  else
    .next (hangAnswer { s with clk := { s.clk with
      stopped := s.clk.stopped ++ [a.domain], hangs := satAdd s.clk.hangs 1 0xFFFF, hangValid := true, hangWrite := a.write
      hangDomain := BitVec.ofNat 9 a.domain, hangTime := s.time
      hangOffset := if a.requester = 1 || a.requester = 4 then a.offset else 0 } } a)

/-! #### Shorts (R440-R443) -/

/-- A folio goes out of service because a domain failed: its other domains are turned off, and contexts on it are killed
(R27, R442), those of a FROZEN partition too (R358); its clusters issue no more. OUT_CAUSE is then 3, whatever it was
(DESIGN CHOICE, log 28). -/
def loseFolio (s : State) (f : Nat) : State :=
  let ds := [2 * f, 2 * f + 1, 2 * f + 4, 2 * f + 5]
  let s := ds.foldl (fun s d => s.setDom d (s.dom d).off) s
  let s := s.setFolio f { s.folio f with inService := false, outCause := 3 }
  ((List.range 64).filter fun p => ((s.part p).rect f).isSome && !(s.runningCtxs p).isEmpty).foldl (fun s p =>
    let s := { s with cl := NMap.mapVals {} (fun k c => if clFolio k = f then stopGroups c p else c) s.cl }
    noteFault s p { cls := 0x0B, time := s.time, cluster := (((s.part p).clusters).find? fun c => clFolio c = f).getD 0 }) s

/-- A domain fails (R441, R443). In service it is recorded; without a spine domain nothing serves, and a start fails. -/
def failDomain (s : State) (d : Nat) (cause : BitVec 2) : State :=
  let s := s.setDom d { (s.dom d).off with st := 4, failCause := cause }
  let s := if s.up then domRecord s d else s
  if d < 8 then settleAll (loseFolio s (domFolio d))
  else if s.up then stopServing s
  else if s.rst.starting && s.rst.step ≠ 3 then failedStart s 3
  else s

/-- R441: a short during soft start aborts the attempt; the fourth abort fails the domain. -/
def execShortDetected (d : Nat) (s : State) : Host.Outcome State Fault Refusal :=
  let x := s.dom d
  if x.st ≠ 1 then .next s
  else
    let n := x.attempts + 1
    if 4 ≤ n then .next (failDomain (s.setDom d { x with attempts := 4 }) d 1)
    else .next (s.setDom d { x with st := 3, attempts := n, slewAt := s.rst.sup })

/-- R441: a retry begins from 0 V, 1 ms after the abort, while VIN18 is ON (R440). -/
def execRetryWaitExpiry (d : Nat) (s : State) : Host.Outcome State Fault Refusal :=
  let x := s.dom d
  .next (if x.st = 3 && s.rst.since x.slewAt 1000000 && (s.rail 0).st = 1 then s.setDom d { x with st := 1, vnow := 0, slewAt := s.rst.sup } else s)

/-- R443: a short on a domain that is ON. -/
def execInServiceShort (d : Nat) (s : State) : Host.Outcome State Fault Refusal :=
  .next (if (s.dom d).st = 2 then failDomain s d 2 else s)

/-! #### Droop and bond sensing (R445-R447) -/

/-- Sensors of a domain newly excluded; CMD_EVENT.SENSOR is set for each. -/
def suspectDroop (s : State) (d : Nat) (ns : List Nat) : State :=
  ns.foldl (fun s n =>
    let x := s.dom d
    if x.suspects.contains n then s
    else
      let s := s.setDom d { x with suspects := x.suspects ++ [n] }
      raiseEvent s 4 s.evt.sensor { s.evt with sensor := true }) s

/-- The lowest of the readings, the first where several are lowest. -/
def lowestReading : List (Nat × BitVec 9) → Option (Nat × BitVec 9)
  | [] => none
  | e :: es => match lowestReading es with
    | none => some e
    | some b => if b.2 < e.2 then some b else some e

/-- R445, R446: one sample of a domain's sensors: those out of 0.30–1.10 V or stuck are excluded, the minimum is held, and a
minimum that falls below the curve is a droop event. A domain with a quarter of its sensors excluded counts as shorted. -/
def execDroopSample (d : Nat) (readings : List (Nat × BitVec 9)) (stuck : List Nat) (s : State) : Host.Outcome State Fault Refusal :=
  if (s.dom d).st ≠ 2 then .next s
  else
    let s := suspectDroop s d ((readings.filter fun e => decide (e.2.toNat < 120) || decide (440 < e.2.toNat)).map Prod.fst ++ stuck)
    let x := s.dom d
    if domSensors d ≤ 4 * x.suspects.length then .next (failDomain s d 2)
    else
      match lowestReading (readings.filter fun e => !x.suspects.contains e.1) with
      | none => .next s
      | some (n, v) =>
        let low := decide (v.toNat < curve (domKind d) (coreClk s))
        let x := { x with droops := if low && !x.drooping then satAdd x.droops 1 0xFFFF else x.droops, drooping := low }
        .next (s.setDom d (if !x.vheld || decide (v < x.vmin) then
          { x with vmin := v, vminSensor := BitVec.ofNat 12 n, vminTime := s.time, vheld := true } else x))

/-- One sensor of a counted window: its measured and expected drops in mV (R447). -/
def bondSensor (s : State) (d : Nat) (e : Nat × Nat × Nat) : State :=
  let (n, meas, exp) := e
  let ovf := decide (max 60 exp + 4 * exp < 4 * meas)
  let k := if ovf then NMap.get 0 s.pwr.bondRuns n + 1 else 0
  let s := s.setPwr { s.pwr with bondRuns := NMap.set 0 s.pwr.bondRuns n (min k 10) }
  if k < 10 || s.pwr.bondFlags.contains n then s
  else
    let s := s.setPwr { s.pwr with
      bondFlags := s.pwr.bondFlags ++ [n], bondValid := true, bondDomain := BitVec.ofNat 4 d, bondSensor := BitVec.ofNat 12 n
      bondExcess := BitVec.ofNat 8 (min 255 (meas - exp)), bondTime := s.time }
    let s := raiseEvent s 3 s.evt.bond { s.evt with bond := true }
    submitRec s 0x0A (wordsBody (bondWords s))

/-- R447: a window of a domain; it counts only where the current varied by less than 5 %. -/
def execBondWindow (d : Nat) (currentVaries : Bool) (drops : List (Nat × Nat × Nat)) (s : State) : Host.Outcome State Fault Refusal :=
  .next (if (s.dom d).st = 2 && s.up && !currentVaries then drops.foldl (fun s e => bondSensor s d e) s else s)

/-! #### Board rails (R448-R450) -/

/-- One rail read, after so many failed transactions. -/
def readRail (s : State) (x : RailRead) : State :=
  if 8 ≤ x.rail then s
  else
    let r := s.rail x.rail
    if !x.present then s.setRail x.rail { r with st := 0, absent := true }
    else
      let r := { r with nacks := satAdd r.nacks x.fails 255, absent := false }
      if !x.ok then s.setRail x.rail { r with st := 3 }
      else s.setRail x.rail { r with st := if x.isOn then 1 else if r.st = 2 then 2 else 0, vout := x.vout, iout := x.iout }

/-- Whether the management controller polls: it runs, and no switch of its image holds PMBus (R508, R511). -/
def polling (s : State) : Bool := s.rst.vddAux && s.rst.mgtUp && s.rst.mgtTrial.isNone

/-- R448, R449: telemetry of every rail. -/
def execTelemetryPoll (reads : List RailRead) (s : State) : Host.Outcome State Fault Refusal :=
  .next (if polling s then reads.foldl readRail s else s)

/-- The effects of a rail lost in service (R450). -/
def railLost (s : State) (r : Nat) : State :=
  if !s.up then s
  else if r = 0 then powerFail s
  else if r = 1 || r = 2 then (List.range 64).foldl (fun s l => failLink s l 7) s
  else stopServing s

/-- A rail marked FAULT, and recorded (R448, R514). -/
def faultRail (s : State) (r : Nat) : State := railRecord (s.setRail r { s.rail r with st := 2 }) r

/-- R448: PMB_ALERT_N: the responding regulator's STATUS_WORD is read and its faults cleared; AVSBus rails show none. -/
def execPmbAlertN (r : Nat) (status : BitVec 16) (outputOff : Bool) (s : State) : Host.Outcome State Fault Refusal :=
  if !polling s || decide (8 ≤ r) then .next s
  else
    let s := (s.setRail r { s.rail r with status := if r = 1 || r = 3 then 0 else status }).send (.pmbClear r)
    .next (if outputOff then railLost (faultRail s r) r else s)

/-- R450: a board rail is lost in service. -/
def execRailLoss (r : Nat) (s : State) : Host.Outcome State Fault Refusal :=
  .next (if s.up && decide (r < 8) then railLost (faultRail s r) r else s)

end Sys2Proof.Machine
end

