-- ==== Sys2Proof/Machine/Belay.lean ====
section
/-! DEFINITION. The belay controller: measured power, averages, budgets, hold levels, ceilings and REG_ALERT_N
(spec/17_power_and_thermal_control.md R456-R468). Powers are in µW. -/

namespace Sys2Proof.Machine

/-- The fast cap of R457: the limit in force less 10 W. -/
def fastCapUw (p : Pwr) : Int := (p.fastNow : Int) * 10000000 - 10000000

/-- What P is kept at or below (R458). -/
def capUw (p : Pwr) : Int := min p.pS (fastCapUw p)

/-- Whether the belay controller runs: the clocks of step 2 of R485 are locked. -/
def belayRuns (s : State) : Bool := s.clk.pllLock && s.rst.wait = .none_

/-- R456: P of this microsecond from the input current of VIN18, its last voltage reading and the last telemetry of the
other rails. -/
def execPowerMeasurement (currentMa : Nat) (s : State) : Host.Outcome State Fault Refusal :=
  if !belayRuns s then .next s
  else
    let other := ((List.range 7).map fun i => let r := s.rail (i + 1); r.vout.toNat * r.iout.toNat * 100).foldl (· + ·) 0
    let p := currentMa * (s.rail 0).vout.toNat + other
    let w := s.pwr
    .next (s.setPwr { w with
      p := p, started := true
      aFast := if w.started then w.aFast + ((p : Int) - w.aFast) / 5000 else p
      aSust := if w.started then w.aSust else p
      pS := if w.started then w.pS else fastCapUw w
      msSum := w.msSum + p, msCount := w.msCount + 1
      overCap := w.overCap || decide (capUw w < (p : Int)) })

/-! #### Phases (R463, R464) -/

/-- The sample of a partition: LF_CL in units of 0.01 mW, SPN_W and STK_W in W. -/
def phaseSample (s : State) (m : PowerSplit) (p : Nat) : Nat × Nat × Nat :=
  let acts := (m.activity.find? fun e => e.1 = p).map Prod.snd
  let leaf := ((List.range 4).map fun d =>
    let all := m.activityAll.getD d 0
    if all = 0 then 0 else m.leafMw.getD d 0 * ((acts.getD []).getD d 0) / all).foldl (· + ·) 0
  let n := ((List.range 4).map (clustersIn s p)).foldl (· + ·) 0
  let sec := ((m.sectors.find? fun e => e.1 = p).map Prod.snd).getD 0
  let share (w : Nat) : Nat := if m.sectorsAll = 0 then 0 else w * sec / m.sectorsAll
  (if n = 0 then 0 else leaf / n, share m.spnW, share m.stkW)

/-- A value moved an eighth of the way to a sample. -/
def learn (v x : Nat) : Nat := ((v : Int) + ((x : Int) - v) / 8).toNat

def learnPhase (w : Phase) (x : Nat × Nat × Nat) : Phase :=
  let (a, b, c) := (min x.1 0xFFFF, min x.2.1 1023, min x.2.2 1023)
  if !w.valid then { lf := a, spn := b, stk := c, samples := 1, valid := true }
  else { w with lf := learn w.lf a, spn := learn w.spn b, stk := learn w.stk c, samples := satAdd w.samples 1 0xFFFF }

/-- Samples of every partition that kept its phase through the interval. -/
def takeSamples (s : State) (m : PowerSplit) : State :=
  (List.range 64).foldl (fun s p =>
    match NMap.get none s.pwr.pphase p with
    | some t => if s.pwr.phaseMoved.contains p then s
        else s.setPwr { s.pwr with phases := NMap.set {} s.pwr.phases t.toNat (learnPhase (NMap.get {} s.pwr.phases t.toNat) (phaseSample s m p)) }
    | none => s) s

/-- The prediction for a partition of n clusters: LF_CL in µW per cluster, SPN_W and STK_W in µW (R463). With no present
phase the spec states none: free values. -/
def predict (s : State) (p : Nat) : Nat × Nat × Nat :=
  match NMap.get none s.pwr.pphase p with
  | some t =>
    let w := NMap.get {} s.pwr.phases t.toNat
    let n := (s.part p).size
    if w.valid then (w.lf * 10, w.spn * 1000000, w.stk * 1000000) else (11730, 280 * n * 1000000 / 75000, 200 * n * 1000000 / 75000)
  | none => (Config.freeNat (s.freeCtr + 3 * p), Config.freeNat (s.freeCtr + 3 * p + 1), Config.freeNat (s.freeCtr + 3 * p + 2))

/-- Demands of the thirteen classes: LF0–3, SPN, STK0–7 (R465). -/
def demands (s : State) : List Nat :=
  let ps := (List.range 64).filter fun p => (s.part p).st ≠ .absent
  let sum (f : Nat → Nat) : Nat := (ps.map f).foldl (· + ·) 0
  (List.range 4).map (fun d => sum fun p => clustersIn s p d * (predict s p).1) ++ [sum fun p => (predict s p).2.1] ++
    (List.range 8).map fun _ => (sum fun p => (predict s p).2.2) / 8

/-- Every level at 15. -/
def topLevels : NMap Nat := (List.range 13).map fun k => (k, 15)

/-- The hold levels set; what R462 looks back on follows. -/
def setLevels (s : State) (levels : NMap Nat) : State :=
  let l (m : NMap Nat) (d : Nat) : Nat := NMap.get 0 m d
  let w := s.pwr
  let high := (List.range 4).foldl (fun m d => if l w.levels d < 12 && decide (12 ≤ l levels d) then NMap.set 0 m d s.time else m) w.lfHigh
  let hot := (List.range 4).any fun d => decide (4 < l w.levels d) || decide (4 < l levels d)
  s.setPwr { w with levels := levels, lfHigh := high, lfHot := if hot then s.time else w.lfHot }

/-- LIMIT_UNMET changed, and reported (R460). -/
def setUnmet (s : State) (v : Bool) : State :=
  if s.pwr.unmet = v then s else (s.setPwr { s.pwr with unmet := v }).send (.pldm evUnmet (b2n v))

/-- The limits cannot be met: every class at level 15 and the power ceiling at 600 MHz at once (R460). -/
def unmetNow (s : State) : State := followCeilings (setUnmet (setLevels (s.setPwr { s.pwr with ceil := 12 }) topLevels) true)

/-- The budget of each class (R465). -/
def classBudgets (b : Int) (ds : List Nat) : NMap Int :=
  let total : Nat := ds.foldl (· + ·) 0
  (List.range 13).foldl (fun acc k =>
    NMap.set 0 acc k (if (total : Int) ≤ b then b else ((ds.getD k 0 : Nat) : Int) * b / (total : Int))) []

/-- R458, R459, R464, R465: limits, averages, samples and budgets once a millisecond. -/
def execSustainedUpdate (m : PowerSplit) (s : State) : Host.Outcome State Fault Refusal :=
  if !belayRuns s || !s.pwr.started then .next s
  else
    let w := s.pwr
    let pms : Int := if w.msCount = 0 then w.p else w.msSum / w.msCount
    let aS := w.aSust + (pms - w.aSust) / 1000
    let sust : Int := (w.sust : Int) * 10000000
    let w := { w with sustNow := w.sust, fastNow := w.fast, aSust := aS, msSum := 0, msCount := 0 }
    let w := { w with pS := min (sust + 4 * (sust - aS)) (fastCapUw w), calm := if w.overCap then 0 else w.calm + 1, overCap := false }
    let s := takeSamples (s.setPwr w) m
    let s := s.setPwr { s.pwr with phaseMoved := [] }
    let b := capUw s.pwr - (m.fixedW : Int) * 1000000
    let s := { s.setPwr { s.pwr with budgets := classBudgets b (demands s) } with freeCtr := s.freeCtr + 192 }
    let stuck := (List.range 13).all (fun k => pwrLevel s.pwr k = 15) && s.clk.now = 12 && decide (capUw s.pwr < (s.pwr.p : Int))
    if decide (b ≤ 0) || stuck then .next (unmetNow s)
    else if 10 ≤ s.pwr.calm then .next (setUnmet s false)
    else .next s

/-! #### Hold levels -/

/-- R465: each class level one step towards its budget; the fast limiter, an alert or limits that cannot be met override. -/
def execHoldLevelStep (measured : List Nat) (s : State) : Host.Outcome State Fault Refusal :=
  if !belayRuns s || s.pwr.alert ≠ 0 || s.pwr.unmet || s.pwr.budgets.isEmpty || decide (fastCapUw s.pwr < (s.pwr.p : Int)) then .next s
  else
    let levels := (List.range 13).foldl (fun acc k =>
      let b := NMap.get 0 s.pwr.budgets k
      let x : Int := (measured.getD k 0 : Int) * 1000
      let h := pwrLevel s.pwr k
      NMap.set 0 acc k (if b < x then min 15 (h + 1) else if 16 * x < 15 * b then h - 1 else h)) []
    .next (setLevels s levels)

/-- R465: the fast limiter raises every level while P exceeds the fast cap. -/
def execFastLimiterStep (s : State) : Host.Outcome State Fault Refusal :=
  if !belayRuns s || !s.pwr.started || decide ((s.pwr.p : Int) ≤ fastCapUw s.pwr) then .next s
  else .next (setLevels s ((List.range 13).map fun k => (k, min 15 (pwrLevel s.pwr k + 1))))

/-! #### The power ceiling (R462) -/

def leafLevels (p : Pwr) : List Nat := (List.range 4).map (pwrLevel p)

/-- R462: an LF level has stood at 12 or more for 10 ms, counted anew after each lowering. -/
def execPowerCeilingLower (s : State) : Host.Outcome State Fault Refusal :=
  let stood := (List.range 4).any fun d => decide (12 ≤ pwrLevel s.pwr d) && s.since (NMap.get 0 s.pwr.lfHigh d) 10000000
  if belayRuns s && stood && s.since s.pwr.ceilAt 10000000 && decide (12 < s.pwr.ceil) then
    .next (followCeilings (s.setPwr { s.pwr with ceil := s.pwr.ceil - 1, ceilAt := s.time }))
  else .next s

/-- R462: every LF level has stayed at 4 or less for 100 ms, counted anew after each raise. -/
def execPowerCeilingRaise (s : State) : Host.Outcome State Fault Refusal :=
  if belayRuns s && (leafLevels s.pwr).all (fun h => decide (h ≤ 4)) && s.since s.pwr.lfHot 100000000 && s.since s.pwr.ceilAt 100000000 &&
      decide (s.pwr.ceil < s.clk.applied) then
    .next (followCeilings (s.setPwr { s.pwr with ceil := s.pwr.ceil + 1, ceilAt := s.time }))
  else .next s

/-! #### REG_ALERT_N (R468) -/

/-- Steps 1 and 2 of R468: the fast step, every level at 15, and the supplies to their lowest point. A slew of the clock goes on
underneath the fast step (R426), which needs no more than that point. -/
def regAlert (s : State) : State :=
  let s := setLevels (s.setPwr { s.pwr with alert := 1, alerts := satAdd s.pwr.alerts 1 0xFFFF, alertAt := s.time }) topLevels
  let s := applyFast { s with clk := { s.clk with fastReg := true } }
  let s := if s.clk.stage = 1 then slewPll s else if s.clk.stage = 2 then clockDone s else s
  commandAll s 12 false .belay

/-- R468: a low level of `ns` ns; a pulse shorter than 100 ns may or may not be acted on. -/
def execRegAlertN (ns : Nat) (s : State) : Host.Outcome State Fault Refusal :=
  if !belayRuns s then .next s
  else if 100 ≤ ns then .next (regAlert s)
  else
    let (b, s) := s.freeBool
    .next (if b then regAlert s else s)

/-- R468 step 4: 100 µs after the level rose the supplies of the clock, and of one that the PLL is rising to, are commanded; step 5
follows when they stand. -/
def execRegAlertRelease (s : State) : Host.Outcome State Fault Refusal :=
  if s.pwr.alert ≠ 1 || !s.since s.pwr.alertAt 100000 then .next s
  else .next (settleAlert (commandAll (s.setPwr { s.pwr with alert := 2 }) (max s.clk.now s.clk.target) true .belay))

end Sys2Proof.Machine
end

