-- ==== Sys2Proof/Machine/Doorbell.lean ====
section
/-! DEFINITION. The rows of the queue pairs: ENABLE, doorbells, fetching and replies (spec/12_host_command_protocol.md R342-R347), and
the success reply of a context (spec/03 R92). -/

namespace Sys2Proof.Machine

/-- R342: a write of ENABLE = 1. -/
def execQueueOpen (f q : Nat) (ctrl : BitVec 64) (s : State) : Host.Outcome State Fault Refusal :=
  .next (if !s.up || s.fnOff f then postedOutside s f
    else if decide (f < 65) && decide (q < 16) then writeCtrl s f q (ctrl ||| 1#64) else s)

/-- R342: a write of ENABLE = 0. -/
def execQueueClose (f q : Nat) (s : State) : Host.Outcome State Fault Refusal :=
  .next (if !s.up || s.fnOff f then postedOutside s f else if (s.queue f q).state ≠ 0 then settleReplies (closeQueue s f q) else s)

/-- R344: a reply written where the ring has room. -/
def execStatusReply (f q : Nat) (s : State) : Host.Outcome State Fault Refusal := .next (settleReplies (writeReply s f q))

/-- R92: a context whose last block has retired completes and its success reply is written, unless its partition has a
fault pending or is frozen (R354), or a store of it has not been performed; until the reply can be written the context runs on. `k`
is the context's place in launch order. -/
def execContextCompletion (p k : Nat) (s : State) : Host.Outcome State Fault Refusal :=
  let x := s.ctx k
  let q := s.queue x.cmd.f x.cmd.q
  if x.live && !x.ended && x.part == p && x.retired == x.total && (s.part p).st = .running && !s.eventOpen p && !storesPending s p &&
      (!q.replying || (q.replies.isEmpty && !q.ringFull)) then
    .next (settleReplies (writeReply (finishCtx s k 0 0 (x.started.getD 0) s.time) x.cmd.f x.cmd.q))
  else .next s

/-! #### Doorbells (R343, R345) -/

def execSqTail (f q : Nat) (val : BitVec 32) (s : State) : Host.Outcome State Fault Refusal :=
  let x := s.queue f q
  let i := val.toNat % 2 ^ 16
  if !s.up || s.fnOff f then .next (postedOutside s f)
  else if x.state ≠ 1 then .next s
  else if 2 ^ x.sqLog2.toNat ≤ i then .next (settleReplies <| queueError s f q 5)
  else .next (s.setQueue f q { x with sqTail := BitVec.ofNat 16 i })

def execCqHead (f q : Nat) (val : BitVec 32) (s : State) : Host.Outcome State Fault Refusal :=
  let x := s.queue f q
  let i := val.toNat % 2 ^ 16
  let n := 2 ^ x.cqLog2.toNat
  if !s.up || s.fnOff f then .next (postedOutside s f)
  else if !x.replying then .next s
  else if n ≤ i || decide ((x.cqTail.toNat + n - x.cqHead.toNat) % n < (i + n - x.cqHead.toNat) % n) then .next (settleReplies <| queueError s f q 6)
  else .next (s.setQueue f q { x with cqHead := BitVec.ofNat 16 i })

/-! #### Fetching (R344, R347) -/

/-- R347: one entry fetched from the next OPEN queue in rotation; its host read is answered at once, or later by the
host. -/
def execCommandFetch (r : Option HostResult) (s : State) : Host.Outcome State Fault Refusal :=
  if !s.up || journalFull s || s.queues.any (fun e => e.2.fetching) then .next s
  else
    match nextQueue s with
    | none => .next s
    | some k =>
      let (f, n) := (k / 16, k % 16)
      let q := s.queue f n
      let seg := (q.sqBase.toNat + 64 * q.sqHead.toNat, 64)
      let s := { s with lastServed := k }
      match r with
      | none => .next (sendHostRead (s.setQueue f n { q with fetching := true }) f [seg] (.entry f n))
      | some a => .next (settleReplies <| entryAnswer { s.send (.hostRead s.hrNext f [seg]) with hrNext := s.hrNext + 1 } f n a)

end Sys2Proof.Machine
end

