-- ==== Sys2Proof/Machine/Thermal.lean ====
section
/-! DEFINITION. Temperatures: die sensors, the model of leaf L, bands, the thermal ceiling, stack readouts, the trip and the
restart after it (spec/17 R469-R475, spec/11 R314, R315). Temperatures are in units of 0.25 °C. -/

namespace Sys2Proof.Machine

def State.setThm (s : State) (x : Thm) : State := { s with thm := x }
def State.sensor (s : State) (n : Nat) : Sensor := NMap.get {} s.thm.sensors n
def State.setSensor (s : State) (n : Nat) (x : Sensor) : State := s.setThm { s.thm with sensors := NMap.set {} s.thm.sensors n x }

/-! #### Trip (R473) -/

/-- THERMTRIP_N and PWR_EN go low; THM_TRIP_LOG and a TRIP record tell why. A start under way ends (R493). -/
def trip (s : State) (source : BitVec 2) (sensor : Nat) (value : Int) : State :=
  if s.thm.tripped then s
  else
    let s := s.setThm { s.thm with
      tripped := true, trips := satAdd s.thm.trips 1 255, tripValid := true, tripSource := source, tripSensor := BitVec.ofNat 9 sensor
      tripValue := BitVec.ofNat 12 (wrapInt value 12), tripTime := s.time }
    let s := submitRec s 6 (wordsBody (tripWords s ++ [thmStatus s] ++ (List.range 16).map (diodeWord s)))
    let s := (offState s).send (.pldm evTrip source.toNat)
    { (s.setThm { s.thm with diodeHot := s.rst.sup }) with rst := { s.rst with pwrEn := false, wait := .trip }.enter }

/-! #### Governing values (R470, R471) -/

/-- A sensor marked suspect; CMD_EVENT.SENSOR is set. -/
def markSensor (s : State) (n : Nat) (cause : BitVec 2) : State :=
  let x := s.sensor n
  if x.suspect then s
  else raiseEvent (s.setSensor n { x with suspect := true, cause := cause }) 4 s.evt.sensor { s.evt with sensor := true }

/-- A reading taken, and its range checked. -/
def takeReading (s : State) (n : Nat) (v : Int) : State :=
  let s := s.setSensor n { s.sensor n with reading := v }
  if v < -160 || 600 < v then markSensor s n 1 else s

/-- The sensors of one die: leaf q, or the spine. -/
def dieSensors (n : Nat) : List Nat :=
  if n < 384 then (List.range 96).map (96 * (n / 96) + ·) else (List.range 84).map (384 + ·)

/-- Neighbours of a sensor on its die: those of adjacent gatherings, or of r ± 1. -/
def sensorNeighbours (n : Nat) : List Nat :=
  if n < 384 then
    let (q, g) := (n / 96, n % 96 / 2)
    let (tx, ty) := (g % 6, g / 6)
    let gs := (if tx < 5 then [g + 1] else []) ++ (if 0 < tx then [g - 1] else []) ++ (if ty < 7 then [g + 6] else []) ++
      (if 0 < ty then [g - 6] else [])
    gs.flatMap fun g => [96 * q + 2 * g, 96 * q + 2 * g + 1]
  else if n < 448 then (if n < 447 then [n + 1] else []) ++ (if 384 < n then [n - 1] else [])
  else []

/-- The highest reading among sensors that are not suspect. -/
def highestGood (s : State) (ns : List Nat) : Option Int :=
  ((ns.filter fun n => !(s.sensor n).suspect).map fun n => (s.sensor n).reading).max?

/-- The governing value of a sensor that no model covers; where no sensor of its die is left the spec states none. -/
def governOf (s : State) (n : Nat) : Int :=
  if !(s.sensor n).suspect then (s.sensor n).reading
  else
    match highestGood s (sensorNeighbours n) with
    | some v => v
    | none =>
      match highestGood s (dieSensors n) with
      | some v => v
      | none => (Config.freeNat (s.freeCtr + n) : Int) - 160

/-- T_est of a leaf L sensor (R471), rounded down to 0.25 °C. -/
def modelEstimate (s : State) (n : Nat) (halfMw : List Nat) : Int :=
  let tU := (s.sensor (n + 96)).govern
  let tS := (s.sensor (384 + thmPartner n)).govern
  let d := 2 * (n / 192) + n % 96 / 2 % 6 / 3
  tU + ((thmAlpha n : Int) * (tS - tU) * 250000 + (thmBeta n : Int) * (halfMw.getD d 0 : Int) * 256) / (256 * 250000)

/-- A leaf L sensor against its model: the third low sample in a row marks it. -/
def crossCheck (halfMw : List Nat) (s : State) (n : Nat) : State :=
  let est := modelEstimate s n halfMw
  let x := s.sensor n
  let low := if x.reading < est - 24 then min 3 (x.low + 1) else 0
  let s := s.setSensor n { x with estimate := est, low := low }
  let s := if low = 3 then markSensor s n 3 else s
  let x := s.sensor n
  s.setSensor n { x with govern := if x.suspect then est else x.reading }

/-! #### Bands of SRAM areas (R475) -/

/-- The sensors of an area: leaf halves 2q + half, then spine groups 8 + r. -/
def areaSensors (k : Nat) : List Nat :=
  if k < 8 then ((List.range 48).filter fun g => g % 6 / 3 = k % 2).flatMap fun g => [96 * (k / 2) + 2 * g, 96 * (k / 2) + 2 * g + 1]
  else [384 + (k - 8)]

/-- One threshold: passed at once from `t` on, or above it where `strict`; given up only after `hold` ns of samples at least
`gap` below it. Whether it counts as passed, and the time of the last sample not low enough. -/
def hysteresis (s : State) (v t gap : Int) (strict : Bool) (hold : Nat) (was : Bool) (hot : BitVec 64) : Bool × BitVec 64 :=
  let above := if strict then decide (t < v) else decide (t ≤ v)
  let hot := if t - gap < v then s.time else hot
  (above || (was && decide ((s.time - hot).toNat < hold)), hot)

def updateBand (s : State) (k : Nat) : State :=
  let v := ((areaSensors k).map fun n => (s.sensor n).govern).max?.getD 0
  let b := NMap.get {} s.thm.bands k
  let (p1, h1) := hysteresis s v 40 12 false 10000000 (decide (1 ≤ b.band)) b.hot1
  let (p2, h2) := hysteresis s v 280 12 true 10000000 (decide (2 ≤ b.band)) b.hot2
  let (p3, h3) := hysteresis s v 360 12 true 10000000 (decide (3 ≤ b.band)) b.hot3
  let n := if p3 then 3 else if p2 then 2 else if p1 then 1 else 0
  s.setThm { s.thm with bands := NMap.set {} s.thm.bands k { band := n, hot1 := h1, hot2 := h2, hot3 := h3 } }

/-! #### Samples -/

/-- Tmax and the lowest-numbered sensor that gives it. -/
def highestSensor (s : State) : Int × Nat :=
  (List.range 468).foldl (fun b n => let v := (s.sensor n).govern; if b.1 < v then (v, n) else b) ((s.sensor 0).govern, 0)

/-- What the thermal controller does at a sample (R472). -/
def thermalActions (s : State) (before : Int) : State :=
  let t := s.thm.tmax
  let s := if t ≤ 408 then s else s.setThm { s.thm with fastHot := s.time }
  let s := if decide (400 ≤ t) && decide (before < 400) && decide (12 < s.pwr.thmCeil) then
      followCeilings (s.setPwr { s.pwr with thmCeil := s.pwr.thmCeil - 1, thmAt := s.time }) else s
  let s := if 420 ≤ t then applyFast { s with clk := { s.clk with fastTemp := true } }
    else if s.clk.fastTemp && decide (t ≤ 408) && decide (1000000 ≤ (s.time - s.thm.fastHot).toNat) then
      applyFast { s with clk := { s.clk with fastTemp := false } }
    else s
  if 460 ≤ t then trip s 0 s.thm.tmaxSensor t else s

/-- R469–R472, R475: the die sensors read, governing values and Tmax formed, bands and actions taken. `halfPowerMw`: power of
VDD_LF0–VDD_LF3 in mW. -/
def execThermalSample (readings : List (Nat × Int)) (stuck : List Nat) (halfPowerMw : List Nat) (s : State) :
    Host.Outcome State Fault Refusal :=
  if !s.clk.pllLock || !s.rst.pwrEn then .next s
  else
    let s := (readings.filter fun e => decide (e.1 < 468)).foldl (fun s e => takeReading s e.1 e.2) s
    let s := (stuck.filter (· < 468)).foldl (fun s n => markSensor s n 2) s
    let (ls, rest) := (List.range 468).partition isLeafL
    let s := rest.foldl (fun s n => s.setSensor n { s.sensor n with govern := governOf s n }) s
    let s := ls.foldl (crossCheck halfPowerMw) s
    let before := s.thm.tmax
    let (t, n) := highestSensor s
    let s := { s.setThm { s.thm with tmax := t, tmaxSensor := n } with freeCtr := s.freeCtr + 468 }
    let s := (List.range 72).foldl updateBand s
    .next (thermalActions s before)

/-- R472: a further 50 MHz off the thermal ceiling, 1 ms after the last, at 100 °C or above. -/
def execThermalCeilingLower (s : State) : Host.Outcome State Fault Refusal :=
  if belayRuns s && decide (400 ≤ s.thm.tmax) && s.since s.pwr.thmAt 1000000 && decide (12 < s.pwr.thmCeil) then
    .next (followCeilings (s.setPwr { s.pwr with thmCeil := s.pwr.thmCeil - 1, thmAt := s.time }))
  else .next s

/-- R472: 50 MHz back every 10 ms at 97 °C or below. -/
def execThermalCeilingRaise (s : State) : Host.Outcome State Fault Refusal :=
  if belayRuns s && decide (s.thm.tmax ≤ 388) && s.since s.pwr.thmAt 10000000 && decide (s.pwr.thmCeil < s.clk.applied) then
    .next (followCeilings (s.setPwr { s.pwr with thmCeil := s.pwr.thmCeil + 1, thmAt := s.time }))
  else .next s

/-- R469, R472: the supervisor reads the trip diodes. -/
def execTripDiodeSample (readings : List (Nat × Int)) (s : State) : Host.Outcome State Fault Refusal :=
  if !s.rst.vddAux then .next s
  else
    let rs := readings.filter fun e => decide (e.1 < 16)
    let hot := rs.any fun e => decide (340 ≤ e.2)
    let s := s.setThm { s.thm with
      diodes := rs.foldl (fun m e => NMap.set 0 m e.1 e.2) s.thm.diodes, diodeHot := if hot then s.rst.sup else s.thm.diodeHot }
    match rs.find? fun e => decide (460 ≤ e.2) with
    | some (k, v) => .next (if s.rst.pwrEn then trip s 1 k v else s)
    | none => .next s

/-- R314, R315, R472: a stack's readout in °C: refresh band, throttling, and the trip at 110 °C. -/
def execTemperatureReadout (stack : Nat) (temp : Int) (s : State) : Host.Outcome State Fault Refusal :=
  if decide (8 ≤ stack) || !s.clk.pllLock || !s.rst.pwrEn then .next s
  else
    let x := NMap.get {} s.mem.stackSt stack
    let (o85, h85) := hysteresis s temp 85 2 true 1000000000 x.over85 x.hot85
    let (o95, h95) := hysteresis s temp 95 2 true 1000000000 x.over95 x.hot95
    let (o100, h100) := hysteresis s temp 100 2 true 1000000000 x.over100 x.hot100
    let x : StackSt := {
      temp := BitVec.ofInt 8 temp, refBand := if o95 then 2 else if o85 then 1 else 0, throttle := if o100 then 2 else if o95 then 1 else 0
      over85 := o85, over95 := o95, over100 := o100, hot85 := h85, hot95 := h95, hot100 := h100 }
    let s := { s with mem := { s.mem with stackSt := NMap.set {} s.mem.stackSt stack x } }
    let n := 468 + stack
    let s := takeReading s n (4 * temp)
    let g := if (s.sensor n).suspect then (Config.freeNat s.freeCtr : Int) - 160 else 4 * temp
    let s := { s.setSensor n { s.sensor n with govern := g } with freeCtr := s.freeCtr + 1 }
    .next (if 110 ≤ temp then trip s 2 n (4 * temp) else s)

end Sys2Proof.Machine
end

