-- ==== Sys2Proof/Machine/Start.lean ====
section
/-! DEFINITION. Reset, cold start, base camp, images and their activation, power failure, and the colophon writer's own steps
(spec/18 R481-R499, spec/17 R474, spec/19 R508, R512, R515, R516, spec/21 R543). -/

namespace Sys2Proof.Machine

def State.setRst (s : State) (r : Rst) : State := { s with rst := r }

/-! #### Configuration copies and images (R487-R489) -/

/-- The valid copy with the higher sequence number. -/
def Rst.cfg (r : Rst) : CfgCopy :=
  if r.cfg0.valid && (!r.cfg1.valid || decide (r.cfg1.seq ≤ r.cfg0.seq)) then r.cfg0 else if r.cfg1.valid then r.cfg1 else {}

/-- A new configuration copy in the place of the older, or of one that is not valid. -/
def Rst.writeCfg (r : Rst) (c : CfgCopy) : Rst :=
  let c := { c with valid := true, seq := max r.cfg0.seq r.cfg1.seq + 1 }
  if r.cfg0.valid && (!r.cfg1.valid || decide (r.cfg1.seq ≤ r.cfg0.seq)) then { r with cfg1 := c } else { r with cfg0 := c }

/-- A management image that boots: its CRC passes and it reports alive (R489). -/
def Image.boots (i : Image) : Bool := i.crcOk && i.alive

def Rst.mgt (r : Rst) (b : Bool) : Image := if b then r.mgtB else r.mgtA
def Rst.fw (r : Rst) (b : Bool) : Image := if b then r.fwB else r.fwA

/-- The management controller boots (R489): ACTIVE_MGT, the other image, or the mask ROM, which enters base camp mode. -/
def bootMgt (r : Rst) : Rst :=
  let a := r.cfg.activeMgt
  if (r.mgt a).boots then { r with mgtUp := true, mgtImage := a, mgtRom := false }
  else if (r.mgt !a).boots then { r with mgtUp := true, mgtImage := !a, mgtRom := false }
  else { r with mgtUp := true, mgtRom := true, baseCamp := true, step := 0xB, pwrEn := false }

/-- The device firmware image a start uses (R489). -/
def pickFw (r : Rst) : Bool :=
  let a := r.cfg.activeFw
  if decide (7 ≤ r.lastFailStep.toNat) && r.failedStarts ≠ 0 && (r.fw !r.failedFw).crcOk then !r.failedFw
  else if (r.fw a).crcOk then a else !a

/-! #### Entering a start -/

/-- The colophon scan at power-on (R515): the write pointer is the block after the valid record with the highest SEQ. -/
def scanRing (c : Clp) : Clp :=
  let best := c.ring.foldl (fun (b : Option (Nat × Nat)) e => match e.2 with
    | .record r => match b with
      | some (_, q) => if q < r.seq then some (e.1, r.seq) else b
      | none => some (e.1, r.seq)
    | _ => b) none
  let c := match best with
    | some (b, q) => { c with ptr := ringNext b, nextSeq := q + 1 }
    | none => { c with ptr := 0x1810, nextSeq := 1 }
  ({ c with scanDone := true, bootSeq := 0 }).kick

/-- Steps 1–3 of R484: the management controller boots and PWR_EN goes high, or base camp mode is entered. -/
def powerOn (s : State) : State :=
  let r := bootMgt { s.rst with vddAux := true, pwrEn := true, step := 0, entry := 0, wait := .none_ }.enter
  { s.setRst r with clk := { s.clk with mgtLock := true }, clp := scanRing s.clp }

/-- R484: VDD_AUX enters its range. -/
def execPowerOn (s : State) : Host.Outcome State Fault Refusal := .next (if s.rst.vddAux then s else powerOn s)

/-- What RST_N and a restart clear (R482). -/
def clearForStart (s : State) : State :=
  let s := offState s
  let t := s.thm
  { s with
    pwr := Pwr.fresh s.variant
    thm := { trips := t.trips, tripValid := t.tripValid, tripSource := t.tripSource, tripSensor := t.tripSensor, tripValue := t.tripValue
             tripTime := t.tripTime, tripped := t.tripped, diodes := t.diodes }
    rst := { s.rst with
      ready := false, exitArmed := false, fwImage := false, retainedPerr := false, selftestRemaps := 0, linksQualified := 0, stepTime := []
      fwBuild := 0 } }

/-- Step 1 of R485 begins. -/
def beginStart (s : State) : State :=
  let s := { s with clp := { s.clp with bootSeq := 0 } }
  s.setRst { s.rst with
    step := 2, wait := .none_, ready := false, baseCamp := false, exitArmed := false, selftestRemaps := 0, linksQualified := 0
    fwImage := pickFw s.rst }.enter

/-- Whether a board rail is ON, or one that the device does not use. -/
def railsOn (s : State) : Bool := (List.range 8).all fun r => (s.rail r).absent || (s.rail r).st = 1

/-- R485: the cold start begins when the gate is open: from the power-on entry only with every present rail ON, which 100 ms are
allowed for (R484); after RST_N at least 1 ms after the domains are off (R483). -/
def execColdStart (s : State) : Host.Outcome State Fault Refusal :=
  let r := s.rst
  if !r.vddAux || !r.mgtUp || r.mgtRom || !r.pwrEn || r.wait ≠ .none_ || r.ready || r.baseCamp || decide (1 < r.step.toNat) then .next s
  else if r.step = 0 && !railsOn s then .next (if r.since r.mark 100000000 then failedStart s 1 else s)
  else if r.step = 0 && r.rstLow then .next (s.setRst { recordStep r false with step := 1 }.enter)
  else if r.rstLow || (r.step = 1 && r.entry = 1 && !r.since r.mark 1000000) then .next s
  else .next (beginStart (s.setRst (recordStep r false)))

/-- RST_N acted on (R483): everything it clears is cleared, and the device waits at the gate. -/
def rstAct (s : State) : State :=
  let s := clearForStart s
  s.setRst { s.rst with step := 1, entry := 1, wait := .none_ }.enter

/-- Whether RST_N resets in this state: in service, during a cold start, or after the loss of a spine domain; not in base
camp mode, not during the power-on entry, a trip or a power failure (R473, R484, R494, R516). -/
def rstTakes (r : Rst) : Bool := r.vddAux && !r.baseCamp && ((r.wait = .none_ && (r.ready || decide (1 ≤ r.step.toNat))) || r.wait = .dead)

/-- An instruction of the TAP that tests the board: in effect only while RST_N is low, and while it is, RST_N is not taken
as high (R549). -/
def tapTests (op : BitVec 8) : Bool := op = 0x00 || op = 0x04 || op = 0x05 || op = 0x08 || op = 0x09

/-- R481, R483: RST_N has been low for `ns` ns, and then rises (`high`) or stays low. A pulse of 100 ns to 1 µs may or may not
be taken. In base camp mode it resets the configuration space and nothing else (R494). -/
def execRstN (ns : Nat) (high : Bool) (s : State) : Host.Outcome State Fault Refusal :=
  let was := s.rst.rstLow
  let test := tapTests s.tap
  let s := { s.setRst { s.rst with rstLow := !high || test } with tapHigh := high && test }
  let act (s : State) : State := if s.camp then { s with host := { s.host with cfg := [] } } else rstAct s
  if was || !(rstTakes s.rst || s.camp) || decide (ns < 100) then .next s
  else if 1000 ≤ ns then .next (act s)
  else
    let (b, s) := s.freeBool
    .next (if b then act s else s)

/-! #### Steps (R485, R490) -/

/-- A domain begins its soft start towards the curve's voltage of CORE_CLK_CEIL (R440). -/
def softStart (s : State) (d : Nat) : State :=
  s.setDom d { vset := curve (domKind d) s.variant.ceil, slewAt := s.rst.sup, st := 1, vmin := 0x1FF }

/-- The next step begins. -/
def nextStep (s : State) : State := s.setRst { recordStep s.rst false with step := s.rst.step + 1 }.enter

/-- Whether the domains of a step have all come to an end of their soft start: failed, or past the ramp of 0.5 mV/µs and 20 µs at the
target (R440). -/
def startsSettled (s : State) (r : StartResult) (ds : List Nat) : Bool :=
  ds.all fun d =>
    let x := s.dom d
    x.st = 4 || r.failedDomains.contains d || (x.st = 1 && s.rst.since x.slewAt (5000 * x.vset + 20000))

/-- A domain's aborts: as SHORT_DETECTED counted them, or as the result says. -/
def abortsOf (s : State) (r : StartResult) (d : Nat) : Nat :=
  match r.abortedDomains.find? fun e => e.1 = d with
  | some e => e.2
  | none => (s.dom d).attempts

/-- Soft start of domains ends: those that failed are FAILED, the others ON. -/
def endSoftStart (s : State) (r : StartResult) (ds : List Nat) : State :=
  ds.foldl (fun s d =>
    if (s.dom d).st = 4 then s
    else if r.failedDomains.contains d then
      let s := s.setDom d { (s.dom d).off with st := 4, attempts := 4, failCause := 1 }
      if d < 8 then loseFolio s (domFolio d) else s
    else if (s.dom d).st = 1 then domUp s d (abortsOf s r d)
    else s) s

def bothLost (s : State) : Bool := s.fab.folio0.outCause ≠ 0 && s.fab.folio1.outCause ≠ 0

/-- A folio taken out of service at training. DESIGN CHOICE: where it is already out, its cause stays (R26 names one cause and
says nothing of several; log 28). -/
def outFolio (s : State) (f cause : Nat) : State :=
  if (s.folio f).outCause ≠ 0 then s else s.setFolio f { s.folio f with inService := false, outCause := BitVec.ofNat 3 cause }

/-- A position that no spare can take: it is dead, and the site where it stood is fenced (R31, R217, R221). -/
def deadPosition (s : State) (f home : Nat) : State :=
  let k := siteGathKey (siteCode f 0 home)
  let g := s.gath k
  let s := s.setGath k (fenceSite g (g.siteOf home))
  let fo := s.folio f
  s.setFolio f { fo with dead := if fo.dead.contains home then fo.dead else fo.dead ++ [home] }

/-- A position moved onto the next spare of its gathering, passing over those that fail their test; dead where none is left
(R31, R217, R490). The second result counts the renames. -/
def repairPosition (bad : List (Nat × Nat × Nat)) (f home : Nat) : Nat → State → Nat → State × Nat
  | 0, s, n => (deadPosition s f home, n)
  | fuel + 1, s, n =>
    let k := siteGathKey (siteCode f 0 home)
    match spareOf s k with
    | none => (deadPosition s f home, n)
    | some i =>
      let s := movePosition s f home i
      if bad.any fun b => b.1 = f && b.2.1 = k % 48 && b.2.2 = i then repairPosition bad f home fuel s (n + 1) else (s, n + 1)

/-- The logical position at a site pair. -/
def homeAt (s : State) (f idx : Nat) : Option Nat := (clusterAt s (siteCode f 0 idx)).map (· % 18750)

/-! #### Vertical bonds (R21, R24) -/

/-- The groups of 33 bonds of a class in one folio (R21). -/
def bondGroups : BondClass → Nat
  | .meshPort => 99840
  | .passThrough => 24576
  | .leafControl => 2560
  | .leafSpine => 49152

/-- The groups in which the test found a failed bond, each once. -/
def testedGroups : List BondGroup → List BondGroup
  | [] => []
  | b :: bs => if b.folio < 2 && decide (b.index < bondGroups b.cls) && b.failed != 0 then
      b :: (testedGroups bs).filter fun x => !(x.folio = b.folio && x.cls = b.cls && x.index = b.index)
    else testedGroups bs

/-- The site index of a vertical mesh port group: five groups to a site pair. DESIGN CHOICE: groups are numbered along px, then
py (log 28). -/
def bondSite (i : Nat) : Nat := idxAt (i / 5 % 156) (i / 5 / 156)

/-- Site pairs of a folio with an unrepairable vertical mesh port group. -/
def deadSites (bs : List BondGroup) (f : Nat) : List Nat :=
  ((bs.filter fun b => b.folio = f && b.cls = .meshPort && decide (2 ≤ b.failed)).map fun b => bondSite b.index).eraseDups

/-- OUT_CAUSE of the groups that take a folio out of service (R24, R26). DESIGN CHOICE: cause 1 where both causes are found
(log 28). -/
def bondCause (bs : List BondGroup) (f : Nat) : Option Nat :=
  if bs.any fun b => b.folio = f && b.cls = .leafSpine && decide (2 ≤ b.failed) then some 1
  else if bs.any fun b => b.folio = f && (b.cls = .passThrough || b.cls = .leafControl) && decide (2 ≤ b.failed) then some 2
  else none

/-- The V link of a site pair is unusable: V_BROKEN at both routers (R24, R216). -/
def breakV (s : State) (f idx : Nat) : State :=
  ([0, 1] : List Nat).foldl (fun s l => s.setRouter (siteCode f l idx) { s.router (siteCode f l idx) with vBroken := true }) s

/-- A spare site pair that cannot be used: it counts as taken and is fenced (R217, R221). -/
def killSpare (s : State) (f idx : Nat) : State :=
  if idx < 18750 then s
  else
    let k := siteGathKey (siteCode f 0 idx)
    let g := s.gath k
    let n := (idx - 18750) / 48
    s.setGath k (fenceSite { g with used := if g.used.contains n then g.used else g.used ++ [n] } idx)

/-- A dead site pair found at training (R24): its position moves onto a spare, or is dead. -/
def killPair (f : Nat) (s : State) (idx : Nat) : State :=
  match homeAt s f idx with
  | some home => (repairPosition [] f home 42 s 0).1
  | none => s

/-- The positions that the fuses place on spares (R31, R217). -/
def loadFuseMap (s : State) : State :=
  s.fuseRenames.foldl (fun s e =>
    let k := siteGathKey (siteCode e.1 0 e.2.1)
    if spareExists (k % 48) e.2.2 && !(s.gath k).used.contains e.2.2 then movePosition s e.1 e.2.1 e.2.2 else s) s

/-- What training finds in one folio: groups with one failed bond are steered onto their spare and counted; dead pairs lose
their V link, dead spares are set aside before any position moves, then the positions of dead pairs move (R24, R26). -/
def trainFolio (bs : List BondGroup) (s : State) (f : Nat) : State :=
  let s := match bondCause bs f with
    | some k => outFolio s f k
    | none => s
  let s := s.setFolio f { s.folio f with bonds := BitVec.ofNat 18 (bs.filter fun b => b.folio = f && b.failed = 1).length }
  let dead := deadSites bs f
  let held := dead.filter fun i => (homeAt s f i).isSome
  let s := dead.foldl (fun s i => breakV s f i) s
  let s := (dead.filter fun i => !held.contains i).foldl (fun s i => killSpare s f i) s
  let s := held.foldl (killPair f) s
  s.setFolio f { s.folio f with inService := (s.folio f).outCause = 0 }

/-- Step 7: every link qualified in its default mode (R364, R488). -/
def startLink (r : StartResult) (s : State) (l : Nat) : State :=
  let mode := NMap.get 0 s.rst.cfg.modes l
  let pass := match r.linkResults.find? fun e => e.1 = l with
    | some e => e.2.trained && e.2.locked && e.2.laneErrors.all fun n => decide (n * 100000 < laneBits)
    | none => false
  let up := mode ≠ 2 && pass
  s.setLink l { s.link l with st := if up then 3 else 0, qualified := up, phy := mode = 1 }

/-- What step 2 leaves: clocks locked, the time base started, controllers at their ceilings. -/
def startClocks (s : State) : State :=
  { s with
    time := 0
    clk := { s.clk with
      applied := s.variant.ceil, now := s.variant.ceil, target := s.variant.ceil, pllLock := true, tbLock := true, master := 0 }
    pwr := { s.pwr with ceil := s.variant.ceil, thmCeil := s.variant.ceil } }

/-- READY (step 8). A start on an image that the configuration does not name makes the configuration name it (R489). -/
def becomeReady (s : State) : State :=
  let r := { s.rst with ready := true, failedStarts := 0, fwBuild := (s.rst.fw s.rst.fwImage).build }
  let c := r.cfg
  let r := if c.activeFw ≠ r.fwImage || c.activeMgt ≠ r.mgtImage then r.writeCfg { c with activeFw := r.fwImage, activeMgt := r.mgtImage } else r
  let s := s.setRst r
  submitRec s 1 (leBytes r.fwBuild.toNat 4 ++ wordsBody [folioWord s 0, folioWord s 1] ++ leBytes r.selftestRemaps.toNat 2 ++
    leBytes r.linksQualified.toNat 1 ++ wordsBody (stepTimes s))

/-- Clusters that fail the tests of a step moved onto spares, and counted (R490). -/
def retireFailed (s : State) (r : StartResult) : State :=
  let (s, n) := r.failedSites.foldl (fun (a : State × Nat) e =>
    if (a.1.folio e.1).inService then repairPosition r.badSpares e.1 (e.2.2 * 150 + e.2.1) 42 a.1 a.2 else a) (s, 0)
  s.setRst { s.rst with selftestRemaps := BitVec.ofNat 16 (satAdd s.rst.selftestRemaps.toNat n 0xFFFF) }

/-- The step under way finishes with result r. -/
def finishStep (s : State) (r : StartResult) : State :=
  match s.rst.step.toNat with
  | 2 =>
    if !r.fusesOk then failedStart s 2
    else if (s.rail 0).st ≠ 1 then s
    else [8, 9].foldl softStart (nextStep s)
  | 3 =>
    if !startsSettled s r [8, 9] || (s.rail 0).st ≠ 1 then s
    else
      let s := endSoftStart s r [8, 9]
      if (s.dom 8).st = 4 || (s.dom 9).st = 4 then failedStart s 3
      else (List.range 8).foldl softStart (nextStep (startClocks s))
  | 4 =>
    if !startsSettled s r ((List.range 8).filter fun d => (s.dom d).st ≠ 0) then s
    else
      let s := endSoftStart s r (List.range 8)
      if bothLost s then failedStart s 4 else nextStep s
  | 5 =>
    let s := [0, 1].foldl (trainFolio (testedGroups r.bondFaults)) (loadFuseMap s)
    if bothLost s then failedStart s 4 else nextStep s
  | 6 =>
    if r.sramFail then failedStart s 5
    else if r.stackFail then failedStart s 6
    else
      let m := r.margins.foldl (fun m e => NMap.set 0 m e.1 (marginWord 0 true false e.2)) []
      let s := { s with mem := { s.mem with dram := [], dramEcc := [], lines := [], l1 := [], mstMargin := m }, cl := [] }
      nextStep (retireFailed s r)
  | 7 =>
    let ok (b : Bool) : Bool := (s.rst.fw b).crcOk && (if b then r.fwCrcOk.2 else r.fwCrcOk.1)
    if bothLost s then failedStart s 4
    else if !ok s.rst.fwImage && !ok !s.rst.fwImage then failedStart s 7
    else
      let s := s.setRst { s.rst with fwImage := if ok s.rst.fwImage then s.rst.fwImage else !s.rst.fwImage }
      nextStep { retireFailed s r with cl := [] }
  | 8 =>
    let s := (List.range 64).foldl (startLink r) s
    let n := ((List.range 64).filter fun l => (s.link l).qualified).length
    nextStep (s.setRst { s.rst with linksQualified := BitVec.ofNat 7 n })
  | 9 => becomeReady (s.setRst (recordStep s.rst false))
  | _ => s

/-- R485: a cold-start step finishes. -/
def execColdStartStepComplete (r : StartResult) (s : State) : Host.Outcome State Fault Refusal :=
  .next (if s.rst.starting then finishStep s r else s)

/-- The deadline of a step, in µs (R485). -/
def deadlineOf (step : Nat) : Nat := ([0, 0, 5000, 12000, 12000, 80000, 600000, 100000, 11500000, 1000] : List Nat).getD step 0

/-- R485: a step runs past its deadline; deadlines do not count during an alert or a fast step for temperature. -/
def execStepDeadline (s : State) : Host.Outcome State Fault Refusal :=
  .next (if s.rst.starting && decide (1000 * deadlineOf s.rst.step.toNat ≤ s.rst.stepNs) then failedStart s 8 else s)

/-! #### Retry and base camp (R492-R495) -/

/-- Back to the power-on entry at step 3, or to step 1 of R485, after a start that failed. -/
def enterAgain (s : State) (entry : BitVec 3) : State :=
  let s := clearForStart s
  let s := s.setRst { s.rst with entry := entry, wait := .none_ }
  if s.rst.lastCause = 1 then s.setRst { s.rst with pwrEn := true, step := 0 }.enter else beginStart s

/-- Base camp mode (R494): where neither rails nor spine power failed, the spine is up at the curve's first point. -/
def enterBaseCamp (s : State) : State :=
  let s := s.setRst { s.rst with baseCamp := true, step := 0xB, wait := .none_ }
  if s.rst.lastCause = 1 || s.rst.lastCause = 3 || s.rst.mgtRom then s
  else [8, 9].foldl (fun s d =>
    let v := curve (domKind d) 12
    s.setDom d { s.dom d with st := 2, vset := v, vnow := v }) s

/-- R492: 1 s after a failed start. -/
def execFailedStartRetry (s : State) : Host.Outcome State Fault Refusal :=
  if s.rst.wait ≠ .failed || !s.rst.since s.rst.mark 1000000000 then .next s
  else if s.rst.failedStarts = 3 then .next (enterBaseCamp s)
  else if s.rst.rstLow then .next s
  else .next (enterAgain s 3)

/-- The exit from base camp armed (R495). -/
def armExit (s : State) : State := s.setRst { s.rst with exitArmed := true, failedStarts := 2, baseCamp := false, wait := .baseExit }.enter

/-- R495: the OEM PLDM command. -/
def execExitBaseCamp (s : State) : Host.Outcome State Fault Refusal := .next (if s.rst.baseCamp then armExit s else s)

/-- R495: 1 s after arming, once RST_N is high; after the mask ROM the management controller boots again. -/
def execBaseCampExit (s : State) : Host.Outcome State Fault Refusal :=
  if s.rst.wait ≠ .baseExit || s.rst.rstLow || s.rst.mgtTrial.isSome || !s.rst.since s.rst.mark 1000000000 then .next s
  else if s.rst.mgtRom then
    let s := clearForStart s
    .next (s.setRst (bootMgt { s.rst with entry := 4, wait := .none_, step := 0, pwrEn := true }.enter))
  else .next (enterAgain s 4)

/-- R474: every trip diode has been below 85 °C for 10 s. DEDUCED: a device that tripped in base camp mode is in it again, since that mode
is left in two ways only (R495; log 33). -/
def execTripRestart (s : State) : Host.Outcome State Fault Refusal :=
  if !s.thm.tripped || s.rst.wait ≠ .trip || !(List.range 16).all (fun k => decide (NMap.get 0 s.thm.diodes k < 340)) ||
      !s.rst.since s.thm.diodeHot 10000000000 then .next s
  else
    let camp := s.rst.baseCamp
    let s := clearForStart s
    let s := s.setThm { s.thm with tripped := false }
    let s := s.setRst { s.rst with pwrEn := true, wait := .none_, step := 0, entry := 2 }.enter
    .next (if camp then enterBaseCamp s else s)

/-! #### Firmware update and activation (R487, R508) -/

/-- PLDM events and completions of the management port, in the model's numbering. -/
def evUpdate : Nat := 0x20
def evActivate : Nat := 0x21

/-- R487: a component written into the image that is not active, or the older configuration copy. -/
def execPldmFirmwareUpdate (c : FwComponent) (img : FwImage) (s : State) : Host.Outcome State Fault Refusal :=
  if !s.rst.vddAux || !s.rst.mgtUp || s.rst.mgtTrial.isSome then .next s
  else
    let r := s.rst
    let i : Image := { crcOk := img.crcOk, alive := img.alive, build := img.build }
    let r := match c with
      | .mgt => let b := !r.cfg.activeMgt; let r := { r with newMgt := some b }; if b then { r with mgtB := i } else { r with mgtA := i }
      | .fw => let b := !r.cfg.activeFw; let r := { r with newFw := some b }; if b then { r with fwB := i } else { r with fwA := i }
      | .config =>
        if !img.crcOk then r
        else r.writeCfg { activeMgt := img.activeMgt, activeFw := img.activeFw
                          modes := (List.range 64).foldl (fun m l => NMap.set 0 m l (img.linkModes.getD l 0)) [] }
    .next ((s.setRst r).send (.pldm evUpdate (b2n img.crcOk)))

/-- The MGT_SWITCH record of an activation, and its tokens released. -/
def endSwitch (s : State) (old : Bool) (ok : Bool) : State :=
  let new := !old
  let s := { s.setRst { s.rst with mgtTrial := none, mgtUp := true, mgtImage := if ok then new else old } with
    tok := { s.tok with holds := s.tok.holds.filter fun h => h.cmd.isSome } }
  submitRec s 9 (leBytes (b2n old) 1 ++ leBytes (b2n new) 1 ++ leBytes (b2n ok) 1)

/-- R508: ActivateFirmware. `alive`: the new management image reports alive within 150 ms; where it does not, the switch
stays open for MGT_ALIVE_TIMEOUT. In base camp mode an activation also arms the exit (R495). -/
def execActivateFirmware (c : FwComponent) (alive : Bool) (s : State) : Host.Outcome State Fault Refusal :=
  if !s.rst.vddAux || !s.rst.mgtUp || s.rst.mgtTrial.isSome then .next s
  else
    let arm (s : State) : State := if s.rst.baseCamp then armExit s else s
    match c with
    | .config => .next (arm (s.send (.pldm evActivate 0)))
    | .fw => match s.rst.newFw with
      | none => .next s
      | some b => .next (arm ((s.setRst { s.rst.writeCfg { s.rst.cfg with activeFw := b } with newFw := none }).send (.pldm evActivate 0)))
    | .mgt => match s.rst.newMgt with
      | none => .next s
      | some b =>
        let hold : TokHold := { mgt := true, pmb := true }
        if tokensBusy s hold then
          .next ({ s with tok := { s.tok with refusals := satAdd s.tok.refusals 1 0xFFFF } }.send (.pldm evActivate 1))
        else
          let s := (takeTokens s hold).send (.pldm evActivate 0)
          let s := s.setRst { s.rst.writeCfg { s.rst.cfg with activeMgt := b } with newMgt := none, mgtTrial := some !b, mgtUp := false, mgtMark := s.rst.sup }
          let s := arm s
          .next (if alive && (s.rst.mgt b).boots then endSwitch s (!b) true else s)

/-- R508 step 3: the new image has not reported alive; the previous one boots again and the configuration names it. -/
def execMgtAliveTimeout (s : State) : Host.Outcome State Fault Refusal :=
  match s.rst.mgtTrial with
  | none => .next s
  | some old => .next (if s.rst.since s.rst.mgtMark 150000000 then
      endSwitch (s.setRst (s.rst.writeCfg { s.rst.cfg with activeMgt := old })) old false else s)

/-! #### Power failure, the reference clock, VDD_AUX (R493, R516, R543) -/

/-- R516: PWR_FAIL_N low for `ns` ns; 200 ns to 1 µs may or may not be taken. -/
def execPwrFailN (ns : Nat) (s : State) : Host.Outcome State Fault Refusal :=
  if !s.rst.vddAux || s.rst.wait = .powerFail || decide (ns < 200) then .next s
  else if 1000 ≤ ns then .next (powerFail s)
  else
    let (b, s) := s.freeBool
    .next (if b then powerFail s else s)

/-- R516 step 5: PWR_FAIL_N has been high for 100 ms, or the reference has been back for as long (R543). -/
def execPowerFailRestart (s : State) : Host.Outcome State Fault Refusal :=
  if s.rst.wait ≠ .powerFail || !s.rst.since s.rst.mark 100000000 then .next s
  else if s.rst.mgtRom then .next (s.setRst { s.rst with wait := .none_, baseCamp := true, step := 0xB })
  else .next (s.setRst { s.rst with wait := .none_, pwrEn := true, step := 0, entry := 0 }.enter)

/-- R543: the reference absent or off its range for `ns` ns. -/
def execRefclkLoss (ns : Nat) (s : State) : Host.Outcome State Fault Refusal :=
  .next (if s.rst.vddAux && s.rst.wait ≠ .powerFail && decide (10000 ≤ ns) then powerFail s else s)

/-- VDD_AUX leaves its range: everything but the flash is lost (R482, R493). -/
def execVddAuxLoss (s : State) : Host.Outcome State Fault Refusal :=
  let r := s.rst
  .next { State.reset with
    variant := s.variant, fuseRenames := s.fuseRenames, pwr := Pwr.fresh s.variant, pending := s.pending, out := s.out, freeCtr := s.freeCtr, hrNext := s.hrNext
    clp := { ring := (abandonWrite s.clp).ring }
    rst := { ({} : Rst) with
      rstLow := r.rstLow && !s.tapHigh, cfg0 := r.cfg0, cfg1 := r.cfg1, mgtA := r.mgtA, mgtB := r.mgtB, fwA := r.fwA, fwB := r.fwB } }

/-! #### The colophon writer (R512) -/

/-- R512: the record being programmed is committed; a START record's SEQ is the BOOT_SEQ of those that follow (R513). -/
def execColophonCommit (s : State) : Host.Outcome State Fault Refusal :=
  if !s.rst.vddAux then .next s
  else
    match s.clp.writing with
    | none => .next s
    | some r =>
      let c := s.clp
      let c := { c with
        ring := NMap.set .erased c.ring c.ptr (.record { r with seq := c.nextSeq }), ptr := ringNext c.ptr, nextSeq := c.nextSeq + 1
        lastType := BitVec.ofNat 8 r.typ, writing := none, bootSeq := if r.typ = 1 then c.nextSeq else c.bootSeq }
      .next { s with clp := c.kick }

/-- R512: an erase completes. -/
def execColophonEraseDone (s : State) : Host.Outcome State Fault Refusal :=
  match s.clp.erasing with
  | none => .next s
  | some b => .next { s with clp := ({ s.clp with ring := NMap.set .erased s.clp.ring b .erased, erasing := none }).kick }

end Sys2Proof.Machine
end

