-- ==== Sys2Proof/Machine/Trace.lean ====
section
/-! DEFINITION. Setting up counters and trace, their aggregation and writing, reading the colophon, and the boundary-scan
port (spec/20_observation.md R521-R532; spec/19 R513, R515; spec/18 R487; spec/21 R547-R549; spec/00 R3). -/

namespace Sys2Proof.Machine

/-! #### The catalogue of events (R523) -/

/-- The scope kinds that an event accepts; none for a reserved code. -/
def evKinds (e : Nat) : List Nat :=
  if (1 ≤ e ∧ e ≤ 0x0A) ∨ (0x10 ≤ e ∧ e ≤ 0x12) then [0, 1, 2, 3, 4]
  else if e = 0x13 then [0, 2, 3, 4]
  else if 0x20 ≤ e ∧ e ≤ 0x23 then [0, 1, 5]
  else if e = 0x24 then [0, 1]
  else if 0x30 ≤ e ∧ e ≤ 0x32 then [0, 1, 6]
  else if e = 0x33 then [0, 6]
  else if 0x40 ≤ e ∧ e ≤ 0x43 then [0, 1, 7]
  else if 0x50 ≤ e ∧ e ≤ 0x52 then [0, 1]
  else if e = 0x53 then [0]
  else []

def traceable (e : Nat) : Bool := [0x04, 0x05, 0x0A, 0x13, 0x23, 0x32, 0x42, 0x50, 0x51, 0x52, 0x53].contains e

/-- The values of SCOPE of each kind (R521). -/
def scopeCount (k : Nat) : Nat := ([1, 64, 2, 192, 75000, 256, 8, 64] : List Nat).getD k 0

/-- Whether a selection names an event, a kind that it accepts and a scope of that kind. -/
def selOk (w : Nat) : Bool := (evKinds (bitsOf w 7 0)).contains (bitsOf w 10 8) && decide (bitsOf w 27 11 < scopeCount (bitsOf w 10 8))

/-! #### OBS_CONFIG (R531, R532) -/

/-- The configuration image of R531: fields, counter entries (index, OBS_SEL value) and filter values. -/
structure ObsImage where
  format : Nat
  flags : Nat
  size : Nat
  resv : Bool
  counters : List (Nat × Nat)
  filters : List Nat

def obsImageLen (bs : List Byte) : Nat := 64 + 16 * leNat ((bs.drop 2).take 2) + 32 * leNat ((bs.drop 4).take 1)

def obsImage (bs : List Byte) : ObsImage :=
  let at_ (o n : Nat) : Nat := leNat ((bs.drop o).take n)
  let nc := at_ 2 2
  let nf := at_ 4 1
  { format := at_ 0 2, flags := at_ 5 1, size := at_ 6 2
    resv := at_ 8 56 != 0 || (List.range nc).any (fun i => at_ (64 + 16 * i + 2) 6 != 0) ||
      (List.range nf).any fun k => at_ (64 + 16 * nc + 32 * k + 16) 16 != 0
    counters := (List.range nc).map fun i => (at_ (64 + 16 * i) 2, at_ (64 + 16 * i + 8) 8)
    filters := (List.range nf).map fun k => at_ (64 + 16 * nc + 32 * k) 16 }

/-- A filter word with nothing reserved; all zero is a filter that is off. -/
def filtOk (w : Nat) : Bool :=
  w == 0 || (selOk w && traceable (bitsOf w 7 0) && bitsOf w 33 32 != 3 && bitsOf w 63 34 == 0 && bitsOf w 127 96 == 0)

/-- A counter entry with nothing reserved; all zero selects nothing. -/
def counterOk (e : Nat × Nat) : Bool := decide (e.1 < 4096) && (e.2 == 0 || (selOk e.2 && bitsOf e.2 63 30 == 0))

/-- TRACE_WAY: the highest-numbered anchor way that no ANCHOR_MASK names (R527). -/
def traceWay (m : MemSys) : Option Nat :=
  ((List.range m.anchorWays).map fun i => 15 - i).find? fun w => !m.partq.any fun e => e.2.anchorMask.getLsbD w

/-- Whether an allocation or region entry overlaps the range of a trace of `size` MiB. -/
def traceOverlaps (s : State) (size : Nat) : Bool :=
  let n := size * 0x100000
  s.parts.any (fun e => e.2.allocs.any fun a => a.2.typ ≠ 0 && spansMeet (a.2.basePage * 4096) (a.2.pages * 4096) traceBase n) ||
    s.mem.regions.any fun e => e.2.valid && spansMeet (e.2.base2m * 0x200000) (e.2.size2m * 0x200000) traceBase n

/-- Whether the image changes nothing and the command returns BAD_PARAM (R531). -/
def obsBad (s : State) (bs : List Byte) : Bool :=
  let i := obsImage bs
  let trace := bitOf i.flags 1
  i.format != 1 || decide (4096 < i.counters.length) || decide (16 < i.filters.length) || decide (8 ≤ i.flags) || i.resv ||
    bs.length != obsImageLen bs ||
    (if trace then i.size % 4 != 0 || decide (i.size < 4) || decide (64 < i.size) else i.size != 0) ||
    i.counters.any (fun e => !counterOk e) || i.filters.any (fun w => !filtOk w) || (i.counters.map Prod.fst).eraseDups.length != i.counters.length ||
    (trace && ((traceWay s.mem).isNone || traceOverlaps s i.size))

/-- The trace lines freed: they hold nothing of anyone's. -/
def freeTrace (m : MemSys) : MemSys := (NMap.keysWhere (fun _ l => l.trace) m.lines).foldl discardLine m

/-- The lines of a trace of `size` MiB anchored and zeroed in way `w`. -/
def anchorTrace (m : MemSys) (t : BitVec 64) (w size : Nat) : MemSys :=
  (lineRange traceBase (size * 0x100000)).foldl (fun m ln =>
    let m := (discardLine m ln).tick
    (clearWay m t ln w).setLine ln { zeroLine w m.useCtr with trace := true }) m

/-- The trace of an image set up, or removed (R532). -/
def obsTrace (s : State) (i : ObsImage) : State :=
  let m := freeTrace s.mem
  let o : Obs := { m.obs with
    filt := [], seen := [], buf := [], run := false, triggered := false, wrapped := false, wrap := false, next := 0, dropped := 0
    size := 0, way := 0, left := 0, trig := none, armed := false }
  if !bitOf i.flags 1 then { s with mem := { m with obs := o } }
  else
    let w := (traceWay s.mem).getD 0
    let filt := ((List.range i.filters.length).zip i.filters).foldl (fun m e => NMap.set 0 m e.1 (BitVec.ofNat 128 e.2)) ([] : NMap (BitVec 128))
    { s with mem := anchorTrace { m with obs := { o with filt := filt, wrap := bitOf i.flags 2, size := i.size, way := w, armed := true } } s.time w i.size }

/-- The counters of an image set: each one named restarts from 0, all of them with CLEAR_ALL. -/
def obsCounters (o : Obs) (i : ObsImage) : Obs :=
  let o := if bitOf i.flags 0 then { o with cnt := [], acc := [] } else o
  i.counters.foldl (fun (o : Obs) e => { o with
    sel := NMap.set 0 o.sel e.1 (BitVec.ofNat 64 e.2), cnt := NMap.set 0 o.cnt e.1 0, acc := NMap.set 0 o.acc e.1 0 }) o

/-- Whether an OBS_CONFIG has taken the OBS token. -/
def hasObsToken (s : State) (r : CmdRef) : Bool := s.holds.any fun h => h.obs && h.cmd = some r

/-- An OBS_CONFIG that found the token taken: BUSY, which is counted (R510). -/
def refuseBusy (s : State) (r : CmdRef) : State :=
  refuseCmd { s with tok := { s.tok with refusals := satAdd s.tok.refusals 1 0xFFFF } } r 0x10

/-- OBS_CONFIG with its image read: refused with the lowest code that applies (R352), or it waits for the next aggregation (R532). -/
def obsImageRead (s : State) (r : CmdRef) (bs : List Byte) : State :=
  if obsBad s bs then refuseCmd s r 0x06
  else if !hasObsToken s r then refuseBusy s r
  else { s with obsPending := some (r, bs) }

/-- An OBS_CONFIG whose image could not be read. -/
def obsFails (s : State) (r : CmdRef) (status : Nat) : State := if hasObsToken s r then refuseCmd s r status else refuseBusy s r

/-- Whether no image has the length that a packet gives. -/
def obsLengthBad (n : Nat) : Bool := decide (n < 64) || n % 16 != 0 || decide (64 + 16 * 4096 + 32 * 16 < n)

/-- R531: the image is read, from memory or from the host; it takes the OBS token. -/
def execObsConfig (f q : Nat) (s : State) : Host.Outcome State Fault Refusal :=
  runCmd s f q { sel := (· == 0x60), pfOnly := true, config := true, params := [(8, 0, 64), (16, 0, 32)] }
    (fun s _ c => !spanHeld s (c.arg 8 8) (c.arg 16 4) false)
    (fun s p c => if obsLengthBad (c.arg 16 4) then [0x06] else rangeRefusal s p (c.arg 8 8) (c.arg 16 4))
    fun s r p c =>
      let s := if tokensBusy s { obs := true } then s else takeTokens s { cmd := some r, obs := true }
      withImage s r p (c.arg 8 8) (c.arg 16 4) (fun s => obsFails s r 0x12) fun s bs => obsImageRead s r bs

/-- R522: 1 µs after the last time, every counter takes what its units accumulated, and OBS_SNAP is stamped; an OBS_CONFIG that waits is applied at
this boundary and completes, once no transaction holds a line that it may evict. -/
def execCounterAggregation (s : State) : Host.Outcome State Fault Refusal :=
  if !s.up || !s.since s.mem.obs.snap 1000 then .next s
  else
    let o := s.mem.obs
    let cnt := o.acc.foldl (fun m e => NMap.set 0 m e.1 (NMap.get 0 m e.1 + BitVec.ofNat 64 e.2)) o.cnt
    let s := { s with mem := { s.mem with obs := { o with cnt := cnt, acc := [], snap := s.time } } }
    match s.obsPending with
    | none => .next s
    | some (r, bs) =>
      if !s.mem.txns.isEmpty then .next s
      else
      let s := { s with obsPending := none }
      if !(s.queue r.f r.q).cmds.any (fun c => c.seq = r.seq) then .next s
      else
        let i := obsImage bs
        let s := { s with mem := { s.mem with obs := obsCounters s.mem.obs i } }
        .next (succeed0 (obsTrace s i) r)

/-! #### The trace writer (R528, R529) -/

/-- One record written at NEXT_INDEX, and what ends the capture. -/
def writeTrace (s : State) (e : Nat × Nat × BitVec 256) : State :=
  let o := s.mem.obs
  let m := sliceWrite s.mem s.time (traceBase + 32 * o.next) (BitVec.allOnes 32) e.2.2
  let next := o.next + 1
  let full := next = o.size * 32768
  let o := { o with
    buf := o.buf.erase e, next := if full && o.wrap then 0 else next, wrapped := o.wrapped || (full && o.wrap) }
  let stop := full && !o.wrap
  let o :=
    if !o.triggered then { o with run := !stop }
    else if o.trig = some e then { o with trig := none, run := !stop && decide (o.left ≠ 0) }
    else if o.trig.isSome then { o with run := !stop }
    else { o with left := o.left - 1, run := !stop && decide (1 < o.left) }
  { s with mem := { m with obs := if o.run then o else { o with buf := [] } } }

/-- R529: one buffered record written, with admission capacity that its home slice leaves unused: where no request waits for
admission. Records of one unit go in order; which unit's goes next is free. -/
def execTraceRecord (s : State) : Host.Outcome State Fault Refusal :=
  let o := s.mem.obs
  let units := (o.buf.map fun e => (e.1, e.2.1)).eraseDups
  if !s.up || !o.run || units.isEmpty || !(s.sliceQ (homeSlice s.mem (traceBase + 32 * o.next))).waiting.isEmpty then .next s
  else
    let (n, s) := s.freeNat
    let u := units.getD (n % units.length) (0, 0)
    match o.buf.find? fun e => (e.1, e.2.1) = u with
    | some e => .next (writeTrace s e)
    | none => .next s

/-! #### Reading the colophon (R350, R513, R515) -/

/-- SPN_DEVICE_ID (R3): first silicon, with the fields of the variant fuse. -/
def deviceId (v : Variant) : BitVec 64 := BitVec.ofNat 64 (packFields [
  (0x01, 0, 8), (match v with | .a1 => 0 | .b1 => 1 | .c1 => 2, 8, 2), (v.ceil, 10, 6), (0x0960, 16, 16), (0x1F6B, 32, 16), (v.sustCap, 48, 8),
  (v.fastCap, 56, 8)])

/-- One bit of CRC-32 (polynomial of IEEE 802.3, bits reflected). -/
def crcBit (c : BitVec 32) : BitVec 32 := if c.getLsbD 0 then (c >>> 1) ^^^ 0xEDB88320#32 else c >>> 1

def crcByte (c : BitVec 32) (b : Byte) : BitVec 32 :=
  let x := c ^^^ b.setWidth 32
  crcBit (crcBit (crcBit (crcBit (crcBit (crcBit (crcBit (crcBit x)))))))

/-- CRC-32 of bytes, complemented before and after. -/
def crc32 (bs : List Byte) : BitVec 32 := ~~~(bs.foldl crcByte 0xFFFFFFFF#32)

/-- The 4,096 bytes of a record (R513). -/
def recBytes (v : Variant) (r : ClpRec) : List Byte :=
  let body := r.body.take 4044
  let head := leBytes 0x31504C43 4 ++ leBytes 1 1 ++ leBytes r.typ 1 ++ leBytes body.length 2 ++ leBytes r.seq 8 ++ leBytes r.time.toNat 8 ++
    leBytes r.bootSeq 8 ++ leBytes r.rst.toNat 8 ++ leBytes (deviceId v).toNat 4 ++ leBytes 0 4
  let front := head ++ body ++ List.replicate (4044 - body.length) 0#8
  front ++ leBytes (crc32 front).toNat 4

/-- A block of the flash as it reads: a record of the ring; anything else, and a block that is being programmed or erased,
holds free bytes. -/
def flashBlock (s : State) (b : Nat) : State × List Byte :=
  let busy := s.clp.erasing = some b || (s.clp.writing.isSome && s.clp.ptr = b)
  match busy, s.clp.block b with
  | false, .record r => (s, recBytes s.variant r)
  | _, _ => let (n, s) := s.freeNat; (s, leBytes n 4096)

/-- R350: one block copied to DST; the result is the sequence number that stands in it. -/
def execClpRead (f q : Nat) (s : State) : Host.Outcome State Fault Refusal :=
  runCmd s f q { sel := (· == 0x61), pfOnly := true, config := true, params := [(8, 0, 32), (16, 0, 64)] }
    (fun s _ c => !spanHeld s (c.arg 16 8) 4096 true)
    (fun s p c => (if 16383 < c.arg 8 4 then [0x06] else []) ++ rangeRefusal s p (c.arg 16 8) 4096)
    fun s r p c =>
      let (s, bs) := flashBlock s (c.arg 8 4)
      succeed (putBytes s p (c.arg 16 8) bs) r (BitVec.ofNat 64 (leNat ((bs.drop 8).take 4))) 0

/-! #### Boundary scan (R547-R549) -/

/-- What cell i of the boundary register captures (R548): the level of its land, `lands` giving those that State does not: RST_N as
it stands, and what the device drives on THERMTRIP_N and PWR_EN. Cells of the sideband lands come first, two for each in the order
RST_N, PWR_FAIL_N, REG_ALERT_N, THERMTRIP_N, PWR_EN, SMB, PMB, AVS; then REFCLK; then four for each lane, which read 0 while a
rail of the lane is not ON: VIN18 for PCIe lanes, VDD_LNK and VDDH_LNK for link lanes. -/
def scanCell (s : State) (lands : BitVec 1118) (i : Nat) : Bool :=
  let on (r : Nat) : Bool := (s.rail r).st = 1
  if i = 0 then !s.rst.rstLow || s.tapHigh
  else if i = 7 then !s.thm.tripped
  else if i = 9 then s.rst.pwrEn
  else if i < 30 then lands.getLsbD i
  else lands.getLsbD i && (if i < 94 then on 0 else on 1 && on 2)

def scanCapture (s : State) (lands : BitVec 1118) : BitVec 1118 :=
  BitVec.ofBoolListLE ((List.range 1118).map (scanCell s lands)) |>.setWidth 1118

/-- Bits shifted through a register of width w, cell 0 out first: its contents after, and the bits that left. -/
def scanShift {w : Nat} : BitVec w → List Bool → BitVec w × List Bool
  | r, [] => (r, [])
  | r, b :: bs =>
    let (r', out) := scanShift ((r >>> 1) ||| ((BitVec.ofBool b).setWidth w <<< (w - 1))) bs
    (r', r.getLsbD 0 :: out)

/-- Bits as TDO gives them. -/
def tdoOut (bs : List Bool) : Out := .tdo bs.length (packFields (bs.zipIdx.map fun x => (b2n x.1, x.2, 1)))

/-- The test forms act while the land of RST_N is low (R549). -/
def tapActs (s : State) : Bool := tapTests s.tap && s.rst.rstLow && !s.tapHigh

/-- A scan of the data register that the instruction selects: IDCODE, the boundary register for SAMPLE/PRELOAD and the EXTEST forms, else
the bypass bit. Nothing shifted, nothing scanned. -/
def scanData (s : State) (lands : BitVec 1118) (tdi : List Bool) : State :=
  if tdi.isEmpty then s
  else if s.tap = 0x01 then s.send (tdoOut (scanShift 0x10960875#32 tdi).2)
  else if s.tap = 0x02 || (tapActs s && (s.tap = 0x00 || s.tap = 0x08 || s.tap = 0x09)) then
    let (r, out) := scanShift (scanCapture s lands) tdi
    { s with scan := r, scanOut := r }.send (tdoOut out)
  else s.send (tdoOut (scanShift 0#1 tdi).2)

/-- R547-R549: the instruction register captures 0b0000_0T01, then takes the instruction, every other opcode as BYPASS; then `tdi` passes
through the data register that it selects, `lands` being the levels of the lands. A test form in effect sets the lands from the
boundary register, HIGHZ apart, which drives none. -/
def execTapInstruction (x : TapScan) (s : State) : Host.Outcome State Fault Refusal :=
  if !s.rst.vddAux then .next s
  else
    let t := b2n (s.rst.rstLow && !s.tapHigh)
    let known := tapTests x.op || x.op = 0x01 || x.op = 0x02
    let s := { s.send (.tdo 8 (4 * t + 1)) with tap := if known then x.op else 0xFF }
    let s := if s.tapHigh && !tapTests x.op then { s.setRst { s.rst with rstLow := false } with tapHigh := false } else s
    let s := scanData s x.lands x.tdi
    .next (if tapActs s then s.send (.scanLands s.tap s.scanOut) else s)

end Sys2Proof.Machine
end

