-- ==== Sys2Proof/Machine/FaultEvt.lean ====
section
/-! DEFINITION. The fault event of a partition (spec/03_cores_and_thread_groups.md R88-R91, spec/12 R357, R358, spec/19
R512-R514) and the host's answers to reads of its memory (spec/06 R173, spec/12 R345, spec/22 R563). -/

namespace Sys2Proof.Machine

/-! #### FAULT_EVENT -/

/-- Whether a fault is recorded rather than another: the earlier stamp, then the lower cluster, core and slot (R90). -/
def FaultNote.before (a b : FaultNote) : Bool :=
  if a.time ≠ b.time then decide (a.time < b.time)
  else if a.cluster ≠ b.cluster then decide (a.cluster < b.cluster)
  else if a.core ≠ b.core then decide (a.core < b.core)
  else decide (a.slot < b.slot)

/-- The fault that an event records. -/
def recorded (n : FaultNote) (ns : List FaultNote) : FaultNote := ns.foldl (fun m x => if x.before m then x else m) n

/-- CMD_FAULT_REC of a fault (R91). -/
def faultWord (n : FaultNote) (multiple : Bool) (ctxId : Nat) : BitVec 256 :=
  let g (v : Nat) : Nat := if n.inGroup then v else 0
  let addr := if [2, 3, 4, 5, 7].contains n.cls then n.addr else 0
  BitVec.ofNat 256 (packFields [
    (n.cls, 0, 5), (1, 5, 1), (b2n multiple, 6, 1), (b2n n.inGroup, 7, 1), (g n.core, 8, 2), (g n.slot, 10, 2), (g n.gidx, 12, 4), (ctxId, 16, 16),
    (n.cluster, 32, 17), (g n.pc.toNat, 64, 48), (g n.laneMask.toNat, 112, 8), (addr, 128, 48), (n.time.toNat, 192, 64)])

/-- The context that a fault kills: the one it names, or for a fault raised outside any context one of the partition's
running contexts, which one is free; none where none runs. -/
def faultCtx (s : State) (p : Nat) (n : FaultNote) : State × Option Nat :=
  match n.ctx with
  | some k => (s, some k)
  | none =>
    let ks := s.openCtxs p
    let (i, s) := s.freeNat
    (s, ks[i % ks.length]?)

/-- A FAULT record, for the classes that have one, at most one per class per second (R512). -/
def recordFault (s : State) (p : Nat) (n : FaultNote) (w : BitVec 256) : State :=
  if !([5, 8, 10, 11].contains n.cls) then s
  else
    let skipped := NMap.get 0 s.clp.faultSkipped n.cls
    let recent := match NMap.get none s.clp.faultAt n.cls with
      | some t => decide ((s.time - t).toNat < 1000000000)
      | none => false
    if recent then { s with clp := { s.clp with faultSkipped := NMap.set 0 s.clp.faultSkipped n.cls (skipped + 1) } }
    else
      let s := submitRec s 3 (bodyOf [(p, 1), (w.toNat, 32), (skipped, 4)])
      { s with clp := { s.clp with
          faultAt := NMap.set none s.clp.faultAt n.cls (some s.time), faultSkipped := NMap.set 0 s.clp.faultSkipped n.cls 0 } }

/-- The opcodes that a fault event discards once they have started (R357). -/
def discardOp (op : Nat) : Bool := op == 0x11 || op == 0x12 || op == 0x13 || op == 0x48

/-- Started commands of partition p that an event discards. -/
def discarded (s : State) (p : Nat) : List CmdRef :=
  s.queues.flatMap fun e => (e.2.cmds.filter fun c => c.started && discardOp c.opcode && c.part (e.1 / 16) = some p).map fun c =>
    ⟨e.1 / 16, e.1 % 16, c.seq⟩

/-- The replies of step 5: FAULT for the context recorded, DISCARDED for the others and for discarded commands (R358). Commands of the
partition start once they have been written (R357). -/
def faultReplies (s : State) (p : Nat) (cls : Nat) (who : Option Nat) (w0 stamp : BitVec 64) : State :=
  let rs := discarded s p
  let s := dropXfers { s with hostReads := s.hostReads.filter fun h => match h.kind with | .command r => !rs.contains r | _ => true } rs
  let ks := s.openCtxs p
  let s := s.setPart p { s.part p with awaits := (s.part p).awaits ++ ks.map (fun k => (s.ctx k).cmd) ++ rs }
  let s := ks.foldl (fun s k => if some k = who then finishCtx s k 1 cls w0 stamp else finishCtx s k 2 0 0 stamp) s
  rs.foldl (fun s r => completeCmd s r 2 0 0 stamp) s

/-- Step 3: the record written, counted and reported. -/
def writeRecord (s : State) (p : Nat) (n : FaultNote) (w : BitVec 256) : State :=
  let s := s.setPart p { s.part p with faultRec := w, lastFault := n.time, notes := [] }
  let s := s.observe { ev := 0x52, part := some p, payload := w.toNat % 2 ^ 64 }
  recordFault s p n w

/-- Steps 3 to 5 of R88 for the faults noted in partition p. In a FROZEN partition the fault is recorded and nothing else
changes. -/
def execFaultEvent (p : Nat) (s : State) : Host.Outcome State Fault Refusal :=
  match (s.part p).notes with
  | [] => .next s
  | n0 :: ns =>
    let n := recorded n0 ns
    let (s, who) := faultCtx s p n
    let w := faultWord n (!ns.isEmpty) (match who with | some k => (s.ctx k).id.toNat | none => 0)
    let frozen := decide ((s.part p).st = .frozen)
    let s := writeRecord s p n w
    if frozen then .next s
    else
      let s := dropEngines (dropFabric (dropPartition (stopSched s p) p) p) p
      .next (settleReplies (faultReplies s p n.cls who (w.setWidth 64) n.time))

/-! #### Answers of the host (R563) -/

/-- The bus address of the read that holds byte `off` of a request. -/
def segAt : List (Nat × Nat) → Nat → Nat
  | [], _ => 0
  | (a, n) :: rest, off => if off < n || rest.isEmpty then a else segAt rest (off - n)

/-- A bus error of a lane or a scalar load whose data does not come. -/
def readFault (s : State) (g : Grp) (pc : BitVec 48) (lanes : BitVec 8) (addr : Nat) : State :=
  let gr := s.group g
  let b := (s.cluster g.cl).block gr.bslot
  if !gr.live then s
  else noteFault s b.part {
    cls := 5, time := s.time, cluster := g.cl, inGroup := true, core := g.core, slot := g.slot, gidx := gr.gidx, ctx := some b.ctx
    pc := pc, laneMask := lanes, addr := addr }

/-- Who waits for host read `id` in a cluster: a descriptor operation, a chain's store, or a reduction's delivery. -/
def readOwner (c : Cluster) (id : Nat) : Option (ChainOwner × BitVec 48) :=
  match c.tdOps.find? fun o => o.host = some id with
  | some o => some (o.owner, o.pc)
  | none =>
    match c.mx.drained.find? fun ch => ch.merge = some id with
    | some ch => some (ch.owner, ch.closePc)
    | none => c.td.findSome? fun e => match e.2.red with
      | some r => if r.merges.contains id then some (r.creator, r.pc) else none
      | none => none

/-- The partial bytes that a merge replaces, written back to the host: each element's span from what was read, an element
that shares a byte with an earlier one seeing it. -/
def mergeSpans (mem : ByteMap) : List BitWrite → ByteMap
  | [] => mem
  | w :: ws =>
    let (a, n) := bitSpan w
    mergeSpans (mem.write a (mergeBits (mem.read a n) w)) ws

/-- The bytes read, at their device addresses. -/
def spansOf : List BitWrite → List Byte → ByteMap → ByteMap
  | [], _, m => m
  | w :: ws, bs, m =>
    if bitsWhole w then spansOf ws bs m else let (a, n) := bitSpan w; spansOf ws (bs.drop n) (m.write a (bs.take n))

/-- Elements written by an agent, seen by its merges that are still awaited: its own writes undo none of each other (R34). -/
def noteMerged (cl : Nat) (ws : List BitWrite) (h : HostRead) : HostRead :=
  match h.kind with
  | .merge k xs done => if k = cl then { h with kind := .merge k xs (done ++ ws) } else h
  | _ => h

/-- Each element's span sent to the host with its bits merged in, `done` first: what other merges of the agent have written since
the read went out. -/
def hostMerge (s : State) (cl f : Nat) (ws done : List BitWrite) (bs : List Byte) : State :=
  let mem := mergeSpans (mergeSpans (spansOf ws bs []) done) ws
  let s := { s with hostReads := s.hostReads.map (noteMerged cl ws) }
  ws.foldl (fun s w => let (a, n) := bitSpan w; s.send (.hostWrite f (a - hostBase) (mem.read a n))) s

/-- Data that comes for a command. -/
def commandData (s : State) (r : CmdRef) (bs : List Byte) : State :=
  match (s.queue r.f r.q).cmds.find? fun c => c.seq = r.seq with
  | none => s
  | some c =>
    let p := c.partN r.f
    if c.opcode = 0x11 || c.opcode = 0x12 then startXfer s r p c (.bytes bs) (c.arg 16 8) (c.arg 24 8)
    else if c.opcode = 0x18 then schedImage s r p c bs
    else if c.opcode = 0x60 then obsImageRead s r bs
    else
      match (List.range 16).find? fun k => (s.engine k).busy && (s.engine k).cmd = r with
      | none => s
      | some k =>
        if (s.engine k).stage = 0 then collectivePairs s k c bs
        else collProgress (s.setEngine k ((s.engine k).fill bs)) k

/-- A command whose read failed: HOST_ERROR; a collective's engine ends with it. -/
def commandFails (s : State) (r : CmdRef) : State :=
  match (List.range 16).find? fun k => (s.engine k).busy && (s.engine k).cmd = r with
  | none =>
    match (s.queue r.f r.q).cmds.find? fun c => c.seq = r.seq with
    | none => s
    | some c =>
      if c.opcode = 0x18 then schedFails s r (c.partN r.f) 0x11
      else if c.opcode = 0x60 then obsFails s r 0x11
      else refuseCmd s r 0x11
  | some k => s.setEngine k { s.engine k with ends := some 0x11 }

/-- The data of a host read delivered. -/
def hostData (s : State) (h : HostRead) (bs : List Byte) : State :=
  match h.kind with
  | .lane g i vd regs signed _ => if (s.group g).live then setLane s g (s.group g) vd regs i (loadExtend (leNat bs) bs.length signed) else s
  | .scalar g sd _ => s.setGroup g ((s.group g).setS sd (BitVec.ofNat 32 (leNat bs)))
  | .td cl => tdHostData s cl h.id bs
  | .merge cl ws done =>
    let s := hostMerge s cl h.f ws done bs
    if cl < 75000 then tdProgress s cl else s
  | .entry f q => settleReplies (entryAnswer s f q (.data bs))
  | .command r => commandData s r bs

/-- A failed read delivered: a bus error, HOST_ERROR, or a queue in ERROR. -/
def hostFails (s : State) (h : HostRead) (off : Nat) : State :=
  let addr := hostBase + segAt h.segs off
  match h.kind with
  | .lane g i _ _ _ pc => readFault s g pc (1#8 <<< i) addr
  | .scalar g _ pc => readFault s g pc 0 addr
  | .td cl | .merge cl .. =>
    if 75000 ≤ cl then s.setEngine (cl - 2 ^ 20) { s.engine (cl - 2 ^ 20) with ends := some 0x11 }
    else
      match readOwner (s.cluster cl) h.id with
      | some (o, pc) => ownerFault s cl o 5 pc addr
      | none => s
  | .entry f q => settleReplies (queueError s f q 4)
  | .command r => commandFails s r

/-- Bytes that a request asks for. -/
def HostRead.bytes (h : HostRead) : Nat := (h.segs.map Prod.snd).sum

/-- The host's answer to request `id`: data; or UR, CA or a timeout, counted in HOST_READ_ERR; or data with EP set, delivered
in the same way and not counted. -/
def hostAnswer (s : State) (id : Nat) (r : HostResult) : State :=
  match s.hostReads.find? fun h => h.id = id with
  | none => s
  | some h =>
    let taken := { s with hostReads := s.hostReads.filter fun x => x.id ≠ id }
    match r with
    | .data bs => if bs.length = h.bytes then hostData taken h bs else s
    | .poisoned _ off => hostFails taken h off
    | .failed off => hostFails (countReadErr taken) h off
    | .timeout off => hostFails (countReadErr taken) h off

/-- R563: a completion of the host. -/
def execHostWindowCompletion (id : Nat) (r : HostResult) (s : State) : Host.Outcome State Fault Refusal :=
  .next (match r with
    | .timeout _ => s
    | r => hostAnswer s id r)

/-- R563: no completion came before the completion timeout in force for the requesting function (R334). -/
def execCompletionTimeout (id : Nat) (s : State) : Host.Outcome State Fault Refusal :=
  .next (match s.hostReads.find? fun h => h.id = id with
    | some h => if (s.time - h.sent).toNat < 1000 * (s.pcie h.f).cplTimeoutUs then s else hostAnswer s id (.timeout 0)
    | none => s)

end Sys2Proof.Machine
end

