-- ==== Sys2Proof/Machine/Regs.lean ====
section
/-! DEFINITION. The control and status space: which register stands at an offset, what it reads, which fields a read clears
and which a write changes (spec/22_address_map.md R553-R557, R561, and the register tables of every chapter). -/

namespace Sys2Proof.Machine

/-- The registers of R561 that BAR0 reaches, by instance. -/
inductive Reg where
  -- SPN_, CLK_
  | devId | folioStatus (f : Nat) | frame | slot (j : Nat) | clkStatus | clkTime | xmode | hangLog
  -- PWR_, THM_, CLP_
  | domain (d : Nat) | vmin (d : Nat) | rail (r : Nat) | bondLog | vf (n : Nat) | limit | belay | avg | phase (t : Nat) | pphase (p : Nat)
  | thmStatus | tripLog | sensor (n : Nat) | diode (k : Nat) | clpStatus
  -- TD_, CMD_, RST_
  | alloc (p e : Nat) | caps | hostErr | event | maint (i : Nat) | faultRec (p : Nat) | qcfg (f q : Nat)
  | rstStatus | stepTime (c : Nat) | backup (n : Nat) | retained (w : Nat)
  -- LNK_, MST_
  | lnkStatus (l : Nat) | lnkErr (l : Nat) | lnkTime (l : Nat) | sweep (l n : Nat) | collFlags (p : Nat)
  | mstCtrl | mstStatus (k : Nat) | raw (e : Nat) | mstErr (c : Nat) | mstErrLog (c : Nat) | mstMargin (c : Nat)
  -- OBS_
  | snap | obsTrace | filt (k : Nat) | peek (i : Nat) | sel (n : Nat) | cnt (n : Nat)
  -- apertures
  | fabSel (i : Nat) | clSel (i : Nat)
  | rtrCfg (c : Nat) | flCtrl (c : Nat) | flStart (c : Nat) | fabErr (c : Nat) | fabErrLog (c : Nat) | redErr (c : Nat) | redLog (c : Nat)
  | rename (c k : Nat) | fence (c k : Nat) | route (c e : Nat)
  | mxaEvt (cl : Nat) | mxaTime (cl i : Nat)
  -- SLC_, ROPE_
  | slcCtrl | region (e : Nat) | partq (p : Nat) | token (p : Nat) | slcErr (x : Nat) | slcErrLog (x : Nat)
  | ropeStatus | ropeEpoch | epochOpen | epochDone | ropeCnt | journalFirst | journalNext | mirror (e : Nat) | journal (w : Nat)
  deriving DecidableEq, Repr

/-! #### Where registers stand -/

/-- One row of the map: offset of the first instance, bytes between instances, instances, words of each. -/
structure RegRow where
  base : Nat
  stride : Nat
  count : Nat
  words : Nat
  reg : Nat → Reg

/-- The instance and word of a row at an offset. -/
def RegRow.at_ (r : RegRow) (off : Nat) : Option (Reg × Nat) :=
  if r.base ≤ off ∧ off < r.base + r.stride * r.count ∧ (off - r.base) % r.stride < 8 * r.words then
    some (r.reg ((off - r.base) / r.stride), (off - r.base) % r.stride / 8)
  else none

/-- The rows of every block but the apertures (R553, R561). -/
def regRows : List RegRow := [
  ⟨0x0, 8, 1, 1, fun _ => .devId⟩, ⟨0x40, 8, 2, 1, .folioStatus⟩, ⟨0x80, 8, 1, 1, fun _ => .frame⟩, ⟨0x100, 8, 8, 1, .slot⟩,
  ⟨0x1000, 8, 1, 1, fun _ => .clkStatus⟩, ⟨0x1008, 8, 1, 1, fun _ => .clkTime⟩, ⟨0x1010, 8, 1, 1, fun _ => .xmode⟩,
  ⟨0x1020, 16, 1, 2, fun _ => .hangLog⟩,
  ⟨0x2000, 8, 10, 1, .domain⟩, ⟨0x2100, 16, 10, 2, .vmin⟩, ⟨0x2200, 8, 8, 1, .rail⟩, ⟨0x2300, 16, 1, 2, fun _ => .bondLog⟩,
  ⟨0x2400, 8, 4, 1, .vf⟩, ⟨0x2500, 8, 1, 1, fun _ => .limit⟩, ⟨0x2508, 8, 1, 1, fun _ => .belay⟩, ⟨0x2510, 8, 1, 1, fun _ => .avg⟩,
  ⟨0x2600, 8, 64, 1, .phase⟩, ⟨0x2800, 8, 64, 1, .pphase⟩,
  ⟨0x4000, 8, 1, 1, fun _ => .thmStatus⟩, ⟨0x4010, 16, 1, 2, fun _ => .tripLog⟩, ⟨0x5000, 8, 476, 1, .sensor⟩, ⟨0x6000, 8, 16, 1, .diode⟩,
  ⟨0x8000, 16, 1, 2, fun _ => .clpStatus⟩,
  ⟨0x10000, 16, 1024, 2, fun i => .alloc (i / 16) (i % 16)⟩] ++ [
  ⟨0x20000, 8, 1, 1, fun _ => .caps⟩, ⟨0x20100, 8, 1, 1, fun _ => .hostErr⟩, ⟨0x20200, 16, 1, 2, fun _ => .event⟩,
  ⟨0x20210, 8, 4, 1, .maint⟩, ⟨0x22000, 0x20, 64, 4, .faultRec⟩, ⟨0x24000, 0x40, 1040, 4, fun i => .qcfg (i / 16) (i % 16)⟩,
  ⟨0x40000, 8, 1, 1, fun _ => .rstStatus⟩, ⟨0x40040, 8, 10, 1, .stepTime⟩, ⟨0x40100, 8, 16, 1, .backup⟩, ⟨0x50000, 8, 8192, 1, .retained⟩,
  ⟨0x60000, 0x100, 64, 1, .lnkStatus⟩, ⟨0x60010, 0x100, 64, 2, .lnkErr⟩, ⟨0x60020, 0x100, 64, 1, .lnkTime⟩,
  ⟨0x60040, 0x100, 64, 1, fun l => .sweep l 0⟩, ⟨0x60048, 0x100, 64, 1, fun l => .sweep l 1⟩,
  ⟨0x60050, 0x100, 64, 1, fun l => .sweep l 2⟩, ⟨0x60058, 0x100, 64, 1, fun l => .sweep l 3⟩, ⟨0x68000, 8, 64, 1, .collFlags⟩,
  ⟨0x80000, 8, 1, 1, fun _ => .mstCtrl⟩, ⟨0x80100, 8, 8, 1, .mstStatus⟩, ⟨0x80200, 16, 16, 2, .raw⟩,
  ⟨0x90000, 0x40, 256, 1, .mstErr⟩, ⟨0x90010, 0x40, 256, 3, .mstErrLog⟩, ⟨0x90030, 0x40, 256, 1, .mstMargin⟩] ++ [
  ⟨0xC0000, 8, 1, 1, fun _ => .snap⟩, ⟨0xC0008, 8, 1, 1, fun _ => .obsTrace⟩, ⟨0xC0100, 16, 16, 2, .filt⟩, ⟨0xC0200, 16, 4, 2, .peek⟩,
  ⟨0xD0000, 8, 4096, 1, .sel⟩, ⟨0xE0000, 8, 4096, 1, .cnt⟩, ⟨0x100000, 8, 8, 1, .fabSel⟩, ⟨0x110000, 8, 8, 1, .clSel⟩,
  ⟨0x200000, 8, 1, 1, fun _ => .slcCtrl⟩, ⟨0x201000, 16, 64, 2, .region⟩, ⟨0x202000, 8, 64, 1, .partq⟩, ⟨0x202200, 8, 64, 1, .token⟩,
  ⟨0x300000, 0x100, 256, 1, .slcErr⟩, ⟨0x300010, 0x100, 256, 3, .slcErrLog⟩,
  ⟨0x2000000, 8, 1, 1, fun _ => .ropeStatus⟩, ⟨0x2000008, 8, 1, 1, fun _ => .ropeEpoch⟩, ⟨0x2000010, 8, 1, 1, fun _ => .epochOpen⟩,
  ⟨0x2000018, 8, 1, 1, fun _ => .epochDone⟩, ⟨0x2000020, 8, 1, 1, fun _ => .ropeCnt⟩, ⟨0x2000030, 8, 1, 1, fun _ => .journalFirst⟩,
  ⟨0x2000038, 8, 1, 1, fun _ => .journalNext⟩, ⟨0x2000100, 16, 16, 2, .mirror⟩, ⟨0x3000000, 8, 0x200000, 1, .journal⟩]

/-- The rows of a router window (R204, R555). -/
def routerRows (c : Nat) : List RegRow := [
  ⟨0, 8, 1, 1, fun _ => .rtrCfg c⟩, ⟨0x8, 8, 1, 1, fun _ => .flCtrl c⟩, ⟨0x10, 8, 1, 1, fun _ => .flStart c⟩, ⟨0x20, 8, 1, 1, fun _ => .fabErr c⟩,
  ⟨0x30, 16, 1, 2, fun _ => .fabErrLog c⟩, ⟨0x40, 8, 1, 1, fun _ => .redErr c⟩, ⟨0x50, 16, 1, 2, fun _ => .redLog c⟩,
  ⟨0x100, 8, 41, 1, .rename c⟩, ⟨0x300, 8, 48, 1, .fence c⟩, ⟨0x800, 8, 256, 1, .route c⟩]

/-- The rows of a cluster window. -/
def clusterRows (cl : Nat) : List RegRow := [⟨0x100, 8, 1, 1, fun _ => .mxaEvt cl⟩, ⟨0x108, 8, 2, 1, .mxaTime cl⟩]

/-- VALID of the selectors (R555). -/
def fabSelValid (s : State) (i : Nat) : Bool :=
  let c := (NMap.get 0 s.fab.winSel i).toNat
  siteValid c && (s.folio (siteFolio c)).inService

def clSelValid (s : State) (i : Nat) : Bool :=
  let c := (NMap.get 0 s.fab.clSel i).toNat
  decide (c < 75000) && (s.folio (clFolio c)).inService && !(s.folio (clFolio c)).dead.contains (c % 18750)

def rowsAt (rows : List RegRow) (off : Nat) : Option (Reg × Nat) := rows.findSome? fun r => r.at_ off

/-- The register and word at an offset of the space; none where no register stands. -/
def regAt (s : State) (off : Nat) : Option (Reg × Nat) :=
  if 0x108000 ≤ off ∧ off < 0x110000 then
    let i := (off - 0x108000) / 0x1000
    if fabSelValid s i then rowsAt (routerRows (NMap.get 0 s.fab.winSel i).toNat) (off % 0x1000) else none
  else if 0x118000 ≤ off ∧ off < 0x120000 then
    let i := (off - 0x118000) / 0x1000
    if clSelValid s i then rowsAt (clusterRows (NMap.get 0 s.fab.clSel i).toNat) (off % 0x1000) else none
  else rowsAt regRows off

/-- A number that names a register, for captures. -/
def Reg.key : Reg → Nat
  | .hangLog => 1
  | .bondLog => 2
  | .tripLog => 3
  | .clpStatus => 4
  | .event => 5
  | .vmin d => 16 + d
  | .mirror e => 32 + e
  | .filt k => 48 + k
  | .raw e => 64 + e
  | .region e => 128 + e
  | .faultRec p => 192 + p
  | .lnkErr l => 256 + l
  | .alloc p e => 1024 + 16 * p + e
  | .qcfg f q => 2048 + 16 * f + q
  | .mstErrLog c => 4096 + c
  | .slcErrLog x => 4352 + x
  | .fabErrLog c => 2 ^ 20 + c
  | .redLog c => 2 ^ 21 + c
  | _ => 0

/-! #### What registers read -/

def bits64 (v i : Nat) : BitVec 64 := BitVec.ofNat 64 (v >>> (64 * i))

/-- CMD_QCFG (R340). -/
def qcfgWords (x : Queue) : List (BitVec 64) := [
  BitVec.ofNat 64 x.sqBase.toNat, BitVec.ofNat 64 x.cqBase.toNat,
  BitVec.ofNat 64 (packFields [(b2n x.enable, 0, 1), (x.sqLog2.toNat, 1, 5), (x.cqLog2.toNat, 6, 5), (x.vec.toNat, 11, 6), (x.verMin.toNat, 17, 4),
    (x.verMax.toNat, 21, 4)]),
  BitVec.ofNat 64 (packFields [(x.state.toNat, 0, 2), (x.version.toNat, 2, 4), (x.openErr.toNat, 6, 4), (x.sqHead.toNat, 32, 16), (x.cqTail.toNat, 48, 16)])]

def regionWords (base size : Nat) (hi : List (Nat × Nat × Nat)) : List (BitVec 64) :=
  [BitVec.ofNat 64 (base % 2 ^ 27), BitVec.ofNat 64 (packFields ((size, 0, 27) :: hi))]

def err4Word (e : Err4) : BitVec 64 := BitVec.ofNat 64 (packFields [(e.c0, 0, 16), (e.c1, 16, 16), (e.c2, 32, 16), (e.c3, 48, 16)])
def logWords (w n : Nat) : List (BitVec 64) := (List.range n).map (bits64 w)

/-- CLP_STATUS (R515). -/
def clpWords (c : Clp) : List (BitVec 64) := [
  BitVec.ofNat 64 (packFields [(c.ptr, 0, 14), (b2n c.writing.isSome, 14, 1), (c.waiting.length, 15, 4), (c.dropped, 19, 16), (b2n c.scanDone, 35, 1),
    (c.lastType.toNat, 36, 8)]),
  BitVec.ofNat 64 c.nextSeq]

/-- CMD_EVENT (R504). -/
def eventWords (e : CmdEvent) : List (BitVec 64) := [
  BitVec.ofNat 64 (packFields [(b2n e.suspect, 0, 1), (b2n e.dataLost, 1, 1), (b2n e.dataLostPf, 2, 1), (b2n e.bond, 3, 1), (b2n e.sensor, 4, 1),
    (b2n e.irqEn, 8, 1), (e.irqVec.toNat, 9, 6), (e.suspectCluster.toNat, 16, 17), (e.suspectCount, 48, 16)]), e.lostParts]

/-- CMD_CAPS (R341). -/
def capsWord (s : State) : BitVec 64 := BitVec.ofNat 64 (packFields [(1, 0, 4), (1, 4, 4), (1, 8, 8), (4, 16, 4), (s.rst.fwBuild.toNat, 32, 32)])

/-- CLK_HANG_LOG (R435). -/
def hangWords (c : Clk) : List (BitVec 64) := [
  BitVec.ofNat 64 (packFields [(b2n c.hangValid, 0, 1), (b2n c.hangWrite, 1, 1), (c.hangDomain.toNat, 2, 9), (c.hangs, 16, 16), (c.hangOffset.toNat, 32, 26)]),
  c.hangTime]

/-- LNK_STATUS, LNK_ERR, LNK_TIME and LNK_SWEEP (R380, R383-R385). -/
def lnkStatusWord (x : Link) : BitVec 64 :=
  BitVec.ofNat 64 (packFields [(x.st.toNat, 0, 3), (b2n x.qualified, 3, 1), (b2n x.berAlarm, 4, 1), (b2n x.phy, 5, 1), (x.encap.toNat, 6, 2),
    (if x.st = 5 then x.version.toNat else 0, 8, 4), (x.failCause.toNat, 12, 3), (b2n x.rope, 15, 1), (x.rate / 100, 16, 16)])

def lnkErrWords (x : Link) : List (BitVec 64) :=
  let w (o : Nat) : BitVec 64 := BitVec.ofNat 64 (packFields ((List.range 4).map fun i => (x.errs.getD (o + i) 0, 16 * i, 16)))
  [w 0, w 4]

def lnkTimeWord (x : Link) : BitVec 64 := BitVec.ofNat 64 (packFields [(x.offset.toNat, 0, 32), (x.rtt.toNat, 32, 24), (b2n x.timeValid, 56, 1)])

def sweepWord (x : SweepReg) : BitVec 64 :=
  BitVec.ofNat 64 (packFields [(x.tEarly.toNat, 0, 6), (x.tLate.toNat, 6, 6), (x.vLo.toNat, 12, 6), (x.vHi.toNat, 18, 6), (x.points, 24, 10),
    (b2n x.complete, 34, 1), (b2n x.aborted, 35, 1)])

/-- MST_STATUS (R316). -/
def mstStatusWord (s : State) (k : Nat) : BitVec 64 :=
  let x := NMap.get {} s.mem.stackSt k
  BitVec.ofNat 64 (packFields [(x.temp.toNat, 0, 8), (x.refBand.toNat, 8, 2), (x.throttle.toNat, 10, 2),
    (packFields ((List.range 32).map fun ch => (b2n (s.mem.nbuAt (32 * k + ch)).nb, ch, 1)), 16, 32)])

/-- OBS_TRACE (R530). -/
def obsTraceWord (o : Obs) : BitVec 64 :=
  BitVec.ofNat 64 (packFields [(b2n o.run, 0, 1), (b2n o.triggered, 1, 1), (b2n o.wrapped, 2, 1), (o.next, 3, 21), (o.dropped, 24, 16), (o.size, 40, 7),
    (o.way, 47, 4)])

/-- ROPE_STATUS (R417). -/
def ropeStatusWord (s : State) : BitVec 64 :=
  let r := s.rope
  let up (n : Nat) : Nat := b2n ((s.link (60 + n)).rope && (s.link (60 + n)).st = 5)
  BitVec.ofNat 64 (packFields [(r.st.toNat, 0, 3), (up 0, 3, 1), (up 1, 4, 1), (up 2, 5, 1), (up 3, 6, 1),
    (b2n (!s.mem.mirrors.isEmpty && decide (ropeLimit ≤ s.mem.syncedDirty)), 7, 1), (b2n r.ackOverdue, 8, 1), (r.refusal.toNat, 9, 3),
    (if r.st = 0 then 0 else min ((s.time - r.lastHeard).toNat / 1000) (2 ^ 32 - 1), 32, 32)])

/-- SPN_SLOT[j] (R276). -/
def slotWord (s : State) (j : Nat) : BitVec 64 := BitVec.ofNat 64 (packFields ((List.range 8).map fun m => (slotOwner s (8 * j + m), 8 * m, 8)))

/-- Eight bytes of the retained SRAM. -/
def retainedWord (s : State) (w : Nat) : BitVec 64 := BitVec.ofNat 64 (ByteMap.readNat s.rst.retained (8 * w) 8)

/-- Eight bytes of the journal window (R420): the records that a second holds. -/
def journalWord (s : State) (w : Nat) : BitVec 64 := BitVec.ofNat 64 (leNat (((NMap.get [] s.rope.window (w / 16)).drop (8 * (w % 16))).take 8))

/-- The words of a register as they stand. -/
def regWords (s : State) : Reg → List (BitVec 64)
  | .devId => [deviceId s.variant]
  | .folioStatus f => [folioWord s f]
  | .frame => [s.spine.frame]
  | .slot j => [slotWord s j]
  | .clkStatus => [Sys2Proof.Machine.clkStatus s]
  | .clkTime => [s.clk.master]
  | .xmode => [BitVec.ofNat 64 s.clk.xmode.toNat]
  | .hangLog => hangWords s.clk
  | .domain d => [domWord s d]
  | .vmin d => vminWords s d
  | .rail r => [railWord s r]
  | .bondLog => bondWords s
  | .vf n => [vfWord n]
  | .limit => [limitWord s]
  | .belay => [belayWord s]
  | .avg => [avgWord s]
  | .phase t => [phaseWord s t]
  | .pphase p => [pphaseWord s p]
  | .thmStatus => [Sys2Proof.Machine.thmStatus s]
  | .tripLog => tripWords s
  | .sensor n => [sensorWord s n]
  | .diode k => [diodeWord s k]
  | .clpStatus => clpWords s.clp
  | .alloc p e =>
    let x := NMap.get {} (s.part p).allocs e
    [BitVec.ofNat 64 x.basePage, BitVec.ofNat 64 (packFields [(x.pages, 0, 36), (x.typ.toNat, 36, 2)])]
  | .caps => [capsWord s]
  | .hostErr => [BitVec.ofNat 64 (packFields [(s.host.poisonedCpl, 0, 16), (s.host.urSent, 16, 16), (s.host.epReceived, 32, 16), (s.host.readErr, 48, 16)])]
  | .event => eventWords s.evt
  | .maint i => [cmdMaint s i]
  | .faultRec p => logWords (s.part p).faultRec.toNat 4
  | .qcfg f q => qcfgWords (s.queue f q)
  | .rstStatus => [Sys2Proof.Machine.rstStatus s.rst]
  | .stepTime c => [NMap.get 0 s.rst.stepTime c]
  | .backup n => [NMap.get 0 s.rst.backup n]
  | .retained w => [retainedWord s w]
  | .lnkStatus l => [lnkStatusWord (s.link l)]
  | .lnkErr l => lnkErrWords (s.link l)
  | .lnkTime l => [lnkTimeWord (s.link l)]
  | .sweep l n => [sweepWord ((s.link l).sweep.getD n {})]
  | .collFlags p => [BitVec.ofNat 64 (NMap.get 0 s.lnk.collFlags p).toNat]
  | .mstCtrl => [BitVec.ofNat 64 (b2n s.mem.mstScrubEn)]
  | .mstStatus k => [mstStatusWord s k]
  | .raw e => let x := NMap.get {} s.mem.raws e; regionWords x.base2m x.size2m [(b2n x.valid, 27, 1)]
  | .mstErr c => [err4Word (NMap.get {} s.mem.mstErr c)]
  | .mstErrLog c => logWords (NMap.get {} s.mem.mstErr c).log.toNat 3
  | .mstMargin c => [NMap.get 0 s.mem.mstMargin c]
  | .snap => [s.mem.obs.snap]
  | .obsTrace => [obsTraceWord s.mem.obs]
  | .filt k => logWords (NMap.get 0 s.mem.obs.filt k).toNat 2
  | .peek i => [BitVec.ofNat 64 (NMap.get 0 s.mem.obs.peek i).toNat, BitVec.ofNat 64 (Config.freeNat s.freeCtr)]
  | .sel n => [NMap.get 0 s.mem.obs.sel n]
  | .cnt n => [NMap.get 0 s.mem.obs.cnt n]
  | .fabSel i => [BitVec.ofNat 64 (packFields [((NMap.get 0 s.fab.winSel i).toNat, 0, 17), (b2n (fabSelValid s i), 17, 1)])]
  | .clSel i => [BitVec.ofNat 64 (packFields [((NMap.get 0 s.fab.clSel i).toNat, 0, 17), (b2n (clSelValid s i), 17, 1)])]
  | .rtrCfg c => [Sys2Proof.Machine.rtrCfg s c]
  | .flCtrl c => [Sys2Proof.Machine.flCtrl s c]
  | .flStart c => [(s.gath (siteGathKey c)).start]
  | .fabErr c =>
    let r := s.router c
    [BitVec.ofNat 64 (packFields [(r.collisions, 0, 16), (r.edgeDrops, 16, 16), (r.fenceDrops, 32, 16), (r.hdrErrors, 48, 16)])]
  | .fabErrLog c => logWords (s.router c).log.toNat 2
  | .redErr c => [BitVec.ofNat 64 (s.router c).mismatches]
  | .redLog c => logWords (s.router c).redLog.toNat 2
  | .rename c k =>
    let x := NMap.get {} (s.gath (siteGathKey c)).renames k
    [BitVec.ofNat 64 (packFields [(x.home, 0, 15), (x.site, 15, 15), (b2n x.valid, 30, 1)])]
  | .fence c k =>
    let x := NMap.get {} (s.gath (siteGathKey c)).fences k
    [BitVec.ofNat 64 (packFields [(x.site, 0, 15), (b2n x.valid, 15, 1)])]
  | .route c e => [NMap.get 0 (s.router c).routes e]
  | .mxaEvt cl => [(s.cluster cl).evt.word]
  | .mxaTime cl i => [if i = 0 then (s.cluster cl).evt.time0 else (s.cluster cl).evt.time1]
  | .slcCtrl => [BitVec.ofNat 64 (packFields [(s.mem.anchorWays, 0, 4), (b2n s.mem.slcScrubEn, 4, 1)])]
  | .region e =>
    let x := NMap.get {} s.mem.regions e
    regionWords x.base2m x.size2m [(x.interleave.toNat, 27, 2), (x.folio, 29, 1), (x.chanBase, 30, 8), (x.chanLog2, 38, 3), (b2n x.valid, 41, 1)]
  | .partq p => let x := NMap.get {} s.mem.partq p; [BitVec.ofNat 64 (packFields [(x.allocMask.toNat, 0, 16), (x.anchorMask.toNat, 16, 16), (x.entryQuota, 32, 10)])]
  | .token p => let x := NMap.get {} s.spine.tokens p; [BitVec.ofNat 64 (packFields [(x.rate.toNat, 0, 16), (x.burst.toNat, 16, 16), (b2n x.unregulated, 32, 1)])]
  | .slcErr x => [err4Word (NMap.get {} s.mem.slcErr x)]
  | .slcErrLog x => logWords (NMap.get {} s.mem.slcErr x).log.toNat 3
  | .ropeStatus => [ropeStatusWord s]
  | .ropeEpoch => [s.rope.epoch]
  | .epochOpen => [BitVec.ofNat 64 s.rope.open_]
  | .epochDone => [BitVec.ofNat 64 s.rope.done]
  | .ropeCnt => [BitVec.ofNat 64 (packFields [(s.rope.stale, 0, 16), (s.rope.partials, 16, 16), (s.rope.resent, 32, 16), (s.rope.holds, 48, 16)])]
  | .journalFirst => [BitVec.ofNat 64 s.rope.jFirst]
  | .journalNext => [BitVec.ofNat 64 s.rope.jNext]
  | .mirror e =>
    let x := NMap.get {} s.mem.mirrors e
    regionWords x.base2m x.size2m [(b2n x.valid, 27, 1), (b2n x.synced, 28, 1)]
  | .journal w => [journalWord s w]

/-! #### RC fields -/

/-- The RC fields of a register: word, lowest bit, width. -/
def rcFields : Reg → List (Nat × Nat × Nat)
  | .hostErr | .slcErr _ | .mstErr _ | .fabErr _ | .ropeCnt => [(0, 0, 16), (0, 16, 16), (0, 32, 16), (0, 48, 16)]
  | .lnkErr _ => [(0, 0, 16), (0, 16, 16), (0, 32, 16), (0, 48, 16), (1, 0, 16), (1, 16, 16), (1, 32, 16), (1, 48, 16)]
  | .redErr _ => [(0, 0, 16)]
  | .maint i => if i = 3 then [(0, 32, 16)] else []
  | .hangLog => [(0, 16, 16)]
  | .vmin _ => [(0, 21, 16)]
  | .rail _ => [(0, 51, 8)]
  | .belay => [(0, 40, 16)]
  | .clpStatus => [(0, 19, 16)]
  | _ => []

def clearErr4 (e : Err4) (z : Nat → Bool) : Err4 :=
  { e with c0 := if z 0 then 0 else e.c0, c1 := if z 1 then 0 else e.c1, c2 := if z 2 then 0 else e.c2, c3 := if z 3 then 0 else e.c3 }

/-- The RC fields of a register that `z` names by place in `rcFields` cleared. -/
def regClear (s : State) (r : Reg) (z : Nat → Bool) : State :=
  let k (i v : Nat) : Nat := if z i then 0 else v
  match r with
  | .hostErr =>
    let h := s.host
    { s with host := { h with poisonedCpl := k 0 h.poisonedCpl, urSent := k 1 h.urSent, epReceived := k 2 h.epReceived, readErr := k 3 h.readErr } }
  | .slcErr x => { s with mem := { s.mem with slcErr := NMap.set {} s.mem.slcErr x (clearErr4 (NMap.get {} s.mem.slcErr x) z) } }
  | .mstErr c => { s with mem := { s.mem with mstErr := NMap.set {} s.mem.mstErr c (clearErr4 (NMap.get {} s.mem.mstErr c) z) } }
  | .fabErr c =>
    let x := s.router c
    s.setRouter c { x with collisions := k 0 x.collisions, edgeDrops := k 1 x.edgeDrops, fenceDrops := k 2 x.fenceDrops, hdrErrors := k 3 x.hdrErrors }
  | .ropeCnt =>
    let x := s.rope
    { s with rope := { x with stale := k 0 x.stale, partials := k 1 x.partials, resent := k 2 x.resent, holds := k 3 x.holds } }
  | .lnkErr l => let x := s.link l; s.setLink l { x with errs := x.errs.mapIdx k }
  | .redErr c => let x := s.router c; s.setRouter c { x with mismatches := k 0 x.mismatches }
  | .maint _ => { s with tok := { s.tok with refusals := k 0 s.tok.refusals } }
  | .hangLog => { s with clk := { s.clk with hangs := k 0 s.clk.hangs } }
  | .vmin d => let x := s.dom d; s.setDom d { x with droops := k 0 x.droops }
  | .rail i => { s with pwr := { s.pwr with rails := NMap.set {} s.pwr.rails i { s.rail i with nacks := k 0 (s.rail i).nacks } } }
  | .belay => { s with pwr := { s.pwr with alerts := k 0 s.pwr.alerts } }
  | .clpStatus => { s with clp := { s.clp with dropped := k 0 s.clp.dropped } }
  | _ => s

/-- RC fields that lie wholly in `n` bytes from byte `b` of word `w`, cleared. -/
def clearCovered (s : State) (r : Reg) (w b n : Nat) : State :=
  regClear s r fun i => match (rcFields r)[i]? with
    | some (fw, lo, wd) => fw == w && decide (8 * b ≤ lo) && decide (lo + wd ≤ 8 * (b + n))
    | none => false

/-! #### Writes (R10, R12) -/

/-- The old word with the bits of `mask` taken from the value written. -/
def wrMerge (old v mask : BitVec 64) : BitVec 64 := (old &&& ~~~mask) ||| (v &&& mask)

/-- A VALID bit that a 1 clears. -/
def w1c (old : Bool) (v mask : BitVec 64) (i : Nat) : Bool := old && !(v &&& mask).getLsbD i

/-- The low bit of a log cleared where a 1 is written to it. -/
def w1cLog {n : Nat} (log : BitVec n) (v mask : BitVec 64) : BitVec n := if (v &&& mask).getLsbD 0 then log &&& ~~~1 else log

/-- CMD_QCFG written (R340, R342). -/
def writeQcfg (s : State) (f q w : Nat) (v mask : BitVec 64) : State :=
  let x := s.queue f q
  let low := mask.getLsbD 0
  match w with
  | 0 => if x.state = 0 then s.setQueue f q { x with sqBase := (wrMerge (x.sqBase.setWidth 64) v mask).setWidth 48 } else s
  | 1 => if x.state = 0 then s.setQueue f q { x with cqBase := (wrMerge (x.cqBase.setWidth 64) v mask).setWidth 48 } else s
  | 2 => if low then writeCtrl s f q v else s
  | _ => s

/-- CMD_EVENT written (R504). -/
def writeEvent (e : CmdEvent) (w : Nat) (v mask : BitVec 64) : CmdEvent :=
  if w = 1 then { e with lostParts := e.lostParts &&& ~~~(v &&& mask) }
  else
    let m := v &&& mask
    let e := { e with
      suspect := e.suspect && !m.getLsbD 0, dataLost := e.dataLost && !m.getLsbD 1, dataLostPf := e.dataLostPf && !m.getLsbD 2
      bond := e.bond && !m.getLsbD 3, sensor := e.sensor && !m.getLsbD 4 }
    if mask.getLsbD 8 then { e with irqEn := v.getLsbD 8, irqVec := v.extractLsb' 9 6 } else e

/-- A word of a register written: `mask` selects the bits that the access covers. -/
def regWrite (s : State) (r : Reg) (w : Nat) (v mask : BitVec 64) : State :=
  match r with
  | .qcfg f q => writeQcfg s f q w v mask
  | .event => { s with evt := writeEvent s.evt w v mask }
  | .faultRec p =>
    if w = 0 && (v &&& mask).getLsbD 5 then s.setPart p { s.part p with faultRec := (s.part p).faultRec &&& ~~~0x60#256 } else s
  | .collFlags p =>
    { s with lnk := { s.lnk with collFlags := NMap.set 0 s.lnk.collFlags p (NMap.get 0 s.lnk.collFlags p &&& ~~~((v &&& mask).setWidth 8)) } }
  | .hangLog => if w = 0 then { s with clk := { s.clk with hangValid := w1c s.clk.hangValid v mask 0 } } else s
  | .bondLog => if w = 0 then { s with pwr := { s.pwr with bondValid := w1c s.pwr.bondValid v mask 0 } } else s
  | .tripLog => if w = 0 then { s with thm := { s.thm with tripValid := w1c s.thm.tripValid v mask 0 } } else s
  | .vmin d => if w = 0 then let x := s.dom d; s.setDom d { x with vheld := w1c x.vheld v mask 63 } else s
  | .rstStatus => s.setRst { s.rst with retainedPerr := w1c s.rst.retainedPerr v mask 23 }
  | .mstErrLog c =>
    if w = 0 then let e := NMap.get {} s.mem.mstErr c
      { s with mem := { s.mem with mstErr := NMap.set {} s.mem.mstErr c { e with log := w1cLog e.log v mask } } } else s
  | .slcErrLog x =>
    if w = 0 then let e := NMap.get {} s.mem.slcErr x
      { s with mem := { s.mem with slcErr := NMap.set {} s.mem.slcErr x { e with log := w1cLog e.log v mask } } } else s
  | .fabErrLog c => if w = 0 then let x := s.router c; s.setRouter c { x with log := w1cLog x.log v mask } else s
  | .redLog c => if w = 0 then let x := s.router c; s.setRouter c { x with redLog := w1cLog x.redLog v mask } else s
  | .peek i =>
    if w = 0 then
      let old := NMap.get 0 s.mem.obs.peek i
      { s with mem := { s.mem with obs := { s.mem.obs with
          peek := NMap.set 0 s.mem.obs.peek i ((wrMerge (old.setWidth 64) v mask).setWidth 26) } } }
    else s
  | .fabSel i =>
    { s with fab := { s.fab with winSel := NMap.set 0 s.fab.winSel i ((wrMerge ((NMap.get 0 s.fab.winSel i).setWidth 64) v mask).setWidth 17) } }
  | .clSel i =>
    { s with fab := { s.fab with clSel := NMap.set 0 s.fab.clSel i ((wrMerge ((NMap.get 0 s.fab.clSel i).setWidth 64) v mask).setWidth 17) } }
  | .backup n => s.setRst { s.rst with backup := NMap.set 0 s.rst.backup n (wrMerge (NMap.get 0 s.rst.backup n) v mask) }
  | .retained x =>
    let new := wrMerge (retainedWord s x) v mask
    s.setRst { s.rst with
      retained := ByteMap.writeNat s.rst.retained (8 * x) 8 new.toNat
      retainedBad := s.rst.retainedBad.filter fun b => !(b / 8 = x && mask.getLsbD (8 * (b % 8))) }
  | _ => s

/-! #### Who sees what, and stopped domains -/

/-- Whether virtual function v sees a register (R525, R557). -/
def vfSees (s : State) (v : Nat) : Reg → Bool
  | .devId | .frame | .clkTime | .caps | .snap => true
  | .qcfg f _ => f == v
  | .faultRec p | .partq p | .token p | .pphase p | .collFlags p => p + 1 == v
  | .alloc p _ => p + 1 == v
  | .sel n | .cnt n =>
    let w := (NMap.get 0 s.mem.obs.sel n).toNat
    bitsOf w 10 8 == 1 && bitsOf w 27 11 + 1 == v && bitOf w 28
  | _ => false

def regSeen (s : State) (f : Nat) (r : Reg) : Bool := f = 0 || vfSees s f r

/-- Before READY only SPN_DEVICE_ID and the RST_ block are served (R486). -/
def earlyReg : Reg → Bool
  | .devId | .rstStatus | .stepTime _ | .backup _ | .retained _ => true
  | _ => false

/-- The code of the clock domain a register lies in (R421): those of a stack's controllers with its PHY, routers and
clusters with their folio, the supervisor's on the management clock, the rest in the spine. -/
def regDomain : Reg → Nat
  | .mstStatus k => 8 + k
  | .mstErr c | .mstErrLog c | .mstMargin c => 8 + c / 32
  | .rtrCfg c | .flCtrl c | .flStart c | .fabErr c | .fabErrLog c | .redErr c | .redLog c | .rename c _ | .fence c _ | .route c _ => 4 + siteFolio c
  | .mxaEvt cl | .mxaTime cl _ => 4 + clFolio cl
  | .rstStatus | .stepTime _ | .backup _ | .retained _ | .rail _ => 1
  | _ => 0

/-- Whether accesses to a register are answered with an error: its domain is STOPPED, or the management side is in reset
while an image is switched (R432, R433, R508). -/
def regStopped (s : State) (r : Reg) : Bool :=
  s.clk.stopped.contains (regDomain r) || (regDomain r == 1 && s.rst.mgtTrial.isSome)

end Sys2Proof.Machine
end

