-- ==== Sys2Proof/Machine/Spine.lean ====
section
/-! DEFINITION. The spine at work: the frame and admission (spec/10_spine_cache.md R275-R277, R292-R296), the coherence
messages one by one (R279-R283), requests of agents outside the clusters, slice scrub, and lost data (spec/19 R505). -/

namespace Sys2Proof.Machine

/-! #### Frame, tokens and admission -/

/-- R275, R292: the spine cycle counter passes into the next frame and every bucket is refilled, so that requests held for tokens go on. The counter runs from cold start,
so frames begin before READY too. -/
def execSpineFrameStart (s : State) : Host.Outcome State Fault Refusal :=
  if !s.up && !s.clk.pllLock then .next s
  else
    match s.reach s.frameEnd (s.frameEnd + 1) with
    | none => .next s
    | some s =>
      let toks := NMap.mapVals {} (fun _ (x : Token) => { x with tokens := refill x x.tokens }) s.spine.tokens
      let buckets := s.spine.buckets.foldl (fun m e =>
        let x := NMapTok s (e.1 % 64)
        bucketSet m (refill x x.tokens) e.1 (refill x (e.2.getD 0))) []
      .next (pumpPorts { s with spine := { s.spine with frame := s.spine.frame + 1, tokens := toks, buckets := buckets } })

/-- Sectors a request asks for, and sectors it carries (R277). -/
def reqOut (r : SliceReq) : Nat :=
  match r.msg with
  | .rd _ secs => ((List.range 4).filter fun i => secs.getLsbD i).length
  | .read n | .maint n => n
  | .atomic => 1
  | _ => 0

def reqIn (r : SliceReq) : Nat :=
  match r.msg with
  | .own _ ps => ps.length
  | .wb _ n | .write n => n
  | .atomic => 1
  | _ => 0

/-- Tokens a request uses: WBs and EVCs use none (R292). -/
def reqTokens (r : SliceReq) : Nat :=
  match r.msg with
  | .wb .. | .evc _ => 0
  | _ => reqOut r + reqIn r

/-- The key of a waiting request, lower first (R277): the slot's owner, requests older than a frame, the rotating rank. -/
def admitKey (s : State) (cycle : Nat) (r : SliceReq) : Nat :=
  let o := slotAt s cycle
  let mine := if o = 0x41 then reqMaint r else r.part == some o
  2 ^ 16 * b2n (!mine) + 2 ^ 15 * b2n (decide (r.waited ≤ 1024)) + wrapInt ((r.requester : Int) - (s.spine.frame.toNat : Int)) 14

/-- A request put into its place by its key, after those of an equal key. -/
def insertReq (key : SliceReq → Nat) (r : SliceReq) : List SliceReq → List SliceReq
  | [] => [r]
  | x :: xs => if key r < key x then r :: x :: xs else x :: insertReq key r xs

def sortReqs (key : SliceReq → Nat) (l : List SliceReq) : List SliceReq := l.foldl (fun acc r => insertReq key r acc) []

/-- Entries of the queue that a partition, or all that act for none, may hold (R294). -/
def entryLimit (s : State) (p : Option Nat) : Nat :=
  match p with
  | some p => (NMap.get {} s.mem.partq p).entryQuota
  | none => 64

/-- Entries held outside the reserve. -/
def SliceQ.heldBy (q : SliceQ) (p : Option Nat) : Nat := (q.queue.filter fun e => !e.reserve && e.req.part == p).length
def SliceQ.reserved (q : SliceQ) : Nat := (q.queue.filter (·.reserve)).length

/-- Whether the hold of a partition has reached its master ports: 8 spine cycles after the slice asserted it (R294). -/
def SliceQ.holding (q : SliceQ) (p : Option Nat) (cycle : Nat) : Bool := q.holds.any fun h => p == some h.1 && decide (h.2 + 8 ≤ cycle)

/-- One request at its master port: it leaves with its tokens, or the port holds it in place for a hold, for tokens, or behind a
request of the same port and partition (R292, R294). -/
def leavePort (slice cycle : Nat) (s : State) (r : SliceReq) : State :=
  let q := s.sliceQ slice
  let stay (s : State) : State := s.setSliceQ slice { s.sliceQ slice with ports := (s.sliceQ slice).ports ++ [r] }
  let go (s : State) : State := s.setSliceQ slice { s.sliceQ slice with waiting := (s.sliceQ slice).waiting ++ [r] }
  if q.holding r.part cycle || q.ports.any (fun x => x.requester = r.requester && x.part = r.part) then stay s
  else
    let n := reqTokens r
    if n = 0 then go s
    else if hasTokens s r.requester r.part n then spendTokens (go s) r.requester r.part n
    else stay (s.observe { ev := 0x24, part := r.part })

/-- Requests that a held cycle does not stop: maintenance, WB and EVC. -/
def reqGoesOn (r : SliceReq) : Bool :=
  match r.msg with
  | .maint _ | .wb .. | .evc _ => true
  | _ => false

/-- Whether a slice admits a request in a spine cycle: 32 requests, its data path, its queue; and maintenance in MAINT slots and
slots that no request uses (R277, R294, R295). In the reserve stand requests in flight beyond a quota. -/
def admits (s : State) (q : SliceQ) (cycle : Nat) (rest : List SliceReq) (r : SliceReq) : Bool :=
  (reqGoesOn r || !heldCycle s 4 cycle) &&
  decide (q.admitted < 32) && (reqOut r == 0 || decide (q.outUsed < 32)) && (reqIn r == 0 || decide (q.inUsed < 32)) &&
    decide (q.queue.length < 1024) &&
    (decide (q.heldBy r.part < entryLimit s r.part) || (r.part.isSome && decide (q.reserved < 32))) &&
    (!reqMaint r || slotAt s cycle == 0x41 || (rest.all reqMaint && decide (q.slotUsed ≤ cycle / 16)))

/-- A request admitted; the hold of its partition asserted when it reaches its quota (R294). -/
def admitOne (s : State) (cycle : Nat) (q : SliceQ) (r : SliceReq) : SliceQ :=
  let past := decide (entryLimit s r.part ≤ q.heldBy r.part)
  let q := { q with
    queue := q.queue ++ [{ req := r, reserve := past }], admitted := q.admitted + 1, outUsed := q.outUsed + reqOut r, inUsed := q.inUsed + reqIn r
    slotUsed := if reqMaint r then q.slotUsed else cycle / 16 + 1 }
  match r.part with
  | some p => if decide (entryLimit s r.part ≤ q.heldBy r.part) && !q.holds.any (fun h => h.1 = p) then { q with holds := q.holds ++ [(p, cycle)] } else q
  | none => q

/-- Requests in key order admitted while the slice's limits last; the others wait. -/
def admitReqs (s : State) (cycle : Nat) : List SliceReq → SliceQ → SliceQ
  | [], q => q
  | r :: rs, q => admitReqs s cycle rs (if admits s q cycle (rs ++ q.waiting) r then admitOne s cycle q r else { q with waiting := q.waiting ++ [r] })

/-- Holds clear when the partition's occupancy lies below its quota and the reserve is empty (R294). -/
def clearHolds (s : State) (q : SliceQ) : SliceQ :=
  { q with holds := q.holds.filter fun h => !(decide (q.heldBy (some h.1) < entryLimit s (some h.1)) && q.reserved == 0) }

/-- A slice's queue brought to a spine cycle: what the last one did not use of the data path is gone, sectors beyond 32 count
against the cycles that follow (R277). -/
def SliceQ.toCycle (q : SliceQ) (cycle : Nat) : SliceQ :=
  let d := cycle - q.cycle
  let older (l : List SliceReq) : List SliceReq := l.map fun r => { r with waited := r.waited + d }
  { q with
    cycle := cycle, admitted := if d = 0 then q.admitted else 0, outUsed := q.outUsed - 32 * d, inUsed := q.inUsed - 32 * d
    ports := older q.ports, waiting := older q.waiting }

/-- One spine cycle of a slice: requests that leave their ports, those held there first, then those waiting at the slice in the
order of R277. -/
def sliceAdmits (slice cycle : Nat) (arrived : List SliceReq) (s : State) : State :=
  let q := clearHolds s ((s.sliceQ slice).toCycle cycle)
  let s := s.setSliceQ slice { q with ports := [] }
  let s := (q.ports ++ arrived).foldl (leavePort slice cycle) s
  let q := s.sliceQ slice
  s.setSliceQ slice (admitReqs s cycle (sortReqs (admitKey s cycle) q.waiting) { q with waiting := [] })

/-- One spine cycle of a stack controller: the requests waiting at the channel enter its 64 entries in the order of R277 (R317),
none in a held cycle (R461). -/
def chanAdmits (c cycle : Nat) (arrived : List SliceReq) (s : State) : State :=
  let q := s.chanQ c
  let waiting := sortReqs (admitKey s cycle) ((q.waiting.map fun r => { r with waited := r.waited + (cycle - q.cycle) }) ++ arrived)
  let n := if heldCycle s (5 + c / 32) cycle then 0 else 64 - q.queue.length
  s.setChanQ c { waiting := waiting.drop n, queue := q.queue ++ waiting.take n, cycle := cycle }

/-- R277: one spine cycle, counted from cold start, of an arbiter: slice `k`, or, from 256 on, the controller of channel `k - 256`
(R317). -/
def execSliceAdmission (k cycle : Nat) (arrived : List SliceReq) (s : State) : Host.Outcome State Fault Refusal :=
  let here (r : SliceReq) : Bool := if k < 256 then homeSlice s.mem (r.line * 128) = k else rangeOf (r.line * 128) == .dram && chanOf (r.line * 128) = k - 256
  let last := if k < 256 then (s.sliceQ k).cycle else (s.chanQ (k - 256)).cycle
  if !s.up || decide (512 ≤ k) || !arrived.all here || decide (cycle < last) then .next s
  else
    match (if cycle = s.spineCycle then some s else s.toCycle (fabricCycleOf cycle)) with
    | none => .next s
    | some s => .next (if k < 256 then sliceAdmits k cycle arrived s else chanAdmits (k - 256) cycle arrived s)

/-! #### Coherence messages -/

/-- Whether a line is one that L1s cache: stack DRAM or spine-only. -/
def cachedLine (ln : Nat) : Bool := rangeOf (ln * 128) == .dram || rangeOf (ln * 128) == .spine

def MemSys.txnOf (m : MemSys) (ln : Nat) : Option Txn := m.txns.find? fun x => x.line = ln

/-- A sector granted to an L1: its bytes that the L1 has not written come from the slice. -/
def fillSec (t : BitVec 64) (cl ln : Nat) (m : MemSys) (i : Nat) : MemSys :=
  let (m, sd) := sliceRead m t (ln * 128 + 32 * i)
  if sd.err || m.vertOut.contains cl then m
  else
    let x := m.l1Line cl ln
    let sec := x.sec i
    m.setL1Line cl ln ({ x with present := true, used := m.useCtr }.setSec i
      { mask := BitVec.allOnes 32, dmask := sec.dmask, data := overlay sec.dmask sd.data sec.data, parBad := sec.parBad &&& sec.dmask })

def secList (secs : BitVec 4) : List Nat := (List.range 4).filter fun i => secs.getLsbD i

/-- An RD performed: the sectors returned, the cluster added (R280); a raw line of a channel in near-bank mode enters no L1
(R326). -/
def finishRd (m : MemSys) (t : BitVec 64) (cl ln : Nat) (secs : BitVec 4) : MemSys :=
  if isNbRaw m (ln * 128) then (secList secs).foldl (fun m i => (dramRead m t (ln * 128 + 32 * i) false).1) m
  else
  let m := m.setLine ln { m.lineAt ln with dir := (m.lineAt ln).dir.addSharer cl }
  let m := (l1Room m t cl ln).tick
  let m := (secList secs).foldl (fillSec t cl ln) m
  if (m.l1Line cl ln).present then m else m.setLine ln { m.lineAt ln with dir := (m.lineAt ln).dir.evc cl }

/-- The sectors an OWN carries placed in the L1 that now owns the line. -/
def placeCarried (m : MemSys) (cl ln : Nat) : List SecPart → MemSys
  | [] => m
  | p :: ps =>
    let x := m.l1Line cl ln
    let sec := x.sec p.sec
    placeCarried (m.setL1Line cl ln ({ x with present := true, used := m.useCtr }.setSec p.sec
      { sec with mask := sec.mask ||| p.mask, dmask := sec.dmask ||| p.mask, data := overlay p.mask sec.data p.data })) cl ln ps

/-- Carried sectors performed as an uncached write. -/
def writeCarried (m : MemSys) (t : BitVec 64) (mask : BitVec 16) (ln : Nat) (ps : List SecPart) : MemSys :=
  ps.foldl (fun m p => uncachedWriteSec m t mask (ln * 128 + 32 * p.sec) p.mask p.data) m

/-- An OWN performed once every other copy is gone (R280). -/
def finishOwn (m : MemSys) (t : BitVec 64) (mask : BitVec 16) (cl ln : Nat) (perform : Bool) (ps : List SecPart) : MemSys :=
  if perform || isNbRaw m (ln * 128) then writeCarried m t mask ln ps
  else
    let m := m.markDirty (ln * 128)
    let m := m.setLine ln { m.lineAt ln with dir := .own cl }
    placeCarried (l1Room m t cl ln).tick cl ln ps

/-- Clusters in service in a district (R194, R282). -/
def districtClusters (s : State) (d : Nat) : List Nat :=
  let (f, l, ty) := (d / 16, d % 16 / 8, d % 8)
  if !(s.folio f).inService then []
  else ((List.range 125).filter fun y => tyOf y = ty).flatMap fun y =>
    ((List.range 150).filter fun x => !(s.folio f).dead.contains (y * 150 + x)).map fun x => clNum f l y x

/-- Clusters to which the directory sends invalidations, and how (R280, R282). -/
def dirSnoops (s : State) : Dir → List Snoop
  | .unc => []
  | .sh cs => cs.map fun c => { cl := c, kind := .inv }
  | .shc ds => (ds.flatMap (districtClusters s)).map fun c => { cl := c, kind := .inv }
  | .own o => [{ cl := o, kind := .rcli }]

/-- A request taken up by its slice when no transaction is in progress on the line: performed at once, or begun with the
snoops it must send. -/
def startReq (s : State) (ln : Nat) (m : MemSys) : SliceMsg → MemSys
  | .evc cl => m.setLine ln { m.lineAt ln with dir := (m.lineAt ln).dir.evc cl }
  | .wb cl _ =>
    let x := NMap.get {} (m.l1At cl).wbuf ln
    let m := m.setL1 cl { m.l1At cl with wbuf := NMap.set {} (m.l1At cl).wbuf ln {} }
    if !x.present then m
    else
      let m := mergeCarried m s.time ln (m.carriedFrom cl x)
      m.setLine ln { m.lineAt ln with dir := if (m.lineAt ln).dir = .own cl then .unc else (m.lineAt ln).dir }
  | .rd cl secs =>
    let a := ln * 128 + 32 * (secList secs).headD 0
    let direct (m : MemSys) : MemSys := (secList secs).foldl (fun m i => (sliceRead m s.time (ln * 128 + 32 * i)).1) m
    if isNbRaw m a then finishRd m s.time cl ln secs
    else
      let m := ensureLine m s.time a (s.ways ((partOf s cl).getD 64))
      if !(m.lineAt ln).present then direct m
      else
        match (m.lineAt ln).dir with
        | .own o => if o = cl then finishRd m s.time cl ln secs
            else { m with txns := m.txns ++ [{ line := ln, req := .rd cl secs, snoops := [{ cl := o, kind := .rcl }] }] }
        | _ => finishRd m s.time cl ln secs
  | .own cl ps =>
    let mask := s.ways ((partOf s cl).getD 64)
    if isNbRaw m (ln * 128) then writeCarried m s.time mask ln ps
    else
      let m := ensureLine m s.time (ln * 128) mask
      if !(m.lineAt ln).present then writeCarried m s.time mask ln ps
      else
        let perform := m.rsv ln
        let sn := (dirSnoops s (m.lineAt ln).dir).filter fun x => perform || x.cl ≠ cl
        let m := match (m.lineAt ln).dir with
          | .shc ds => m.observe s.time {
              ev := 0x23, kind := 5, src := homeSlice m (ln * 128), payload := ln * 128 + (packFields (ds.map fun d => (1, d, 1)) <<< 48) }
          | _ => m
        if sn.isEmpty then finishOwn m s.time mask cl ln perform ps
        else { m with txns := m.txns ++ [{ line := ln, req := .own cl ps, perform := perform, snoops := sn }] }
  | _ => m

/-- Requests that have been taken up performed from the front of the line's entries, until one begins a transaction or the next
entry's own command has not come (R277, R281). -/
def serveLine (ln : Nat) : Nat → State → State
  | 0, s => s
  | fuel + 1, s =>
    match s.firstFor ln with
    | some e => if e.taken && !s.mem.lineBusy ln then
        let s := s.popFor ln
        serveLine ln fuel { s with mem := startReq s ln s.mem e.req.msg }
      else s
    | none => s

/-- The oldest entry of a request that has not been taken up is marked so; without one the request stands behind the others. -/
def markTaken (r : SliceReq) : List QEntry → List QEntry
  | [] => [{ req := r, taken := true }]
  | e :: es => if e.req.line = r.line && e.req.msg == r.msg && !e.taken then { e with taken := true } :: es else e :: markTaken r es

/-- A request of a cluster's L1 at its slice: performed, or kept in the queue in its place while older requests or a transaction
stand before it (R281). -/
def takeReq (s : State) (cl ln : Nat) (r : SliceMsg) : State :=
  if !s.mem.lineBusy ln && (s.firstFor ln).isNone then { s with mem := startReq s ln s.mem r }
  else
    let k := homeSlice s.mem (ln * 128)
    let q := markTaken ⟨homeRequester s cl, partOf s cl, ln, r, 0⟩ (s.sliceQ k).queue
    serveLine ln q.length (s.setSliceQ k { s.sliceQ k with queue := q })

/-- R280: RD. -/
def execRd (cl line : Nat) (secs : BitVec 4) (s : State) : Host.Outcome State Fault Refusal :=
  if !s.up || decide (75000 ≤ cl) || !cachedLine line || secs = 0 then .next s
  else .next (takeReq (s.acting (partOf s cl)) cl line (.rd cl secs))

/-- R280: OWN; a line whose page may not become dirty before the next cut holds it (R407). -/
def execOwn (cl line : Nat) (carried : List SecPart) (s : State) : Host.Outcome State Fault Refusal :=
  if !s.up || decide (75000 ≤ cl) || !cachedLine line || carried.any (fun p => decide (4 ≤ p.sec)) then .next s
  else if s.mem.ropeHolds (line * 128) then .next { s with rope := { s.rope with holds := satAdd s.rope.holds 1 0xFFFF } }
  else .next (takeReq (s.acting (partOf s cl)) cl line (.own cl carried))

/-- R280: EVC: an L1 drops a clean line. -/
def execEvc (cl line : Nat) (s : State) : Host.Outcome State Fault Refusal :=
  let x := s.mem.l1Line cl line
  if !s.up || !x.present || !(l1Carried x).isEmpty then .next s
  else
    let s := s.acting (partOf s cl)
    let m := s.mem.setL1 cl { s.mem.l1At cl with lines := NMap.set {} (s.mem.l1At cl).lines line {} }
    .next (takeReq { s with mem := m } cl line (.evc cl))

/-- R280, R281: WB: a dirty line moves to the writeback buffer and from there to its slice. -/
def execWb (cl line : Nat) (s : State) : Host.Outcome State Fault Refusal :=
  let x := s.mem.l1Line cl line
  if !s.up || !x.present || (l1Carried x).isEmpty then .next s
  else
    let s := s.acting (partOf s cl)
    let l := s.mem.l1At cl
    let m := s.mem.setL1 cl { l with lines := NMap.set {} l.lines line {}, wbuf := NMap.set {} l.wbuf line x }
    .next (takeReq { s with mem := m } cl line (.wb cl (l1Carried x).length))

/-- A snoop of kind `k` answered by the L1 of `cl`: from its line or its writeback buffer, with its dirty sectors; empty
where it holds no copy (R279, R281). -/
def answerSnoop (s : State) (cl line : Nat) (k : SnoopKind) : State :=
  let waits (x : Txn) : Bool := x.line = line && x.snoops.any fun n => n.cl = cl && n.kind = k && !n.answered
  if !s.mem.txns.any waits then s
  else
    let m := s.mem
    let x := l1Copy m cl line
    let parts := if x.present then m.carriedFrom cl x else []
    let buffered := (NMap.get {} (m.l1At cl).wbuf line).present
    let m := if k = .rcl && !buffered then (if x.present then m.setL1Line cl line x.clean else m) else l1Drop m cl line
    { s with mem := { m with txns := m.txns.map fun x =>
        if x.line = line then { x with snoops := x.snoops.map fun n =>
          if n.cl = cl && n.kind = k then { n with answered := true, carried := parts } else n } else x } }

/-- R281: INV at an L1. -/
def execInv (cl line : Nat) (s : State) : Host.Outcome State Fault Refusal := .next (answerSnoop s cl line .inv)

/-- R281: RCL at an L1. -/
def execRcl (cl line : Nat) (s : State) : Host.Outcome State Fault Refusal := .next (answerSnoop s cl line .rcl)

/-- R281: RCLI at an L1. -/
def execRcli (cl line : Nat) (s : State) : Host.Outcome State Fault Refusal := .next (answerSnoop s cl line .rcli)

/-- A transaction with every answer taken: its request performed, then those that waited. -/
def finishTxn (s : State) (m : MemSys) (x : Txn) : State :=
  let m := { m with txns := m.txns.filter fun y => y.line ≠ x.line }
  let m := match x.req with
    | .rd cl secs =>
      let m := match (m.lineAt x.line).dir with | .own o => m.setLine x.line { m.lineAt x.line with dir := .sh [o] } | _ => m
      finishRd m s.time cl x.line secs
    | .own cl ps =>
      let m := m.setLine x.line { m.lineAt x.line with dir := .unc }
      finishOwn m s.time (s.ways ((partOf s cl).getD 64)) cl x.line x.perform ps
    | _ => m
  serveLine x.line (s.sliceQ (homeSlice m (x.line * 128))).queue.length { s with mem := m }

/-- In-service home clusters of a spine port that the command processor counts for it at cold start and at every remap (R282),
among clusters that a snoop went to. -/
def portPeers (s : State) (cl : Nat) (sn : List Snoop) : List Nat :=
  (sn.filter fun n => homeRequester s n.cl = homeRequester s cl).map (·.cl)

/-- R282: the slice takes the answer of a cluster to its snoop; in SHC it takes the one answer into which the cluster's spine port
combines those of all its home clusters, once every one has come. With the last answer the transaction ends. -/
def execInvalidationAcknowledgement (line cl : Nat) (s : State) : Host.Outcome State Fault Refusal :=
  match s.mem.txnOf line with
  | none => .next s
  | some x =>
    let from_ := match (s.mem.lineAt line).dir with
      | .shc _ => portPeers s cl x.snoops
      | _ => [cl]
    let mine := x.snoops.filter fun n => from_.contains n.cl
    if mine.isEmpty || mine.any (fun n => !n.answered) then .next s
    else
      let m := mine.foldl (fun m n => mergeCarried m s.time line n.carried) s.mem
      let x := { x with snoops := x.snoops.filter fun y => !from_.contains y.cl }
      if x.snoops.isEmpty then .next (pumpPorts (finishTxn s m x))
      else .next { s with mem := { m with txns := m.txns.map fun y => if y.line = line then x else y } }

/-! #### Agents outside the clusters -/

/-- Whether a range lies in stack DRAM or in the spine-only range and may be served now. -/
def sliceServes (s : State) (a n : Nat) (write : Bool) : Bool :=
  s.up && n != 0 && cachedLine (a / 128) && cachedLine ((a + n - 1) / 128) && !spanHeld s a n write

def isRead : SliceMsg → Bool
  | .read _ => true
  | _ => false
def isWrite : SliceMsg → Bool
  | .write _ => true
  | _ => false

/-- R284: a slice operation of an agent that is no lane. -/
def execSliceAtomic (addr : Nat) (op : SliceOp) (s : State) : Host.Outcome State Fault Refusal :=
  let n := sliceOpWidth op
  if addr % n ≠ 0 || !sliceServes s addr n true || isNbRaw s.mem addr || !turnOf s addr n (·.msg == .atomic) then
    .next (if s.up && cachedLine (addr / 128) then countHold s addr n else s)
  else
    let s := takeLines (s.acting none) addr n
    let (m, _, _) := sliceAtomicAt s.mem s.time (s.ways 64) addr op
    .next { s with mem := m }

/-- R280: an uncached agent's read. -/
def execUncachedRead (addr len : Nat) (s : State) : Host.Outcome State Fault Refusal :=
  if !sliceServes s addr len false || !turnOf s addr len (fun r => isRead r.msg) then .next s
  else
    let s := takeLines (s.acting none) addr len
    .next { s with mem := (uncachedRead s.mem s.time (s.ways 64) addr len).1 }

/-- R280: an uncached agent's write. -/
def execUncachedWrite (addr : Nat) (data : List (BitVec 8)) (s : State) : Host.Outcome State Fault Refusal :=
  if !sliceServes s addr data.length true || !turnOf s addr data.length (fun r => isWrite r.msg) then
    .next (if s.up && cachedLine (addr / 128) then countHold s addr data.length else s)
  else
    let s := takeLines (s.acting none) addr data.length
    .next { s with mem := uncachedWrite s.mem s.time (s.ways 64) addr data }

/-! #### Scrub and lost data -/

/-- A scrub read of a line: its tag and directory entry, then its sectors (R296-R299). -/
def scrubLine (t : BitVec 64) (m : MemSys) (ln : Nat) : MemSys :=
  let m := checkLine m t ln true
  (List.range 4).foldl (fun m i =>
    let l := m.lineAt ln
    if l.present && (l.sec i).valid then sliceFetchSec m t ln i true else m) m

/-- The lines of a set in the order of their ways. -/
def linesByWay (m : MemSys) (slice set : Nat) : List Nat :=
  (List.range 16).flatMap fun w => (linesOfSet m slice set).filter fun ln => (m.lineAt ln).way = w

/-- R296: the slice's next four sets. -/
def execSliceScrub (slice : Nat) (s : State) : Host.Outcome State Fault Refusal :=
  if !s.up || decide (256 ≤ slice) || !s.mem.slcScrubEn then .next s
  else
    let set := NMap.get 0 s.mem.scrubSet slice
    let m := (List.range 4).foldl (fun m i => (linesByWay m slice (set + i)).foldl (scrubLine s.time) m) s.mem
    .next { s with mem := { m with scrubSet := NMap.set 0 m.scrubSet slice ((set + 4) % 8192) } }

/-- The lowest of a list that `f` takes gone: one report of a slice handled. -/
def dropOne (x : Nat) : List Nat → List Nat
  | [] => []
  | y :: ys => if x = y then ys else y :: dropOne x ys

/-- R505: a slice's report of a dirty line whose address is lost. -/
def execDataLost (slice : Nat) (s : State) : Host.Outcome State Fault Refusal :=
  if !s.up || !s.mem.lost.contains slice then .next s
  else
    let log := (NMap.get {} s.mem.slcErr slice).log
    let way := bitsOf log.toNat 7 4
    let ps := (List.range 64).filter fun p =>
      let q := NMap.get {} s.mem.partq p
      (q.allocMask ||| q.anchorMask).getLsbD way
    let s := { s with mem := { s.mem with lost := dropOne slice s.mem.lost } }
    let lostParts := s.evt.lostParts ||| BitVec.ofNat 64 (packFields (ps.map fun p => (1, p, 1)))
    let s := { s with evt := { s.evt with lostParts := lostParts } }
    let s := raiseEvent s 1 s.evt.dataLost { s.evt with dataLost := true }
    let s := if (cacheableWays s.mem).getLsbD way then raiseEvent s 2 s.evt.dataLostPf { s.evt with dataLostPf := true } else s
    let s := (ps.filter fun p => (s.part p).st = .running).foldl (fun s p =>
      noteFault s p { cls := 5, time := s.time, cluster := (s.part p).clusters.headD 0 }) s
    .next (submitRec s 5 (bodyOf [(log.toNat, 24), (slice, 4), (lostParts.toNat, 8)]))

end Sys2Proof.Machine
end

