-- ==== Sys2Proof/Machine/HostPort.lean ====
section
/-! DEFINITION. Requests that reach the host port: BAR0 reads and writes, peeks, BAR4 accesses and poisoned writes
(spec/12 R334-R337, spec/06 R174, R182, spec/18 R486, R494, R499, spec/20 R519, R520, spec/22 R554-R558). -/

namespace Sys2Proof.Machine

/-- How the host port answers BAR accesses of a function: the PCIe link is down; with Unsupported Request, in base camp mode, between the
steps of the function's reset (R338) and in D3hot; a cold start from step 3 on; in service. -/
inductive PortMode where
  | down | camp | start | up
  deriving DecidableEq, Repr

def portMode (s : State) (f : Nat) : PortMode :=
  let r := s.rst
  if !r.vddAux then .down
  else if s.up then (if s.fnOff f then .camp else .up)
  else if s.camp then .camp
  else if r.starting && decide (4 ≤ r.step.toNat) then .start
  else .down

def validFn (f : Nat) : Bool := decide (f ≤ 64)

/-! #### BAR0 reads (R336, R519, R554) -/

def bar0Size : Nat := 0x4000000

/-- An access of 4 or 8 naturally aligned bytes in BAR0. -/
def bar0Ok (off size : Nat) : Bool := (size == 4 || size == 8) && off % size == 0 && decide (off + size ≤ bar0Size)

/-- The bytes of an access from a register word. -/
def wordBytes (w : BitVec 64) (off size : Nat) : List Byte := leBytes (w.toNat >>> (8 * (off % 8))) size

/-- Whether an access to the retained SRAM meets a byte whose parity has failed (R499). -/
def retainedFails (s : State) (r : Reg) (off size : Nat) : Bool :=
  match r with
  | .retained w => s.rst.retainedBad.any fun b => decide (8 * w + off % 8 ≤ b) && decide (b < 8 * w + off % 8 + size)
  | _ => false

/-- The shadow of the register word at an offset (R11, R519): nothing clears and nothing moves on. -/
def peekWord (s : State) (off : Nat) : BitVec 64 :=
  match regAt s (off / 8 * 8) with
  | none => 0
  | some (r, w) => if regStopped s r || retainedFails s r 0 8 then BitVec.allOnes 64 else (regWords s r).getD w 0

/-- A read of OBS_PEEK[i].DATA: taken anew each time. -/
def peekRead (s : State) (i off size : Nat) : State :=
  answerData { s with freeCtr := s.freeCtr + 1 } 0 (wordBytes (peekWord s (NMap.get 0 s.mem.obs.peek i).toNat) off size)

/-- A captured register's word, where the function's last capture is of this register. -/
def captured (s : State) (f : Nat) (r : Reg) (w : Nat) : Option (BitVec 64) :=
  match NMap.get none s.host.captures f with
  | some c => if c.off = r.key then some (c.words.getD w 0) else none
  | none => none

/-- A register read by function f: a register wider than 64 bits is captured by a read of bits [31:0] of word 0, which
clears its RC fields; a later read of the rest takes the capture; every other read is live and clears what it covers. -/
def readReg (s : State) (f : Nat) (r : Reg) (w off size : Nat) : State :=
  let words := regWords s r
  let wide := decide (1 < words.length)
  let s1 := { s with freeCtr := s.freeCtr + 1 }
  if regStopped s r then answerData s f (List.replicate size 0xFF)
  else if retainedFails s r off size then answerData (s.setRst { s.rst with retainedPerr := true }) f (List.replicate size 0xFF)
  else if wide && w = 0 && off % 8 = 0 then
    let s1 := { s1 with host := { s1.host with captures := NMap.set none s1.host.captures f (some ⟨r.key, words⟩) } }
    answerData (regClear s1 r fun _ => true) f (wordBytes (words.getD 0 0) off size)
  else
    match (if wide then captured s f r w else none) with
    | some x => answerData s f (wordBytes x off size)
    | none => answerData (clearCovered s1 r w (off % 8) size) f (wordBytes (words.getD w 0) off size)

/-- A BAR0 read of 4 or 8 aligned bytes. -/
def bar0Read (s : State) (f off size : Nat) : State :=
  let zero := answerData s f (List.replicate size 0)
  match portMode s f with
  | .down => s
  | .camp => answerUr s f false
  | mode =>
    match regAt s off with
    | none => zero
    | some (r, w) =>
      if !regSeen s f r || (mode == .start && !earlyReg r) then zero
      else
        match r, w with
        | .peek i, 1 => peekRead s i off size
        | r, w => readReg s f r w off size

/-- R554: a read of bits [31:0] of a register's word 0, which captures a register wider than 64 bits. -/
def execCapturingRead (f off size : Nat) (s : State) : Host.Outcome State Fault Refusal :=
  .next (if validFn f && bar0Ok off size then bar0Read s f off size else s)

/-- R554: any other BAR0 read. -/
def execLiveBitsRead (f off size : Nat) (s : State) : Host.Outcome State Fault Refusal :=
  if validFn f && bar0Ok off size then .next (bar0Read s f off size) else .next s

/-- R520: the PF reads DATA of peek port `port`: its 8 bytes, or one half of them. -/
def execObsPeekDataRead (f port size half : Nat) (s : State) : Host.Outcome State Fault Refusal :=
  let off := 0xC0208 + 16 * port + (if size = 4 then 4 * (half % 2) else 0)
  .next (if validFn f && decide (port < 4) && bar0Ok off size then bar0Read s f off size else s)

/-- The four words of the PF's Vendor-Specific Extended Capability (R500). -/
def vsecWords (s : State) : List (BitVec 32) :=
  let st := (regWords s .rstStatus).getD 0 0
  [Config.vsecNext ++ 0x000B#16, 0x010#12 ++ 0x1#4 ++ 0x0001#16, st.extractLsb' 0 32, st.extractLsb' 32 32]

/-- A read of one word of the capability, in every state in which the configuration space answers (R485, R494, R500). -/
def vsecRead (s : State) (f off size : Nat) : State :=
  if f ≠ 0 || portMode s 0 = .down || size ≠ 4 || off % 4 ≠ 0 || decide (16 ≤ off) then s
  else answerData s 0 (leBytes ((vsecWords s).getD (off / 4) 0).toNat 4)

/-- R336: the accesses of BAR0 and BAR2 that no other row takes, and reads of the PF's configuration space (R500), whose offset counts
from the capability's first byte. Of BAR0 an AtomicOp, and a read or write that is not of 4 or 8
aligned bytes, are Unsupported Requests. Of BAR2 an AtomicOp is one, a read returns zero, and a write that rings no doorbell is
ignored. -/
def execBar0AccessUnsupported (f off size : Nat) (req : BarReq) (s : State) : Host.Outcome State Fault Refusal :=
  .next (
    if req.kind = .vsecRead then vsecRead s f off size
    else if !validFn f || portMode s f = .down || !(req.bar = 0 || req.bar = 2) then s
    else if req.bar = 2 && portMode s f ≠ .camp then
      (match req.kind with
       | .atomic => answerUr s f false
       | .read => answerData s f (List.replicate size 0)
       | .write | .vsecRead => s)
    else if req.bar = 0 && req.kind ≠ .atomic && bar0Ok off size then s
    else answerUr s f (req.kind = .write))

/-! #### BAR0 writes -/

/-- The bits of a word that an access covers. -/
def writeMask (off size : Nat) : BitVec 64 := BitVec.ofNat 64 ((2 ^ (8 * size) - 1) <<< (8 * (off % 8)))

/-- R10, R12: a register written. -/
def execRegisterWrite (f off size : Nat) (val : BitVec 64) (s : State) : Host.Outcome State Fault Refusal :=
  if !validFn f || !bar0Ok off size then .next s
  else
    match portMode s f with
    | .down => .next s
    | .camp => .next (answerUr s f true)
    | mode =>
      match regAt s off with
      | none => .next s
      | some (r, w) =>
        if !regSeen s f r || (mode == .start && !earlyReg r) || regStopped s r then .next s
        else .next (regWrite s r w (val <<< (8 * (off % 8))) (writeMask off size))

/-! #### BAR4 (R174, R182, R336, R556, R558) -/

/-- The device address of `n` bytes at offset `off` of function f's BAR4; none where a byte is unbacked. -/
def bar4Addr (s : State) (f off n : Nat) : Option Nat :=
  if n = 0 then none
  else if f = 0 then (if off + n ≤ 2 ^ (36 + (s.pcie 0).bar4Size.toNat) then some off else none)
  else
    let e := off / 2 ^ 32
    let o := off % 2 ^ 32
    let x := NMap.get {} (s.part (f - 1)).allocs e
    let a := x.basePage * 4096
    if decide (e < 16) && x.typ = 1 && (rangeOf a == .dram || rangeOf a == .spine) && decide (o + n ≤ x.pages * 4096) && decide (o + n ≤ 2 ^ 32)
    then some (a + o) else none

/-- A BAR4 access: Unsupported Request outside service or at an unbacked address; else it joins those that wait, and is served in
arrival order. -/
def bar4 (s : State) (f off n : Nat) (posted : Bool) (op : Bar4Op) : State :=
  if !validFn f || portMode s f = .down then s
  else if portMode s f ≠ .up then answerUr s f posted
  else
    match bar4Addr s f off n with
    | none => answerUr s f posted
    | some a => pumpBar4 { s with host := { s.host with bar4 := s.host.bar4 ++ [⟨f, a, op⟩] } }

/-- R182: a read, served at the owning slices. -/
def execBar4Read (f off len : Nat) (s : State) : Host.Outcome State Fault Refusal := .next (bar4 s f off len false (.read len))

/-- R182: a write, performed at the owning slices. -/
def execBar4Write (f off : Nat) (data : List (BitVec 8)) (s : State) : Host.Outcome State Fault Refusal :=
  .next (bar4 s f off data.length true (.write data))

/-- R174: an AtomicOp, performed by the slice's atomic unit. One of another size, or not aligned to its size, is Unsupported. -/
def execBar4Atomicop (f off : Nat) (op : PcieAtomic) (size : Nat) (a b : BitVec 64) (s : State) : Host.Outcome State Fault Refusal :=
  .next (
    if (pcieSliceOp op size a b).isNone || off % size ≠ 0 then (if validFn f && portMode s f ≠ .down then answerUr s f false else s)
    else bar4 s f off size false (.atomic op size a b))

/-- R336: a write TLP with EP set is dropped and counted, whichever BAR it is for. -/
def execPoisonedWriteTlp (f bar : Nat) (s : State) : Host.Outcome State Fault Refusal :=
  .next (
    if !validFn f || !(bar = 0 || bar = 2 || bar = 4) then s
    else match portMode s f with
      | .down => s
      | .camp => answerUr s f true
      | _ => { s with host := { s.host with epReceived := satAdd s.host.epReceived 1 0xFFFF } })

end Sys2Proof.Machine
end

