-- ==== Sys2Proof/Machine/Illegal.lean ====
section
/-! DEFINITION. An instruction word that no member table gives a meaning to (spec/04_instruction_set.md R94, R96). -/

namespace Sys2Proof.Machine

/-- Words of an instruction: the opcode alone fixes whether an extension word follows (R93). -/
def wordsOf (w : BitVec 32) : Nat := if [0xB0, 0xB3, 0xCC, 0xF1].contains (w.toNat / 2 ^ 24) then 2 else 1

/-- R96: a reserved opcode or a non-zero reserved field, such as an extension word at a branch target (R94), is an
illegal-instruction fault, class 1. A word that the tables of the chapter give a meaning is that instruction's own
command and is none of this row's. -/
def execIllegalInstruction (g : Grp) (w ext : BitVec 32) (s : State) : Host.Outcome State Fault Refusal :=
  match Sys2Proof.decodeCore g w ext with
  | some _ => .next s
  | none => .next (coreStep s g { ill := true, words := wordsOf w, vector := false } fun s _ _ _ => .done s)

end Sys2Proof.Machine
end

