-- ==== Sys2Proof/Machine/Scalar.lean ====
section
/-! DEFINITION. Scalar arithmetic and the special registers (spec/04_instruction_set.md R116, R122-R125). -/

namespace Sys2Proof.Machine

/-- Destination, sources, illegality and words of a scalar member. -/
def scaFields : ScaOp → Nat × List Nat × Bool × Nat
  | .sadd d a b | .ssub d a b | .smul d a b | .sand d a b | .sor d a b | .sxor d a b
  | .sshl d a b | .sshr d a b | .ssar d a b => (d.toNat, [a.toNat, b.toNat], false, 1)
  | .scmpS d a b cc | .scmpU d a b cc => (d.toNat, [a.toNat, b.toNat], decide (6 ≤ cc.toNat), 1)
  | .saddi d a _ | .sori d a _ | .sandi d a _ => (d.toNat, [a.toNat], false, 1)
  | .smovi d _ => (d.toNat, [], false, 2)
  | .slui d _ => (d.toNat, [], false, 1)

/-- The result of a scalar member (R116). -/
def scaResult (gr : Group) : ScaOp → Word
  | .sadd _ a b => gr.s a.toNat + gr.s b.toNat
  | .saddi _ a i => gr.s a.toNat + i.signExtend 32
  | .ssub _ a b => gr.s a.toNat - gr.s b.toNat
  | .smul _ a b => gr.s a.toNat * gr.s b.toNat
  | .sand _ a b => gr.s a.toNat &&& gr.s b.toNat
  | .sor _ a b => gr.s a.toNat ||| gr.s b.toNat
  | .sxor _ a b => gr.s a.toNat ^^^ gr.s b.toNat
  | .sshl _ a b => gr.s a.toNat <<< ((gr.s b.toNat).toNat % 32)
  | .sshr _ a b => gr.s a.toNat >>> ((gr.s b.toNat).toNat % 32)
  | .ssar _ a b => (gr.s a.toNat).sshiftRight ((gr.s b.toNat).toNat % 32)
  | .scmpS _ a b cc =>
    if ccHolds cc (cmpResult .intS (gr.s a.toNat).toNat (gr.s b.toNat).toNat) then 1 else 0
  | .scmpU _ a b cc =>
    if ccHolds cc (cmpResult .intU (gr.s a.toNat).toNat (gr.s b.toNat).toNat) then 1 else 0
  | .smovi _ i => i
  | .slui _ i => (i.setWidth 32) <<< 16
  | .sori _ a i => gr.s a.toNat ||| i.setWidth 32
  | .sandi _ a i => gr.s a.toNat &&& i.setWidth 32

/-- R116. -/
def execScalarArithmetic (g : Grp) (op : ScaOp) (s : State) : Host.Outcome State Fault Refusal :=
  let (d, src, bad, w) := scaFields op
  .next (coreStep s g { sr := d :: src, ssrc := src, ill := bad, words := w, vector := false } fun s gr _ _ =>
    .done (s.setGroup g (gr.setS d (scaResult gr op))))

/-- What a special register reads as, and the group after the read (TIME_LO latches) (R122). -/
def srRead (s : State) (g : Grp) (gr : Group) (b : Block) (n : Nat) : Option (Word × Group) :=
  let x := s.ctx b.ctx
  let v (k : Nat) : Option (Word × Group) := some (BitVec.ofNat 32 k, gr)
  match n with
  | 0x00 => v gr.active.toNat
  | 0x01 => v gr.flags.toNat
  | 0x02 => v gr.mxstat.toNat
  | 0x03 => v (packFields [(gr.gidx, 0, 4), (b.groups, 4, 5)])
  | 0x04 => v (b.index % x.gx)
  | 0x05 => v (b.index / x.gx % x.gy)
  | 0x06 => v (b.index / (x.gx * x.gy))
  | 0x07 => v (packFields [(x.gx, 0, 16), (x.gy, 16, 16)])
  | 0x08 => v (x.gz % 65536)
  | 0x09 => v g.cl
  | 0x0A => v ((s.part b.part).index g.cl)
  | 0x0B => v (packFields [(g.core, 0, 2), (g.slot, 2, 2), (gr.bslot, 4, 2)])
  | 0x0C => v x.id.toNat
  | 0x0D => some (s.time.setWidth 32, { gr with timeLatch := s.time })
  | 0x0E => some ((gr.timeLatch >>> 32).setWidth 32, gr)
  | _ => none

/-- An earlier vector load or atomic of the group has not produced its result (R125). -/
def vecOutstanding (s : State) (g : Grp) : Bool :=
  s.hostReads.any fun h => match h.kind with
    | .lane g' .. => g' = g
    | _ => false

/-- R122, R125: a reserved register is an illegal instruction; a read of FLAGS waits for earlier vector instructions. -/
def execSread (g : Grp) (sd : BitVec 4) (srn : BitVec 8) (s : State) : Host.Outcome State Fault Refusal :=
  .next (coreStep s g { sr := [sd.toNat], ssrc := [], ill := decide (0x0F ≤ srn.toNat), vector := false } fun s gr b _ =>
    if srn = 1 && vecOutstanding s g then .hold
    else
    match srRead s g gr b srn.toNat with
    | some (v, gr) => .done (s.setGroup g (gr.setS sd.toNat v))
    | none => .flt 1 0 0)

/-- R122-R125: only FLAGS and MXSTAT are written; a write of FLAGS waits for earlier vector instructions. -/
def execSwrite (g : Grp) (sa : BitVec 4) (srn : BitVec 8) (s : State) : Host.Outcome State Fault Refusal :=
  .next (coreStep s g { sr := [sa.toNat], ill := srn != 1 && srn != 2, vector := false } fun s gr _ _ =>
    if srn = 1 && vecOutstanding s g then .hold
    else .done (s.setGroup g (if srn = 1 then { gr with flags := (gr.s sa.toNat).setWidth 5 }
      else { gr with mxstat := (gr.s sa.toNat).setWidth 8 })))

end Sys2Proof.Machine
end

