-- ==== Sys2Proof/Machine/Stack.lean ====
section
/-! DEFINITION. The stack controllers' own steps: sector reads and writes, writing corrected sectors back, scrub and
refresh (spec/11_memory_stacks.md R308-R314). -/

namespace Sys2Proof.Machine

def State.setMem (s : State) (m : MemSys) : State := { s with mem := m }

/-- Whether an access to a sector may be performed: at its channel no older entry for its line stands ahead of its own (R317).
A request that has no entry stands for its own admission. -/
def chanServes (s : State) (addr : Nat) (mine : SliceReq → Bool) : Bool :=
  s.up && rangeOf addr == .dram && s.chanTurn (chanOf addr) (fun r => r.line = addr / 128 && !reqMaint r) mine

def chanTake (s : State) (addr : Nat) : State := s.chanPop (chanOf addr) fun r => r.line = addr / 128 && !reqMaint r

/-- R309-R311: a controller reads a sector. -/
def execDramSectorRead (addr : Nat) (s : State) : Host.Outcome State Fault Refusal :=
  if !chanServes s addr (fun r => isRead r.msg) then .next s
  else
    let s := chanTake s addr
    .next (s.setMem (dramRead s.mem s.time addr false).1)

/-- R308, R310-R312: a controller writes a sector. -/
def execDramSectorWrite (addr : Nat) (data : BitVec 256) (poison : Bool) (s : State) : Host.Outcome State Fault Refusal :=
  if !chanServes s addr (fun r => isWrite r.msg) then .next s
  else
    let s := chanTake s addr
    .next (s.setMem (dramWrite s.mem s.time addr data poison))

/-- R309: the oldest corrected sector of the channel written back; one that has been written since stands as it is. -/
def execCorrectedWriteback (chan : Nat) (s : State) : Host.Outcome State Fault Refusal :=
  if !s.up then .next s
  else
    match s.mem.corrWb.find? fun a => chanOf a = chan with
    | none => .next s
    | some a =>
      let m := { s.mem with corrWb := s.mem.corrWb.erase a }
      match (if isRaw m a then EccResult.clean else eccDecode (m.dramSector a) (m.dramSectorEcc a)) with
      | .corrected i e =>
        let sy := (symbolsOf (m.dramSector a) (m.dramSectorEcc a)).modify i (· ^^^ e)
        .next (s.setMem (dramWrite m s.time a (sectorOfSymbols (sy.take 32)) false))
      | _ => .next (s.setMem m)

/-- `todo` protected sectors of a channel read from sector number `n` (four to a line of L) on; a raw block of 2 MiB is
passed over whole. The number of the sector after the last one read. -/
def scrubSectors (t : BitVec 64) (chan : Nat) : Nat → Nat → MemSys → Nat → MemSys × Nat
  | 0, _, m, n => (m, n)
  | fuel + 1, todo, m, n =>
    if todo = 0 then (m, n)
    else
      let a := lineAddr chan (n / 4) + 32 * (n % 4)
      if isRaw m a then scrubSectors t chan fuel todo m ((n / 65536 + 1) * 65536 % 2 ^ 26)
      else scrubSectors t chan fuel (todo - 1) (dramRead m t a true).1 ((n + 1) % 2 ^ 26)

/-- R313: the channel's next four protected sectors; a margin measurement or a raw range change suspends the scrub of its stack (R510). -/
def execChannelScrub (chan : Nat) (s : State) : Host.Outcome State Fault Refusal :=
  if !s.up || decide (256 ≤ chan) || !s.mem.mstScrubEn || s.holds.any (fun h => h.stk.getLsbD (chan / 32)) then .next s
  else
    let (m, n) := scrubSectors s.time chan 264 4 s.mem (NMap.get 0 s.mem.scrubL chan)
    .next (s.setMem { m with scrubL := NMap.set 0 m.scrubL chan n })

/-- R314: a refresh changes no contents; the bank it blocks meanwhile is timing. -/
def execPerBankRefresh (_chan _bank : Nat) (s : State) : Host.Outcome State Fault Refusal := .next s

end Sys2Proof.Machine
end

