-- ==== Sys2Proof/Machine/Vec.lean ====
section
/-! DEFINITION. The vector path: arithmetic, compares, conversions, moves and predicates
(spec/04_instruction_set.md R100-R109). -/

namespace Sys2Proof.Machine

/-- R100, R103: the integer members. -/
def execVectorIntegerArithmetic (g : Grp) (op : VIntOp) (vd va : BitVec 7) (b : BSrc) (pg : BitVec 3) (s : State) :
    Host.Outcome State Fault Refusal :=
  .next (coreStep s g (vUses vd va b pg 1 (vIntUnary op) (vIntReadsD op) false) fun s gr _ lanes =>
    let c := s.cluster g.cl
    .done (laneWrite s g gr vd.toNat 1 lanes fun i =>
      vIntOp op (c.v g gr va.toNat i) (BitVec.ofNat 32 (bVal c g gr b 1 i)) (c.v g gr vd.toNat i)))

/-- R100: vd = p[PG][i] ? va : b; never guarded. -/
def execSel (g : Grp) (vd va : BitVec 7) (b : BSrc) (ps : BitVec 3) (s : State) : Host.Outcome State Fault Refusal :=
  .next (coreStep s g { vUses vd va b 0 1 false false false with psrc := [ps.toNat] } fun s gr _ lanes =>
    let c := s.cluster g.cl
    .done (laneWrite s g gr vd.toNat 1 lanes fun i =>
      (if (gr.p ps.toNat).getLsbD i then (c.v g gr va.toNat i).toNat else bVal c g gr b 1 i, 0)))

/-- R100: vd = va of lane j, whether or not that lane executes. -/
def execShfl (g : Grp) (vd va : BitVec 7) (b : BSrc) (pg : BitVec 3) (s : State) : Host.Outcome State Fault Refusal :=
  .next (coreStep s g { vUses vd va b pg 1 false false false with vsrc := bRegs b 1 } fun s gr _ lanes =>
    let c := s.cluster g.cl
    let from_ (i : Nat) : Nat := match b with
      | .vec _ => bVal c g gr b 1 i % 8
      | .sca _ => i ^^^ (bVal c g gr b 1 i % 8)
    let par := (lanesOf lanes).filter fun i => c.vrfBad.contains (vIndex g gr va.toNat (from_ i))
    if par.isEmpty then .done (laneWrite s g gr vd.toNat 1 lanes fun i => ((c.v g gr va.toNat (from_ i)).toNat, 0))
    else .flt 5 (par.foldl (fun m i => m ||| (1#8 <<< i)) 0) 0)

/-- R102: bit i of PD for each executing lane; no flag. UN and ORD are illegal in ICMP. -/
def execVectorCompare (g : Grp) (k : CmpKind) (cc pd : BitVec 3) (va : BitVec 7) (b : BSrc) (pg : BitVec 3) (s : State) :
    Host.Outcome State Fault Refusal :=
  let n := match k with | .flt f => ffmtRegs f | _ => 1
  let ill := match k with | .flt _ => false | _ => decide (6 ≤ cc.toNat)
  .next (coreStep s g {
      vr := regRun va.toNat n ++ bRegs b n, vsrc := regRun va.toNat n ++ bRegs b n, sr := bSRegs b n
      ill := ill || misReg va.toNat n || bMis b n, pg := pg.toNat } fun s gr _ lanes =>
    let c := s.cluster g.cl
    .done (s.setGroup g (predWrite gr pd.toNat lanes fun i =>
      ccHolds cc (cmpResult k (c.vWide g gr va.toNat i n) (bVal c g gr b n i)))))

/-- R100, R104: the correctly rounded members. -/
def execFloatingPointMember (g : Grp) (f : FFmt) (op : FOp) (vd va : BitVec 7) (b : BSrc) (pg : BitVec 3) (s : State) :
    Host.Outcome State Fault Refusal :=
  let n := ffmtRegs f
  .next (coreStep s g (vUses vd va b pg n (fopUnary op) (fopReadsD op) (!fopExists f op)) fun s gr _ lanes =>
    let c := s.cluster g.cl
    .done (laneWrite s g gr vd.toNat n lanes fun i =>
      fpOp f op (c.vWide g gr va.toNat i n) (bVal c g gr b n i) (c.vWide g gr vd.toNat i n)))

/-- R105. -/
def execRcpRsqExp2Log2 (g : Grp) (op : EstOp) (vd va : BitVec 7) (pg : BitVec 3) (s : State) :
    Host.Outcome State Fault Refusal :=
  .next (coreStep s g (vUses vd va (.vec 0) pg 1 true false false) fun s gr _ lanes =>
    let c := s.cluster g.cl
    .done (laneWrite s g gr vd.toNat 1 lanes fun i => estimate op (c.v g gr va.toNat i).toNat))

/-- A conversion of one lane's bits (R107, R108). A codebook source gives its table's entry, which is then FP16 where the destination is a
codebook too. -/
def cvtLane (c : Cluster) (x : CvtExt) (bits : Nat) : Nat × BitVec 5 :=
  if isCodebook x.src && isCodebook x.dst then
    convert { x with src := 0x0D } (cbTable c x.slot x.table (x.dst == 0x0C))
      ((if x.src = 0x0B then cbTable c x.slot x.table false else cbTable c x.slot 0 true).entry (bits % (if x.src = 0x0B then 16 else 256)))
  else convert x (if isCodebook x.src || isCodebook x.dst then cbTable c x.slot x.table (x.src == 0x0C || x.dst == 0x0C) else []) bits

/-- Whether a table that a conversion reads has a parity error (R503). -/
def cvtBad (c : Cluster) (x : CvtExt) : Bool :=
  (isCodebook x.src && cbTableBad c x.slot x.table (x.src == 0x0C)) || (isCodebook x.dst && cbTableBad c x.slot x.table (x.dst == 0x0C))

/-- R107, R108: a conversion; it waits while a load into the codebook slot it reads is in progress. -/
def execVcvt (g : Grp) (vd va : BitVec 7) (pg : BitVec 3) (ext : BitVec 32) (s : State) :
    Host.Outcome State Fault Refusal :=
  let x := cvtExt ext
  let nd := cvtRegs x.dst
  let ns := cvtRegs x.src
  .next (coreStep s g {
      vr := regRun vd.toNat nd ++ regRun va.toNat ns, vsrc := regRun va.toNat ns
      ill := cvtIllegal x || misReg vd.toNat nd || misReg va.toNat ns, pg := pg.toNat, words := 2 } fun s gr _ lanes =>
    let c := s.cluster g.cl
    if (isCodebook x.src || isCodebook x.dst) && cbLoading s g.cl x.slot then .hold
    else if cvtBad c x then .flt 5 lanes 0
    else .done (laneWrite s g gr vd.toNat nd lanes fun i => cvtLane c x (c.vWide g gr va.toNat i ns)))

/-- R109: vd = s[SB]. -/
def execVbcast (g : Grp) (vd : BitVec 7) (sb : BitVec 4) (pg : BitVec 3) (s : State) : Host.Outcome State Fault Refusal :=
  .next (coreStep s g { vr := [vd.toNat], sr := [sb.toNat], pg := pg.toNat } fun s gr _ lanes =>
    .done (laneWrite s g gr vd.toNat 1 lanes fun _ => ((gr.s sb.toNat).toNat, 0)))

/-- R109: vd = i. -/
def execVlane (g : Grp) (vd : BitVec 7) (pg : BitVec 3) (s : State) : Host.Outcome State Fault Refusal :=
  .next (coreStep s g { vr := [vd.toNat], pg := pg.toNat } fun s gr _ lanes =>
    .done (laneWrite s g gr vd.toNat 1 lanes fun i => (i, 0)))

/-- R109: vd = imm32. -/
def execVmovi (g : Grp) (vd : BitVec 7) (imm : BitVec 32) (pg : BitVec 3) (s : State) : Host.Outcome State Fault Refusal :=
  .next (coreStep s g { vr := [vd.toNat], pg := pg.toNat, words := 2 } fun s gr _ lanes =>
    .done (laneWrite s g gr vd.toNat 1 lanes fun _ => (imm.toNat, 0)))

/-- R109: PAND, POR, PXOR, PANDN over the active lanes; no guard. -/
def execPredicateOperation (g : Grp) (op : PredOp) (pd pa pb : BitVec 3) (s : State) : Host.Outcome State Fault Refusal :=
  .next (coreStep s g { psrc := [pa.toNat, pb.toNat] } fun s gr _ lanes =>
    let a := gr.p pa.toNat
    let b := gr.p pb.toNat
    let r := match op with
      | .pand => a &&& b
      | .por => a ||| b
      | .pxor => a ^^^ b
      | .pandn => a &&& ~~~b
    .done (s.setGroup g (predWrite gr pd.toNat lanes fun i => r.getLsbD i)))

/-- R109: pd[i] = s[SA][i]. -/
def execPset (g : Grp) (pd : BitVec 3) (sa : BitVec 4) (s : State) : Host.Outcome State Fault Refusal :=
  .next (coreStep s g { sr := [sa.toNat] } fun s gr _ lanes =>
    .done (s.setGroup g (predWrite gr pd.toNat lanes fun i => (gr.s sa.toNat).getLsbD i)))

/-- R109: s[SD] = pa, all eight bits. -/
def execPget (g : Grp) (sd : BitVec 4) (pa : BitVec 3) (s : State) : Host.Outcome State Fault Refusal :=
  .next (coreStep s g { sr := [sd.toNat], ssrc := [], psrc := [pa.toNat] } fun s gr _ _ =>
    .done (s.setGroup g (gr.setS sd.toNat ((gr.p pa.toNat).setWidth 32))))

/-- R109: s[SD] = va of lane K, whether or not that lane executes. -/
def execVtos (g : Grp) (sd : BitVec 4) (va : BitVec 7) (k : BitVec 3) (s : State) : Host.Outcome State Fault Refusal :=
  .next (coreStep s g { vr := [va.toNat], sr := [sd.toNat], ssrc := [] } fun s gr _ _ =>
    if (s.cluster g.cl).vrfBad.contains (vIndex g gr va.toNat k.toNat) then .flt 5 (1#8 <<< k.toNat) 0
    else .done (s.setGroup g (gr.setS sd.toNat ((s.cluster g.cl).v g gr va.toNat k.toNat))))

end Sys2Proof.Machine
end

