-- ==== Sys2Proof/Machine/Dispatch.lean ====
section
/-! DEFINITION. What each command does: one arm per row of spec/opcode_table.json. -/

namespace Sys2Proof.Machine

def exec (i : Instr) (s : State) : Host.Outcome State Fault Refusal :=
  match i with
  -- vector path
  | .vectorIntegerArithmetic g op vd va b pg => Sys2Proof.Machine.execVectorIntegerArithmetic g op vd va b pg s
  | .sel g vd va b ps => Sys2Proof.Machine.execSel g vd va b ps s
  | .shfl g vd va b pg => Sys2Proof.Machine.execShfl g vd va b pg s
  | .vectorCompare g k cc pd va b pg => Sys2Proof.Machine.execVectorCompare g k cc pd va b pg s
  | .floatingPointMember g f op vd va b pg => Sys2Proof.Machine.execFloatingPointMember g f op vd va b pg s
  | .rcpRsqExp2Log2 g op vd va pg => Sys2Proof.Machine.execRcpRsqExp2Log2 g op vd va pg s
  | .vcvt g vd va pg ext => Sys2Proof.Machine.execVcvt g vd va pg ext s
  | .vbcast g vd sb pg => Sys2Proof.Machine.execVbcast g vd sb pg s
  | .vlane g vd pg => Sys2Proof.Machine.execVlane g vd pg s
  | .vmovi g vd imm pg => Sys2Proof.Machine.execVmovi g vd imm pg s
  | .predicateOperation g op pd pa pb => Sys2Proof.Machine.execPredicateOperation g op pd pa pb s
  | .pset g pd sa => Sys2Proof.Machine.execPset g pd sa s
  | .pget g sd pa => Sys2Proof.Machine.execPget g sd pa s
  | .vtos g sd va k => Sys2Proof.Machine.execVtos g sd va k s
  -- control flow
  | .nop g => Sys2Proof.Machine.execNop g s
  | .jmp g off => Sys2Proof.Machine.execJmp g off s
  | .br g nz sc off => Sys2Proof.Machine.execBr g nz sc off s
  | .brd g p t j => Sys2Proof.Machine.execBrd g p t j s
  | .call g lp off => Sys2Proof.Machine.execCall g lp off s
  | .callr g lp tp => Sys2Proof.Machine.execCallr g lp tp s
  | .ret g tp => Sys2Proof.Machine.execRet g tp s
  | .exit g pg => Sys2Proof.Machine.execExit g pg s
  | .bar g n => Sys2Proof.Machine.execBar g n s
  | .fence g scope kind => Sys2Proof.Machine.execFence g scope kind s
  -- vector memory
  | .ldg g w vd va sp pg => Sys2Proof.Machine.execLdg g w vd va sp pg s
  | .stg g w vd va sp pg => Sys2Proof.Machine.execStg g w vd va sp pg s
  | .lds g w vd va sp pg => Sys2Proof.Machine.execLds g w vd va sp pg s
  | .sts g w vd va sp pg => Sys2Proof.Machine.execSts g w vd va sp pg s
  | .ldr g wide vd va sp pg => Sys2Proof.Machine.execLdr g wide vd va sp pg s
  | .stc g wide vd va sp pg => Sys2Proof.Machine.execStc g wide vd va sp pg s
  | .atom g op vd va sp pg => Sys2Proof.Machine.execAtom g op vd va sp pg s
  -- scalar path
  | .scalarArithmetic g op => Sys2Proof.Machine.execScalarArithmetic g op s
  | .sldg g sd sp imm => Sys2Proof.Machine.execSldg g sd sp imm s
  | .sstg g sd sp imm => Sys2Proof.Machine.execSstg g sd sp imm s
  | .slds g sd sp imm => Sys2Proof.Machine.execSlds g sd sp imm s
  | .ssts g sd sp imm => Sys2Proof.Machine.execSsts g sd sp imm s
  | .sread g sd srn => Sys2Proof.Machine.execSread g sd srn s
  | .swrite g sa srn => Sys2Proof.Machine.execSwrite g sa srn s
  -- asynchronous
  | .mxaInit g sa f => Sys2Proof.Machine.execMxaInit g sa f s
  | .mxaMma g sa sb sc ext => Sys2Proof.Machine.execMxaMma g sa sb sc ext s
  | .mxaStore g sa sb => Sys2Proof.Machine.execMxaStore g sa sb s
  | .mxaWait g n => Sys2Proof.Machine.execMxaWait g n s
  | .tdCreate g sa sb => Sys2Proof.Machine.execTdCreate g sa sb s
  | .tdLoad g sa sb sc => Sys2Proof.Machine.execTdLoad g sa sb sc s
  | .tdStore g sa sb sc => Sys2Proof.Machine.execTdStore g sa sb sc s
  | .tdFree g sa => Sys2Proof.Machine.execTdFree g sa s
  | .tdWait g n => Sys2Proof.Machine.execTdWait g n s
  | .cbLoad g sa f => Sys2Proof.Machine.execCbLoad g sa f s
  | .redPut g sa sb sc => Sys2Proof.Machine.execRedPut g sa sb sc s
  | .redAcc g sa => Sys2Proof.Machine.execRedAcc g sa s
  | .redWait g n => Sys2Proof.Machine.execRedWait g n s
  -- blocks, contexts, faults
  | .blockAdmission cl => Sys2Proof.Machine.execBlockAdmission cl s
  | .scratchZeroingEnd cl bslot => Sys2Proof.Machine.execScratchZeroingEnd cl bslot s
  | .blockRelease cl bslot => Sys2Proof.Machine.execBlockRelease cl bslot s
  | .contextCompletion p ctx => Sys2Proof.Machine.execContextCompletion p ctx s
  | .faultEvent p => Sys2Proof.Machine.execFaultEvent p s
  -- matrix array
  | .arrayTakeInstruction cl => Sys2Proof.Machine.execArrayTakeInstruction cl s
  | .chainBecomesCurrent cl => Sys2Proof.Machine.execChainBecomesCurrent cl s
  | .multiplyPass cl => Sys2Proof.Machine.execMultiplyPass cl s
  | .deferredScan cl => Sys2Proof.Machine.execDeferredScan cl s
  | .drainMove cl => Sys2Proof.Machine.execDrainMove cl s
  | .chainCheck cl => Sys2Proof.Machine.execChainCheck cl s
  | .storePath cl => Sys2Proof.Machine.execStorePath cl s
  | .chainComplete cl => Sys2Proof.Machine.execChainComplete cl s
  -- reduction roots
  | .fabricArrival cl stream => Sys2Proof.Machine.execFabricArrival cl stream s
  | .rootAdd cl slot => Sys2Proof.Machine.execRootAdd cl slot s
  | .rootOperationComplete cl slot => Sys2Proof.Machine.execRootOperationComplete cl slot s
  -- fabric
  | .fixedLineSlot site cycle => Sys2Proof.Machine.execFixedLineSlot site cycle s
  | .scheduleStart p cycle => Sys2Proof.Machine.execScheduleStart p cycle s
  | .arbitratedFlitArrival site port f => Sys2Proof.Machine.execArbitratedFlitArrival site port f s
  | .packetAged site n => Sys2Proof.Machine.execPacketAged site n s
  -- spine cache
  | .spineFrameStart => Sys2Proof.Machine.execSpineFrameStart s
  | .sliceAdmission arbiter cycle arrived => Sys2Proof.Machine.execSliceAdmission arbiter cycle arrived s
  | .rd cl line secs => Sys2Proof.Machine.execRd cl line secs s
  | .own cl line carried => Sys2Proof.Machine.execOwn cl line carried s
  | .evc cl line => Sys2Proof.Machine.execEvc cl line s
  | .wb cl line => Sys2Proof.Machine.execWb cl line s
  | .inv cl line => Sys2Proof.Machine.execInv cl line s
  | .rcl cl line => Sys2Proof.Machine.execRcl cl line s
  | .rcli cl line => Sys2Proof.Machine.execRcli cl line s
  | .invalidationAcknowledgement line cl => Sys2Proof.Machine.execInvalidationAcknowledgement line cl s
  | .sliceAtomic addr op => Sys2Proof.Machine.execSliceAtomic addr op s
  | .uncachedRead addr len => Sys2Proof.Machine.execUncachedRead addr len s
  | .uncachedWrite addr data => Sys2Proof.Machine.execUncachedWrite addr data s
  | .sliceScrub slice => Sys2Proof.Machine.execSliceScrub slice s
  | .dataLost slice => Sys2Proof.Machine.execDataLost slice s
  -- stacks
  | .dramSectorRead addr => Sys2Proof.Machine.execDramSectorRead addr s
  | .dramSectorWrite addr data poison => Sys2Proof.Machine.execDramSectorWrite addr data poison s
  | .correctedWriteback chan => Sys2Proof.Machine.execCorrectedWriteback chan s
  | .channelScrub chan => Sys2Proof.Machine.execChannelScrub chan s
  | .temperatureReadout stack temp => Sys2Proof.Machine.execTemperatureReadout stack temp s
  | .perBankRefresh chan bank => Sys2Proof.Machine.execPerBankRefresh chan bank s
  -- near-bank units
  | .nbuModeEnter chan p version => Sys2Proof.Machine.execNbuModeEnter chan p version s
  | .nbuModeExit chan p => Sys2Proof.Machine.execNbuModeExit chan p s
  | .nbuDoorbell chan p size val => Sys2Proof.Machine.execNbuDoorbell chan p size val s
  | .nbuNop chan => Sys2Proof.Machine.execNbuNop chan s
  | .gather chan => Sys2Proof.Machine.execGather chan s
  | .gatherSum chan => Sys2Proof.Machine.execGatherSum chan s
  | .scatterAdd chan => Sys2Proof.Machine.execScatterAdd chan s
  | .select chan => Sys2Proof.Machine.execSelect chan s
  | .topk chan => Sys2Proof.Machine.execTopk chan s
  | .ewise chan => Sys2Proof.Machine.execEwise chan s
  | .nbuFill chan => Sys2Proof.Machine.execNbuFill chan s
  | .nearBankCommandComplete chan => Sys2Proof.Machine.execNearBankCommandComplete chan s
  -- host port
  | .bar0AccessUnsupported f off size req => Sys2Proof.Machine.execBar0AccessUnsupported f off size req s
  | .registerWrite f off size val => Sys2Proof.Machine.execRegisterWrite f off size val s
  | .capturingRead f off size => Sys2Proof.Machine.execCapturingRead f off size s
  | .obsPeekDataRead f port size half => Sys2Proof.Machine.execObsPeekDataRead f port size half s
  | .bar4Read f off len => Sys2Proof.Machine.execBar4Read f off len s
  | .bar4Write f off data => Sys2Proof.Machine.execBar4Write f off data s
  | .bar4Atomicop f off op size a b => Sys2Proof.Machine.execBar4Atomicop f off op size a b s
  | .poisonedWriteTlp f bar => Sys2Proof.Machine.execPoisonedWriteTlp f bar s
  | .functionLevelReset v => Sys2Proof.Machine.execFunctionLevelReset v s
  | .hotReset => Sys2Proof.Machine.execHotReset s
  | .hostWindowCompletion id r => Sys2Proof.Machine.execHostWindowCompletion id r s
  | .completionTimeout id => Sys2Proof.Machine.execCompletionTimeout id s
  | .queueOpen f q ctrl => Sys2Proof.Machine.execQueueOpen f q ctrl s
  | .queueClose f q => Sys2Proof.Machine.execQueueClose f q s
  | .sqTail f q val => Sys2Proof.Machine.execSqTail f q val s
  | .cqHead f q val => Sys2Proof.Machine.execCqHead f q val s
  | .commandFetch r => Sys2Proof.Machine.execCommandFetch r s
  | .statusReply f q => Sys2Proof.Machine.execStatusReply f q s
  -- host commands
  | .nopCommand f q => Sys2Proof.Machine.execNopCommand f q s
  | .query f q => Sys2Proof.Machine.execQuery f q s
  | .timeSyncRead f q => Sys2Proof.Machine.execTimeSyncRead f q s
  | .timeSyncStep f q => Sys2Proof.Machine.execTimeSyncStep f q s
  | .timeSyncSlew f q => Sys2Proof.Machine.execTimeSyncSlew f q s
  | .launch f q => Sys2Proof.Machine.execLaunch f q s
  | .codeWrite f q => Sys2Proof.Machine.execCodeWrite f q s
  | .copy f q => Sys2Proof.Machine.execCopy f q s
  | .fill f q => Sys2Proof.Machine.execFill f q s
  | .anchor f q => Sys2Proof.Machine.execAnchor f q s
  | .unanchor f q => Sys2Proof.Machine.execUnanchor f q s
  | .freeze f q => Sys2Proof.Machine.execFreeze f q s
  | .freezeDeadline p => Sys2Proof.Machine.execFreezeDeadline p s
  | .partReset f q => Sys2Proof.Machine.execPartReset f q s
  | .schedLoad f q => Sys2Proof.Machine.execSchedLoad f q s
  | .schedStart f q => Sys2Proof.Machine.execSchedStart f q s
  | .schedStop f q => Sys2Proof.Machine.execSchedStop f q s
  | .partCreate f q => Sys2Proof.Machine.execPartCreate f q s
  | .partDestroy f q => Sys2Proof.Machine.execPartDestroy f q s
  | .partShares f q => Sys2Proof.Machine.execPartShares f q s
  | .allocSet f q => Sys2Proof.Machine.execAllocSet f q s
  | .regionSet f q => Sys2Proof.Machine.execRegionSet f q s
  | .rawSet f q => Sys2Proof.Machine.execRawSet f q s
  | .anchorWaysSet f q => Sys2Proof.Machine.execAnchorWaysSet f q s
  | .remap f q => Sys2Proof.Machine.execRemap f q s
  | .scrubSet f q => Sys2Proof.Machine.execScrubSet f q s
  | .stackMargin f q m => Sys2Proof.Machine.execStackMargin f q m s
  | .clockSet f q => Sys2Proof.Machine.execClockSet f q s
  | .powerSet f q => Sys2Proof.Machine.execPowerSet f q s
  | .linkConfig f q => Sys2Proof.Machine.execLinkConfig f q s
  | .linkTrain f q r => Sys2Proof.Machine.execLinkTrain f q r s
  | .linkDown f q => Sys2Proof.Machine.execLinkDown f q s
  | .linkSweep f q locked lanes => Sys2Proof.Machine.execLinkSweep f q locked lanes s
  | .keySet f q => Sys2Proof.Machine.execKeySet f q s
  | .collective f q => Sys2Proof.Machine.execCollective f q s
  | .collectiveComplete engine => Sys2Proof.Machine.execCollectiveComplete engine s
  | .ropeForm f q => Sys2Proof.Machine.execRopeForm f q s
  | .ropeMirror f q secondRefuses => Sys2Proof.Machine.execRopeMirror f q secondRefuses s
  | .ropeFailover f q => Sys2Proof.Machine.execRopeFailover f q s
  | .ropeDissolve f q => Sys2Proof.Machine.execRopeDissolve f q s
  | .obsConfig f q => Sys2Proof.Machine.execObsConfig f q s
  | .clpRead f q => Sys2Proof.Machine.execClpRead f q s
  -- links
  | .data l fr => Sys2Proof.Machine.execData l fr s
  | .start l fr => Sys2Proof.Machine.execStart l fr s
  | .ack l fr => Sys2Proof.Machine.execAck l fr s
  | .cnp l fr => Sys2Proof.Machine.execCnp l fr s
  | .hello l fr => Sys2Proof.Machine.execHello l fr s
  | .echo l fr => Sys2Proof.Machine.execEcho l fr s
  | .ackTimer l => Sys2Proof.Machine.execAckTimer l s
  | .retransmissionTimeout l psn => Sys2Proof.Machine.execRetransmissionTimeout l psn s
  | .rateIncrease l => Sys2Proof.Machine.execRateIncrease l s
  | .helloTimer l => Sys2Proof.Machine.execHelloTimer l s
  | .echoTimer l => Sys2Proof.Machine.execEchoTimer l s
  | .berEstimate l lanes => Sys2Proof.Machine.execBerEstimate l lanes s
  | .lossOfPhyLock l => Sys2Proof.Machine.execLossOfPhyLock l s
  -- roped pair
  | .form r => Sys2Proof.Machine.execForm r s
  | .page r => Sys2Proof.Machine.execPage r s
  | .journal r => Sys2Proof.Machine.execJournal r s
  | .state r => Sys2Proof.Machine.execState r s
  | .endRecord r => Sys2Proof.Machine.execEndRecord r s
  | .ropeAck r => Sys2Proof.Machine.execRopeAck r s
  | .beat r => Sys2Proof.Machine.execBeat r s
  | .dissolve r => Sys2Proof.Machine.execDissolve r s
  | .formTimer => Sys2Proof.Machine.execFormTimer s
  | .beatTimer l => Sys2Proof.Machine.execBeatTimer l s
  | .cut => Sys2Proof.Machine.execCut s
  | .epochApply => Sys2Proof.Machine.execEpochApply s
  | .ackOverdue => Sys2Proof.Machine.execAckOverdue s
  | .ropeResend l => Sys2Proof.Machine.execRopeResend l s
  -- clocks and power
  | .slewComplete d => Sys2Proof.Machine.execSlewComplete d s
  | .voltageCommand d code who => Sys2Proof.Machine.execVoltageCommand d code who s
  | .fastStep src on => Sys2Proof.Machine.execFastStep src on s
  | .timeBaseCorrection => Sys2Proof.Machine.execTimeBaseCorrection s
  | .crossingTimeout a => Sys2Proof.Machine.execCrossingTimeout a s
  | .shortDetected d => Sys2Proof.Machine.execShortDetected d s
  | .retryWaitExpiry d => Sys2Proof.Machine.execRetryWaitExpiry d s
  | .inServiceShort d => Sys2Proof.Machine.execInServiceShort d s
  | .droopSample d readings stuck => Sys2Proof.Machine.execDroopSample d readings stuck s
  | .bondWindow d currentVaries drops => Sys2Proof.Machine.execBondWindow d currentVaries drops s
  | .telemetryPoll reads => Sys2Proof.Machine.execTelemetryPoll reads s
  | .pmbAlertN r status outputOff => Sys2Proof.Machine.execPmbAlertN r status outputOff s
  | .railLoss r => Sys2Proof.Machine.execRailLoss r s
  | .powerMeasurement currentMa => Sys2Proof.Machine.execPowerMeasurement currentMa s
  | .sustainedUpdate m => Sys2Proof.Machine.execSustainedUpdate m s
  | .holdLevelStep measured => Sys2Proof.Machine.execHoldLevelStep measured s
  | .fastLimiterStep => Sys2Proof.Machine.execFastLimiterStep s
  | .powerCeilingLower => Sys2Proof.Machine.execPowerCeilingLower s
  | .powerCeilingRaise => Sys2Proof.Machine.execPowerCeilingRaise s
  | .regAlertN ns => Sys2Proof.Machine.execRegAlertN ns s
  | .regAlertRelease => Sys2Proof.Machine.execRegAlertRelease s
  -- thermal
  | .thermalSample readings stuck halfPowerMw => Sys2Proof.Machine.execThermalSample readings stuck halfPowerMw s
  | .thermalCeilingLower => Sys2Proof.Machine.execThermalCeilingLower s
  | .thermalCeilingRaise => Sys2Proof.Machine.execThermalCeilingRaise s
  | .tripDiodeSample readings => Sys2Proof.Machine.execTripDiodeSample readings s
  | .tripRestart => Sys2Proof.Machine.execTripRestart s
  -- reset and start
  | .powerOn => Sys2Proof.Machine.execPowerOn s
  | .rstN ns high => Sys2Proof.Machine.execRstN ns high s
  | .coldStart => Sys2Proof.Machine.execColdStart s
  | .coldStartStepComplete r => Sys2Proof.Machine.execColdStartStepComplete r s
  | .stepDeadline => Sys2Proof.Machine.execStepDeadline s
  | .failedStartRetry => Sys2Proof.Machine.execFailedStartRetry s
  | .exitBaseCamp => Sys2Proof.Machine.execExitBaseCamp s
  | .baseCampExit => Sys2Proof.Machine.execBaseCampExit s
  | .pldmFirmwareUpdate c img => Sys2Proof.Machine.execPldmFirmwareUpdate c img s
  | .activateFirmware c alive => Sys2Proof.Machine.execActivateFirmware c alive s
  | .mgtAliveTimeout => Sys2Proof.Machine.execMgtAliveTimeout s
  | .pwrFailN ns => Sys2Proof.Machine.execPwrFailN ns s
  | .powerFailRestart => Sys2Proof.Machine.execPowerFailRestart s
  | .refclkLoss ns => Sys2Proof.Machine.execRefclkLoss ns s
  | .colophonCommit => Sys2Proof.Machine.execColophonCommit s
  | .colophonEraseDone => Sys2Proof.Machine.execColophonEraseDone s
  -- observation, boundary scan
  | .counterAggregation => Sys2Proof.Machine.execCounterAggregation s
  | .traceRecord => Sys2Proof.Machine.execTraceRecord s
  | .tapInstruction scan => Sys2Proof.Machine.execTapInstruction scan s
  | .illegalInstruction g w ext => Sys2Proof.Machine.execIllegalInstruction g w ext s
  | .liveBitsRead f off size => Sys2Proof.Machine.execLiveBitsRead f off size s
  | .vddAuxLoss => Sys2Proof.Machine.execVddAuxLoss s

end Sys2Proof.Machine
end

