-- ==== Sys2Proof/Machine/Stage.lean ====
section
/-! DEFINITION. The later steps of sequences that one command begins: the time-base tick carries them on. -/

namespace Sys2Proof.Machine

/-- Opens come to their outcome (R342). -/
def endOpens (s : State) : State :=
  if s.queues.any fun e => e.2.opening then
    { s with queues := NMap.mapVals {} (fun k q => if q.opening then endOpen q (k / 16) else q) s.queues }
  else s

/-- Function Level Resets come to their end (R338). -/
def endFlrs (s : State) : State := s.host.flr.foldl flrEnd s

/-- Training, qualifying and sweeping links (R363, R381). -/
def nextLinks (s : State) : State := (NMap.keysWhere (fun _ l => l.work.isSome) s.lnk.links).foldl nextLink s

/-- Entries to near-bank mode and exits from it (R325). -/
def nextNbus (s : State) : State := { s with mem := (NMap.keysWhere (fun _ n => n.busy) s.mem.nbu).foldl (nbNext s.time) s.mem }

/-- Every sequence that has begun takes its next step (DESIGN CHOICE: at the next tick; the spec bounds the time of a step and fixes
none). -/
def nextStages (s : State) : State := pllStep <| endRaw (nextNbus (endFailover (nextLinks (endFlrs (endOpens s)))))

end Sys2Proof.Machine
end

