-- ==== Sys2Proof/Machine/Idle.lean ====
section
/-! DEFINITION. What passes when no command waits. -/

namespace Sys2Proof.Machine

/-- One edge of the time-base clock, 1 ns (R427). While a slew has ticks left, every ten-thousandth edge adds one tick
more to the master or withholds one (R428). -/
def masterTick (c : Clk) : Clk :=
  if c.tsLeft = 0 then { c with master := c.master + 1 }
  else if c.tsCount < 9999 then { c with master := c.master + 1, tsCount := c.tsCount + 1 }
  else if 0 < c.tsLeft then { c with master := c.master + 2, tsCount := 0, tsLeft := c.tsLeft - 1 }
  else { c with tsCount := 0, tsLeft := c.tsLeft + 1 }

/-- 1 ns of the supervisor's clock, which runs from VDD_AUX; what counts towards a step's deadline stands still in an alert and in a
fast step for temperature (R485). -/
def supTick (s : State) : Rst :=
  let r := s.rst
  if !r.vddAux then r
  else { r with sup := r.sup + 1, stepNs := if r.starting && s.pwr.alert = 0 && !s.clk.fastTemp then r.stepNs + 1 else r.stepNs }

/-- 1 ns passes: the supervisor's clock advances; once the time base runs, the master too, and the replica unless it is ahead (R427);
sequences under way take their next step. -/
def idleTick (s : State) : State :=
  let s := { s with rst := supTick s }
  nextStages (if s.clk.tbLock then
    { s with clk := masterTick s.clk, time := if s.clk.master < s.time then s.time else s.time + 1 } else s)

end Sys2Proof.Machine
end

