-- ==== Sys2Proof/Safety.lean ====
section
/-! DEFINITION. The terms in which claims about the block are stated: when a group issues an instruction, what an
instruction leaves alone, and the canonical form of the block's memories. -/

namespace Sys2Proof.Machine

/-- The group of slot `g` with its pops done (R74), as it stands when it executes its next instruction. -/
def issueGroup (s : State) (g : Grp) : Group := (s.group g).pop

/-- The block of that group. -/
def issueBlock (s : State) (g : Grp) : Block := (s.cluster g.cl).block (issueGroup s g).bslot

/-- The executing lanes of an instruction with the guard field `pg` (R73). -/
def issueLanes (s : State) (g : Grp) (pg : Nat) : BitVec 8 := execLanes (issueGroup s g) pg

/-- The state an instruction's own effect starts from: pops done, its lines in the instruction cache, the issue seen by
the counters. -/
def issueState (s : State) (g : Grp) (u : Uses) : State :=
  ((fetched s g u.words).acting (some (issueBlock s g).part)).observe
    { ev := if u.vector then 0x01 else 0x02, part := some (issueBlock s g).part, kind := 4, src := g.cl }

/-- A group issues an instruction with the fields `u`, and nothing stands against it before its own effect: the group
may issue (R77, R88) and no hold stops its path in this cycle (R461), no register named awaits a result (R72), its words lie in code
allocations (R84, R94), its fields are legal (R96, R97) and no source register's parity has failed (R87). -/
structure Issues (s : State) (g : Grp) (u : Uses) : Prop where
  can : canIssue s g = true
  runs : u.vector = true → halfHeld s g.cl = false
  vready : ∀ r ∈ u.vr, pendingV s g r = false
  sready : ∀ r ∈ u.sr, pendingS s g r = false
  code : fetchFault s (issueBlock s g).part (issueGroup s g).pc u.words = none
  legal : u.ill = false
  inRange : ∀ r ∈ u.vr, r < (issueBlock s g).vregs
  parity : ∀ i < 8, (issueLanes s g u.pg).getLsbD i = true → ∀ r ∈ u.vsrc, vIndex g (issueGroup s g) r i ∉ (s.cluster g.cl).vrfBad
  scalarParity : parityScalar (issueGroup s g) u (issueLanes s g u.pg) = false

/-- A group's vector register in one lane. -/
def State.vreg (s : State) (g : Grp) (r i : Nat) : Word := (s.cluster g.cl).v g (s.group g) r i

/-- `n` consecutive registers of a lane as one little-endian number (R97). -/
def State.vwide (s : State) (g : Grp) (r i n : Nat) : Nat := (s.cluster g.cl).vWide g (s.group g) r i n

/-- Nothing but one cluster and the observation counters differs. -/
def OnlyCluster (k : Nat) (s t : State) : Prop :=
  ∃ x o, t = { s with cl := NMap.set {} s.cl k x, mem := { s.mem with obs := o } }

/-- Every byte of memory reads as before: stack DRAM as stored, the lines of slices and caches, and every cluster's
scratch. -/
def SameMemory (s t : State) : Prop :=
  (∀ a, ByteMap.get t.mem.dram a = ByteMap.get s.mem.dram a) ∧ t.mem.lines = s.mem.lines ∧ t.mem.l1 = s.mem.l1 ∧
  ∀ k a, ByteMap.get (t.cluster k).scratch a = ByteMap.get (s.cluster k).scratch a

/-- What an instruction that stores nothing and names no other unit leaves alone: everything outside its cluster and
the observation counters; in its cluster every other group, block, descriptor, stream, codebook and the array. -/
structure CoreFrame (s t : State) (g : Grp) : Prop where
  only : OnlyCluster g.cl s t
  memory : SameMemory s t
  groups : ∀ i j, gKey i j ≠ gKey g.core g.slot → (t.cluster g.cl).group i j = (s.cluster g.cl).group i j
  rest : ∃ v vb gs ic, t.cluster g.cl = { s.cluster g.cl with vrf := v, vrfBad := vb, groups := gs, icache := ic } ∧
    ∀ k ∈ vb, k ∈ (s.cluster g.cl).vrfBad

/-- The register file keeps every word but registers `vd` to `vd + n - 1` in the lanes of `lanes`. -/
def KeepsVrf (s t : State) (g : Grp) (vd n : Nat) (lanes : BitVec 8) : Prop :=
  ∀ k, (∀ i < 8, lanes.getLsbD i = true → ∀ j < n, k ≠ vIndex g (issueGroup s g) (vd + j) i) →
    NMap.get 0 (t.cluster g.cl).vrf k = NMap.get 0 (s.cluster g.cl).vrf k

/-- An instruction wrote vector registers only: in each executing lane the `n` registers from `vd` on hold `f`'s
value, the flags of R57 that `f` raises there are set, the group goes on after `w` words, and nothing else changed. -/
def VectorDone (s t : State) (g : Grp) (vd n pg w : Nat) (f : Nat → Nat × BitVec 5) : Prop :=
  (∀ i < 8, (issueLanes s g pg).getLsbD i = true → t.vwide g vd i n = (f i).1 % 2 ^ (32 * n)) ∧
  t.group g = { issueGroup s g with
    pc := (issueGroup s g).pc + BitVec.ofNat 48 (4 * w)
    flags := (lanesOf (issueLanes s g pg)).foldl (fun x i => x ||| (f i).2) (issueGroup s g).flags } ∧
  KeepsVrf s t g vd n (issueLanes s g pg) ∧ CoreFrame s t g

/-- An instruction changed its group only: the group became `x`, every word of the register file and everything else
is as before. -/
def GroupDone (s t : State) (g : Grp) (x : Group) : Prop :=
  t.group g = x ∧ (∀ k, NMap.get 0 (t.cluster g.cl).vrf k = NMap.get 0 (s.cluster g.cl).vrf k) ∧ CoreFrame s t g

end Sys2Proof.Machine
end

