-- ==== Sys2Proof/Certificates/Slice0/Obligations.lean ====
section
/-! DEFINITION. The statements for the provers, family by family of the opcode table. -/

section

open Sys2Proof Sys2Proof.Machine

/-! ### Core instructions: the vector path (R97-R109) -/

/-- Operand A of a lane (R97). -/
def Sys2Proof.Claims.opA (s : State) (g : Grp) (va : BitVec 7) (i : Nat) : Word := (s.cluster g.cl).v g (issueGroup s g) va.toNat i

/-- Operand B of a lane (R100): VB, or the scalar SB in every lane. -/
def Sys2Proof.Claims.opB (s : State) (g : Grp) (b : BSrc) (i : Nat) : Word :=
  match b with
  | .vec vb => (s.cluster g.cl).v g (issueGroup s g) vb.toNat i
  | .sca sb => (issueGroup s g).s sb.toNat

/-- The integer a member of R100 computes before it is put into 32 bits; IADDS and ISUBS clamp it (R103). -/
def Sys2Proof.Claims.intExact (op : VIntOp) (a b d : Word) : Int :=
  let lo (x : Word) : Int := ((x.setWidth 16).toInt : Int)
  let lu (x : Word) : Int := ((x.setWidth 16).toNat : Int)
  let clamp (v : Int) : Int := max (-2147483648) (min 2147483647 v)
  match op with
  | .iadd => a.toInt + b.toInt
  | .isub => a.toInt - b.toInt
  | .iadds => clamp (a.toInt + b.toInt)
  | .isubs => clamp (a.toInt - b.toInt)
  | .imul16S => lo a * lo b
  | .imul16U => lu a * lu b
  | .imad16S => lo a * lo b + d.toInt
  | .imad16U => lu a * lu b + d.toInt
  | .imul => a.toInt * b.toInt
  | .imad => a.toInt * b.toInt + d.toInt
  | .imulhiS => a.toInt * b.toInt / 2 ^ 32
  | .imulhiU => (a.toNat * b.toNat / 2 ^ 32 : Nat)
  | .and => ((a &&& b).toNat : Int)
  | .or => ((a ||| b).toNat : Int)
  | .xor => ((a ^^^ b).toNat : Int)
  | .shl => (a.toNat * 2 ^ (b.toNat % 32) : Nat)
  | .shr => (a.toNat / 2 ^ (b.toNat % 32) : Nat)
  | .sar => a.toInt / 2 ^ (b.toNat % 32)
  | .minS => min a.toInt b.toInt
  | .minU => (min a.toNat b.toNat : Nat)
  | .maxS => max a.toInt b.toInt
  | .maxU => (max a.toNat b.toNat : Nat)
  | .clz => if a = 0 then 32 else (31 - Nat.log2 a.toNat : Nat)
  | .popc => ((List.range 32).countP fun i => a.getLsbD i : Nat)

/-- The overflow flag is set by IADDS and ISUBS that saturate, and no other flag by any integer member (R103). -/
def Sys2Proof.Claims.intFlags (op : VIntOp) (a b : Word) : BitVec 5 :=
  let out (v : Int) : BitVec 5 := if v < -2147483648 ∨ 2147483647 < v then flOF else 0
  match op with
  | .iadds => out (a.toInt + b.toInt)
  | .isubs => out (a.toInt - b.toInt)
  | _ => 0

/-- VECTOR_INTEGER_ARITHMETIC (R100, R103): each executing lane's vd is the member's exact integer modulo 2^32, or
clamped, IADDS and ISUBS set OF when they saturate, and nothing else changes but the group's pc. -/
def Obligations.VectorIntegerResult : Prop :=
  ∀ (s : State) (g : Grp) (op : VIntOp) (vd va : BitVec 7) (b : BSrc) (pg : BitVec 3),
    Issues s g (vUses vd va b pg 1 (vIntUnary op) (vIntReadsD op) false) →
    ∃ t, exec (.vectorIntegerArithmetic g op vd va b pg) s = .next t ∧
      VectorDone s t g vd.toNat 1 pg.toNat 1 fun i =>
        ((BitVec.ofInt 32 (Claims.intExact op (Claims.opA s g va i) (Claims.opB s g b i) (Claims.opA s g vd i))).toNat,
          Claims.intFlags op (Claims.opA s g va i) (Claims.opB s g b i))

/-- SEL, SHFL, VBCAST, VLANE and VMOVI (R100, R109): what each executing lane's vd becomes; SEL chooses by the
predicate its PG field names and is never guarded, SHFL takes va of lane vb & 7 or i ^ (s[SB] & 7). -/
def Obligations.LaneMoves : Prop :=
  (∀ (s : State) (g : Grp) (vd va : BitVec 7) (b : BSrc) (ps : BitVec 3),
    Issues s g { vUses vd va b 0 1 false false false with psrc := [ps.toNat] } →
    ∃ t, exec (.sel g vd va b ps) s = .next t ∧ VectorDone s t g vd.toNat 1 0 1 fun i =>
      ((if ((issueGroup s g).p ps.toNat).getLsbD i then Claims.opA s g va i else Claims.opB s g b i).toNat, 0)) ∧
  (∀ (s : State) (g : Grp) (vd va : BitVec 7) (b : BSrc) (pg : BitVec 3),
    Issues s g { vUses vd va b pg 1 false false false with vsrc := bRegs b 1 } →
    (∀ i < 8, vIndex g (issueGroup s g) va.toNat i ∉ (s.cluster g.cl).vrfBad) →
    ∃ t, exec (.shfl g vd va b pg) s = .next t ∧ VectorDone s t g vd.toNat 1 pg.toNat 1 fun i =>
      ((Claims.opA s g va (match b with
        | .vec _ => (Claims.opB s g b i).toNat % 8
        | .sca _ => i ^^^ ((Claims.opB s g b i).toNat % 8))).toNat, 0)) ∧
  (∀ (s : State) (g : Grp) (vd : BitVec 7) (sb : BitVec 4) (pg : BitVec 3),
    Issues s g { vr := [vd.toNat], sr := [sb.toNat], pg := pg.toNat } →
    ∃ t, exec (.vbcast g vd sb pg) s = .next t ∧
      VectorDone s t g vd.toNat 1 pg.toNat 1 fun _ => (((issueGroup s g).s sb.toNat).toNat, 0)) ∧
  (∀ (s : State) (g : Grp) (vd : BitVec 7) (pg : BitVec 3), Issues s g { vr := [vd.toNat], pg := pg.toNat } →
    ∃ t, exec (.vlane g vd pg) s = .next t ∧ VectorDone s t g vd.toNat 1 pg.toNat 1 fun i => (i, 0)) ∧
  (∀ (s : State) (g : Grp) (vd : BitVec 7) (imm : BitVec 32) (pg : BitVec 3),
    Issues s g { vr := [vd.toNat], pg := pg.toNat, words := 2 } →
    ∃ t, exec (.vmovi g vd imm pg) s = .next t ∧ VectorDone s t g vd.toNat 1 pg.toNat 2 fun _ => (imm.toNat, 0))

/-- Bits of a predicate register of a lane: as `f` says in executing lanes, as before in the others; a parity error of the register is
gone once all its bits are written. -/
def Sys2Proof.Claims.PredDone (s t : State) (g : Grp) (pd pg : Nat) (f : Nat → Bool) : Prop :=
  (∀ i < 8, ((t.group g).p pd).getLsbD i =
    if (issueLanes s g pg).getLsbD i then f i else ((issueGroup s g).p pd).getLsbD i) ∧
  (∃ x : BitVec 8, GroupDone s t g { (issueGroup s g).setP pd x with
    pc := (issueGroup s g).pc + 4
    pBad := if issueLanes s g pg = 0xFF then (issueGroup s g).pBad.filter (· ≠ pd) else (issueGroup s g).pBad })

/-- The condition CC on two values compared (R102): unordered makes NE and UN true and every other false. -/
def Sys2Proof.Claims.condition (cc : BitVec 3) (c : Option Int) : Bool :=
  match c with
  | none => cc = 1 || cc = 6
  | some k => (cc = 0 && k = 0) || (cc = 1 && k ≠ 0) || (cc = 2 && k < 0) || (cc = 3 && k ≤ 0) || (cc = 4 && 0 < k) ||
      (cc = 5 && 0 ≤ k) || cc = 7

/-- VECTOR_COMPARE, PREDICATE_OPERATION, PSET, PGET and VTOS (R102, R109): the predicate bits of executing lanes, or
the scalar register, that each writes; no compare sets a flag, and the predicate members have no guard. -/
def Obligations.PredicateMembers : Prop :=
  (∀ (s : State) (g : Grp) (sg : Bool) (cc pd : BitVec 3) (va : BitVec 7) (b : BSrc) (pg : BitVec 3), cc.toNat < 6 →
    Issues s g {
      vr := regRun va.toNat 1 ++ bRegs b 1, vsrc := regRun va.toNat 1 ++ bRegs b 1, sr := bSRegs b 1, pg := pg.toNat } →
    ∃ t, exec (.vectorCompare g (if sg then .intS else .intU) cc pd va b pg) s = .next t ∧
      Claims.PredDone s t g pd.toNat pg.toNat fun i =>
        let x := Claims.opA s g va i
        let y := Claims.opB s g b i
        Claims.condition cc (some (if sg then x.toInt - y.toInt else (x.toNat : Int) - y.toNat))) ∧
  (∀ (s : State) (g : Grp) (f : FFmt) (cc pd : BitVec 3) (va : BitVec 7) (b : BSrc) (pg : BitVec 3),
    Issues s g {
      vr := regRun va.toNat (ffmtRegs f) ++ bRegs b (ffmtRegs f), vsrc := regRun va.toNat (ffmtRegs f) ++ bRegs b (ffmtRegs f)
      sr := bSRegs b (ffmtRegs f), ill := misReg va.toNat (ffmtRegs f) || bMis b (ffmtRegs f), pg := pg.toNat } →
    ∃ t, exec (.vectorCompare g (.flt f) cc pd va b pg) s = .next t ∧
      Claims.PredDone s t g pd.toNat pg.toNat fun i =>
        Claims.condition cc (FVal.cmp ((ffmtSpec f).decode ((s.cluster g.cl).vWide g (issueGroup s g) va.toNat i (ffmtRegs f)))
          ((ffmtSpec f).decode (bVal (s.cluster g.cl) g (issueGroup s g) b (ffmtRegs f) i)))) ∧
  (∀ (s : State) (g : Grp) (op : PredOp) (pd pa pb : BitVec 3), Issues s g { psrc := [pa.toNat, pb.toNat] } →
    ∃ t, exec (.predicateOperation g op pd pa pb) s = .next t ∧ Claims.PredDone s t g pd.toNat 0 fun i =>
      let a := ((issueGroup s g).p pa.toNat).getLsbD i
      let b := ((issueGroup s g).p pb.toNat).getLsbD i
      match op with
      | .pand => a && b
      | .por => a || b
      | .pxor => a ^^ b
      | .pandn => a && !b) ∧
  (∀ (s : State) (g : Grp) (pd : BitVec 3) (sa : BitVec 4), Issues s g { sr := [sa.toNat] } →
    ∃ t, exec (.pset g pd sa) s = .next t ∧
      Claims.PredDone s t g pd.toNat 0 fun i => ((issueGroup s g).s sa.toNat).getLsbD i) ∧
  (∀ (s : State) (g : Grp) (sd : BitVec 4) (pa : BitVec 3), Issues s g { sr := [sd.toNat], ssrc := [], psrc := [pa.toNat] } →
    ∃ t, exec (.pget g sd pa) s = .next t ∧ GroupDone s t g
      { (issueGroup s g).setS sd.toNat (((issueGroup s g).p pa.toNat).setWidth 32) with pc := (issueGroup s g).pc + 4 }) ∧
  (∀ (s : State) (g : Grp) (sd : BitVec 4) (va : BitVec 7) (k : BitVec 3),
    Issues s g { vr := [va.toNat], sr := [sd.toNat], ssrc := [] } →
    vIndex g (issueGroup s g) va.toNat k.toNat ∉ (s.cluster g.cl).vrfBad →
    ∃ t, exec (.vtos g sd va k) s = .next t ∧ GroupDone s t g
      { (issueGroup s g).setS sd.toNat (Claims.opA s g va k.toNat) with pc := (issueGroup s g).pc + 4 })

/-- FLOATING_POINT_MEMBER, RCP_RSQ_EXP2_LOG2 and VCVT (R100, R104, R105, R107): each executing lane's vd and the sticky
flags are those of the member's operation on the lane's operands, register pairs for FP64; a conversion from or to a codebook needs its
table loaded and of good parity. -/
def Obligations.FloatMembers : Prop :=
  (∀ (s : State) (g : Grp) (f : FFmt) (op : FOp) (vd va : BitVec 7) (b : BSrc) (pg : BitVec 3),
    Issues s g (vUses vd va b pg (ffmtRegs f) (fopUnary op) (fopReadsD op) (!fopExists f op)) →
    ∃ t, exec (.floatingPointMember g f op vd va b pg) s = .next t ∧
      VectorDone s t g vd.toNat (ffmtRegs f) pg.toNat 1 fun i =>
        let c := s.cluster g.cl
        let gr := issueGroup s g
        fpOp f op (c.vWide g gr va.toNat i (ffmtRegs f)) (bVal c g gr b (ffmtRegs f) i) (c.vWide g gr vd.toNat i (ffmtRegs f))) ∧
  (∀ (s : State) (g : Grp) (op : EstOp) (vd va : BitVec 7) (pg : BitVec 3),
    Issues s g (vUses vd va (.vec 0) pg 1 true false false) →
    ∃ t, exec (.rcpRsqExp2Log2 g op vd va pg) s = .next t ∧
      VectorDone s t g vd.toNat 1 pg.toNat 1 fun i => estimate op (Claims.opA s g va i).toNat) ∧
  (∀ (s : State) (g : Grp) (vd va : BitVec 7) (pg : BitVec 3) (ext : BitVec 32),
    let x := cvtExt ext
    let c := s.cluster g.cl
    Issues s g {
      vr := regRun vd.toNat (cvtRegs x.dst) ++ regRun va.toNat (cvtRegs x.src), vsrc := regRun va.toNat (cvtRegs x.src)
      ill := cvtIllegal x || misReg vd.toNat (cvtRegs x.dst) || misReg va.toNat (cvtRegs x.src), pg := pg.toNat, words := 2 } →
    (isCodebook x.src || isCodebook x.dst) = false ∨ (cbLoading s g.cl x.slot = false ∧ cvtBad c x = false) →
    ∃ t, exec (.vcvt g vd va pg ext) s = .next t ∧
      VectorDone s t g vd.toNat (cvtRegs x.dst) pg.toNat 2 fun i => cvtLane c x (c.vWide g (issueGroup s g) va.toNat i (cvtRegs x.src)))

/-! ### Core instructions: control flow (R74-R77, R110, R111, R113) -/

/-- The group goes on at `pc` and nothing else of it changed. -/
def Sys2Proof.Claims.GoesTo (s t : State) (g : Grp) (pc : BitVec 48) : Prop := GroupDone s t g { issueGroup s g with pc := pc }

/-- The link pair `lp` holds the address after the instruction, zero-extended, and the group goes on at `pc` (R111). -/
def Sys2Proof.Claims.Linked (s t : State) (g : Grp) (lp : BitVec 3) (pc : BitVec 48) : Prop :=
  let gr := issueGroup s g
  let ret := gr.pc + 4
  GroupDone s t g { (gr.setS (2 * lp.toNat) (ret.setWidth 32)).setS (2 * lp.toNat + 1) ((ret >>> 32).setWidth 32) with pc := pc }

/-- The fields of CALLR: the link pair is written, the target pair read. -/
def Sys2Proof.Claims.callrUses (lp tp : BitVec 3) : Uses :=
  { sr := [2 * lp.toNat, 2 * lp.toNat + 1, 2 * tp.toNat, 2 * tp.toNat + 1], ssrc := [2 * tp.toNat, 2 * tp.toNat + 1], vector := false }

/-- NOP, JMP, BR, CALL, CALLR, RET and FENCE (R74, R110, R111, R113): where the group goes on, and the link pair; a
CALLR or RET target with bits [1:0] not zero is an instruction-fetch fault that carries it. -/
def Obligations.ControlTransfers : Prop :=
  (∀ (s : State) (g : Grp), Issues s g { vector := false } →
    ∃ t, exec (.nop g) s = .next t ∧ Claims.GoesTo s t g ((issueGroup s g).pc + 4)) ∧
  (∀ (s : State) (g : Grp) (off : BitVec 24), Issues s g { vector := false } →
    ∃ t, exec (.jmp g off) s = .next t ∧ Claims.GoesTo s t g ((issueGroup s g).pc + BitVec.ofInt 48 (4 * off.toInt))) ∧
  (∀ (s : State) (g : Grp) (nz : Bool) (sc : BitVec 4) (off : BitVec 20), Issues s g { sr := [sc.toNat], vector := false } →
    ∃ t, exec (.br g nz sc off) s = .next t ∧ Claims.GoesTo s t g
      (if ((issueGroup s g).s sc.toNat = 0) = (nz = false) then (issueGroup s g).pc + BitVec.ofInt 48 (4 * off.toInt)
        else (issueGroup s g).pc + 4)) ∧
  (∀ (s : State) (g : Grp) (lp : BitVec 3) (off : BitVec 21), Issues s g { sr := [2 * lp.toNat, 2 * lp.toNat + 1], ssrc := [], vector := false } →
    ∃ t, exec (.call g lp off) s = .next t ∧ Claims.Linked s t g lp ((issueGroup s g).pc + BitVec.ofInt 48 (4 * off.toInt))) ∧
  (∀ (s : State) (g : Grp) (lp tp : BitVec 3),
    Issues s g (Claims.callrUses lp tp) →
    ∃ t, exec (.callr g lp tp) s = .next t ∧
      (if (issueGroup s g).pair tp.toNat % 4 = 0 then Claims.Linked s t g lp (BitVec.ofNat 48 ((issueGroup s g).pair tp.toNat))
        else t = groupFault (issueState s g (Claims.callrUses lp tp)) g 3 0
          ((issueGroup s g).pair tp.toNat))) ∧
  (∀ (s : State) (g : Grp) (tp : BitVec 3), Issues s g { sr := [2 * tp.toNat, 2 * tp.toNat + 1], vector := false } →
    ∃ t, exec (.ret g tp) s = .next t ∧
      (if (issueGroup s g).pair tp.toNat % 4 = 0 then Claims.GoesTo s t g (BitVec.ofNat 48 ((issueGroup s g).pair tp.toNat))
        else t = groupFault (issueState s g { sr := [2 * tp.toNat, 2 * tp.toNat + 1], vector := false }) g 3 0 ((issueGroup s g).pair tp.toNat))) ∧
  (∀ (s : State) (g : Grp) (scope kind : BitVec 2), Issues s g { ill := kind == 0, vector := false } →
    (∀ h ∈ s.hostReads, ∀ l vd n sg pc, h.kind ≠ .lane g l vd n sg pc) → (∀ h ∈ s.hostReads, ∀ sd pc, h.kind ≠ .scalar g sd pc) →
    ∃ t, exec (.fence g scope kind) s = .next t ∧ Claims.GoesTo s t g ((issueGroup s g).pc + 4))

/-- BR and BRD (R74, R75). BR changes only the pc. BRD: no lane takes it, the group falls through; every active lane takes
it, the group goes to T; else the lanes that take it wait on the stack at T, over the join entry where J is not already
the reconvergence point, and the others go on to J; past 32 entries it is a fault of class 6. Before a fetch the group
takes the top of its stack while its pc is the reconvergence point. CALL, CALLR and RET leave the stack alone. -/
def Obligations.DivergentBranch : Prop :=
  (∀ (s : State) (g : Grp) (nz : Bool) (sc : BitVec 4) (off : BitVec 20), Issues s g { sr := [sc.toNat], vector := false } →
    ∃ t pc, exec (.br g nz sc off) s = .next t ∧ Claims.GoesTo s t g pc) ∧
  (∀ (s : State) (g : Grp) (p : BitVec 3) (t10 : BitVec 10) (j : BitVec 11), Issues s g { ill := j == 0, psrc := [p.toNat], vector := false } →
    let gr := issueGroup s g
    let take := gr.active &&& gr.p p.toNat
    let fall := gr.active &&& ~~~(gr.p p.toNat)
    let tgt := gr.pc + BitVec.ofInt 48 (4 * t10.toInt)
    let join := gr.pc + BitVec.ofNat 48 (4 * j.toNat)
    let st := ⟨tgt, take, join⟩ :: (if join = gr.rpc then gr.stack else ⟨join, gr.active, gr.rpc⟩ :: gr.stack)
    ∃ t, exec (.brd g p t10 j) s = .next t ∧
      (take = 0 → Claims.GoesTo s t g (gr.pc + 4)) ∧
      (take ≠ 0 → fall = 0 → Claims.GoesTo s t g tgt) ∧
      (take ≠ 0 → fall ≠ 0 → st.length ≤ 32 →
        GroupDone s t g { gr with stack := st, active := fall, rpc := join, pc := gr.pc + 4 }) ∧
      (take ≠ 0 → fall ≠ 0 → 32 < st.length → t = groupFault (issueState s g { ill := j == 0, psrc := [p.toNat], vector := false }) g 6 0 0)) ∧
  (∀ gr : Machine.Group, gr.pc ≠ gr.rpc → gr.pop = gr) ∧
  (∀ (gr : Machine.Group) (e : RcEntry) (rest : List RcEntry), gr.stack = e :: rest → gr.pc = gr.rpc →
    gr.pop = Machine.Group.pop { gr with pc := e.pc, active := e.mask, rpc := e.rpc, stack := rest }) ∧
  (∀ (c c' : Cluster) (b gidx vregs entry args : Nat), placeGroup c b gidx vregs entry args = some c' → entry < 2 ^ 48 →
    ∃ slot < 4, (c'.group ((gidx + b) % 4) slot).gidx = gidx ∧ (c'.group ((gidx + b) % 4) slot).live = true ∧
      (c'.group ((gidx + b) % 4) slot).rpc = 0xFFFFFFFFFFFF#48) ∧
  (∀ (s : State) (g : Grp) (lp tp : BitVec 3) (off : BitVec 21),
    Issues s g (Claims.callrUses lp tp) → (issueGroup s g).pair tp.toNat % 4 = 0 →
    (∃ t, exec (.call g lp off) s = .next t ∧ (t.group g).stack = (issueGroup s g).stack) ∧
    (∃ t, exec (.callr g lp tp) s = .next t ∧ (t.group g).stack = (issueGroup s g).stack) ∧
    (∃ t, exec (.ret g tp) s = .next t ∧ (t.group g).stack = (issueGroup s g).stack))

/-- EXIT and BAR (R76, R77): the executing lanes leave the active mask and every entry of the stack; a group with no
lane left goes on at the first entry that still has lanes, or ends, and its reservations break; a group at a barrier
waits until every group of its block has arrived or ended. -/
def Obligations.ExitAndBarrier : Prop :=
  (∀ (s : State) (g : Grp) (pg : BitVec 3), Issues s g { pg := pg.toNat, vector := false } →
    let gr := issueGroup s g
    let lanes := issueLanes s g pg.toNat
    let st := gr.stack.map fun e => { e with mask := e.mask &&& ~~~lanes }
    ∃ t, exec (.exit g pg) s = .next t ∧
      (gr.active &&& ~~~lanes ≠ 0 →
        GroupDone s t g { gr with active := gr.active &&& ~~~lanes, stack := st, pc := gr.pc + 4 }) ∧
      (gr.active &&& ~~~lanes = 0 → ∀ e rest, st.dropWhile (fun e => e.mask = 0) = e :: rest →
        GroupDone s t g { gr with active := e.mask, stack := rest, pc := e.pc, rpc := e.rpc }) ∧
      (gr.active &&& ~~~lanes = 0 → st.dropWhile (fun e => e.mask = 0) = [] →
        (t.group g).ended = true ∧ ∀ r ∈ t.mem.resvs, r.grp ≠ g)) ∧
  (∀ (s : State) (g : Grp) (n : BitVec 2), Issues s g { vector := false } →
    let gr := issueGroup s g
    ∃ t, exec (.bar g n) s = .next t ∧ (t.group g).pc = gr.pc + 4 ∧
      ((∃ e ∈ (s.cluster g.cl).groups, e.1 ≠ gKey g.core g.slot ∧ e.2.live = true ∧ e.2.bslot = gr.bslot ∧ e.2.ended = false ∧
          e.2.barrier ≠ some n.toNat) → t.group g = { gr with barrier := some n.toNat, pc := gr.pc + 4 }) ∧
      ((∀ e ∈ (s.cluster g.cl).groups, e.1 ≠ gKey g.core g.slot → e.2.live = true → e.2.bslot = gr.bslot →
          e.2.ended = true ∨ e.2.barrier = some n.toNat) → t.group g = { gr with barrier := none, pc := gr.pc + 4 }))

/-! ### Core instructions: the scalar path (R116, R122-R125) -/

/-- What a scalar member writes to sd, on the registers of the group (R116). -/
def Sys2Proof.Claims.scalarResult (gr : Machine.Group) (op : ScaOp) : Word :=
  let r (x : BitVec 4) : Word := gr.s x.toNat
  match op with
  | .sadd _ a b => BitVec.ofInt 32 ((r a).toInt + (r b).toInt)
  | .saddi _ a i => BitVec.ofInt 32 ((r a).toInt + i.toInt)
  | .ssub _ a b => BitVec.ofInt 32 ((r a).toInt - (r b).toInt)
  | .smul _ a b => BitVec.ofInt 32 ((r a).toInt * (r b).toInt)
  | .sand _ a b => r a &&& r b
  | .sor _ a b => r a ||| r b
  | .sxor _ a b => r a ^^^ r b
  | .sshl _ a b => BitVec.ofNat 32 ((r a).toNat * 2 ^ ((r b).toNat % 32))
  | .sshr _ a b => BitVec.ofNat 32 ((r a).toNat / 2 ^ ((r b).toNat % 32))
  | .ssar _ a b => BitVec.ofInt 32 ((r a).toInt / 2 ^ ((r b).toNat % 32))
  | .scmpS _ a b cc => if Claims.condition cc (some ((r a).toInt - (r b).toInt)) then 1 else 0
  | .scmpU _ a b cc => if Claims.condition cc (some (((r a).toNat : Int) - (r b).toNat)) then 1 else 0
  | .smovi _ i => i
  | .slui _ i => BitVec.ofNat 32 (i.toNat * 65536)
  | .sori _ a i => r a ||| BitVec.ofNat 32 i.toNat
  | .sandi _ a i => r a &&& BitVec.ofNat 32 i.toNat

/-- SCALAR_ARITHMETIC, SREAD and SWRITE (R116, R122-R125): the scalar register written, the special register read or
written, once for the group whatever its mask; of FLAGS once no earlier vector load or atomic awaits its result. -/
def Obligations.ScalarMembers : Prop :=
  (∀ (s : State) (g : Grp) (op : ScaOp),
    let f := scaFields op
    Issues s g { sr := f.1 :: f.2.1, ssrc := f.2.1, ill := f.2.2.1, words := f.2.2.2, vector := false } →
    ∃ t, exec (.scalarArithmetic g op) s = .next t ∧ GroupDone s t g
      { (issueGroup s g).setS f.1 (Claims.scalarResult (issueGroup s g) op) with
        pc := (issueGroup s g).pc + BitVec.ofNat 48 (4 * f.2.2.2) }) ∧
  (∀ (s : State) (g : Grp) (sd : BitVec 4) (srn : BitVec 8),
    Issues s g { sr := [sd.toNat], ssrc := [], ill := decide (0x0F ≤ srn.toNat), vector := false } → (srn = 1 → vecOutstanding s g = false) →
    let gr := issueGroup s g
    let b := issueBlock s g
    let c := s.ctx b.ctx
    let v : Word := match srn.toNat with
      | 0x00 => gr.active.setWidth 32
      | 0x01 => gr.flags.setWidth 32
      | 0x02 => gr.mxstat.setWidth 32
      | 0x03 => BitVec.ofNat 32 (gr.gidx % 16 + 16 * (b.groups % 32))
      | 0x04 => BitVec.ofNat 32 (b.index % c.gx)
      | 0x05 => BitVec.ofNat 32 (b.index / c.gx % c.gy)
      | 0x06 => BitVec.ofNat 32 (b.index / (c.gx * c.gy))
      | 0x07 => BitVec.ofNat 32 (c.gx % 65536 + 65536 * (c.gy % 65536))
      | 0x08 => BitVec.ofNat 32 (c.gz % 65536)
      | 0x09 => BitVec.ofNat 32 g.cl
      | 0x0A => BitVec.ofNat 32 ((s.part b.part).index g.cl)
      | 0x0B => BitVec.ofNat 32 (g.core % 4 + 4 * (g.slot % 4) + 16 * (gr.bslot % 4))
      | 0x0C => c.id.setWidth 32
      | 0x0D => s.time.setWidth 32
      | _ => (gr.timeLatch >>> 32).setWidth 32
    ∃ t, exec (.sread g sd srn) s = .next t ∧ GroupDone s t g
      { gr.setS sd.toNat v with pc := gr.pc + 4, timeLatch := if srn = 0x0D then s.time else gr.timeLatch }) ∧
  (∀ (s : State) (g : Grp) (sa : BitVec 4), Issues s g { sr := [sa.toNat], vector := false } → vecOutstanding s g = false →
    ∃ t, exec (.swrite g sa 1) s = .next t ∧ GroupDone s t g
      { issueGroup s g with flags := ((issueGroup s g).s sa.toNat).setWidth 5, pc := (issueGroup s g).pc + 4 }) ∧
  (∀ (s : State) (g : Grp) (sa : BitVec 4), Issues s g { sr := [sa.toNat], vector := false } →
    ∃ t, exec (.swrite g sa 2) s = .next t ∧ GroupDone s t g
      { issueGroup s g with mxstat := ((issueGroup s g).s sa.toNat).setWidth 8, pc := (issueGroup s g).pc + 4 })

/-- A fault of class 1 of the group at the instruction is noted, the group stops there, and nothing else happened. -/
def Sys2Proof.Claims.illegalAt (s t : State) (g : Grp) : Prop :=
  (t.part (issueBlock s g).part).notes = (s.part (issueBlock s g).part).notes ++ [({
    cls := 1, time := s.time, cluster := g.cl, inGroup := true, core := g.core, slot := g.slot
    gidx := (issueGroup s g).gidx, ctx := some (issueBlock s g).ctx, pc := (issueGroup s g).pc } : FaultNote)] ∧
  (t.group g).pc = (issueGroup s g).pc ∧ (t.group g).stopped = true ∧
  t.mem = s.mem ∧ (∀ k, k ≠ g.cl → t.cluster k = s.cluster k)

/-- Operand checks end an instruction before any effect (R86, R87, R96, R97): ILLEGAL_INSTRUCTION, for words that no member
table gives a meaning, and a vector integer member whose destination is not below VREGS, take a fault of class 1 at the
instruction. -/
def Obligations.IllegalInstructionFaults : Prop :=
  (∀ (s : State) (g : Grp) (w ext : BitVec 32), decodeCore g w ext = none → canIssue s g = true →
    fetchFault s (issueBlock s g).part (issueGroup s g).pc (wordsOf w) = none →
    ∃ t, exec (.illegalInstruction g w ext) s = .next t ∧ Claims.illegalAt s t g) ∧
  (∀ (s : State) (g : Grp) (op : VIntOp) (vd va : BitVec 7) (b : BSrc) (pg : BitVec 3), canIssue s g = true → halfHeld s g.cl = false →
    s.hostReads = [] → fetchFault s (issueBlock s g).part (issueGroup s g).pc 1 = none → (issueBlock s g).vregs ≤ vd.toNat →
    ∃ t, exec (.vectorIntegerArithmetic g op vd va b pg) s = .next t ∧ Claims.illegalAt s t g)

/-! ### Core instructions: scratch and global memory (R78-R84, R112, R114-R117, R163, R175, R177) -/

/-- Only the scratch of the group's cluster, its groups and its instruction cache changed in the cluster, and nothing
outside it but the observation counters; the group goes on after one word. -/
def Sys2Proof.Claims.ScratchStored (s t : State) (g : Grp) : Prop :=
  OnlyCluster g.cl s t ∧ t.group g = { issueGroup s g with pc := (issueGroup s g).pc + 4 } ∧
  (∃ sc bad gs ic, t.cluster g.cl = { s.cluster g.cl with scratch := sc, scratchBad := bad, groups := gs, icache := ic }) ∧
  ∀ i j, gKey i j ≠ gKey g.core g.slot → (t.cluster g.cl).group i j = (s.cluster g.cl).group i j

/-- The scratch address of a lane (R112). -/
def Sys2Proof.Claims.lds (s : State) (g : Grp) (va : BitVec 7) (sp : BitVec 3) (i : Nat) : Nat :=
  (issueBlock s g).scrBase + ((issueGroup s g).s (2 * sp.toNat) + Claims.opA s g va i).toNat

/-- A run of scratch bytes that may be read: aligned, inside the block's scratch, of good parity, and in no held
reduction buffer (R78, R79, R87, R226). -/
def Sys2Proof.Claims.scratchReadable (s : State) (g : Grp) (off n : Nat) : Prop :=
  off % n = 0 ∧ off < (issueBlock s g).scrSize ∧
  (∀ k < n, (issueBlock s g).scrBase + off + k ∉ (s.cluster g.cl).scratchBad) ∧
  ∀ h ∈ (s.cluster g.cl).mx.held, h.rbuf = true →
    (issueBlock s g).scrBase + off + n ≤ h.base ∨ h.base + h.len ≤ (issueBlock s g).scrBase + off

/-- A run of scratch bytes that may be written: aligned, inside the block's scratch, and not held (R78, R79, R133). -/
def Sys2Proof.Claims.scratchWritable (s : State) (g : Grp) (off n : Nat) : Prop :=
  off % n = 0 ∧ off < (issueBlock s g).scrSize ∧
  ∀ h ∈ (s.cluster g.cl).mx.held, (issueBlock s g).scrBase + off + n ≤ h.base ∨ h.base + h.len ≤ (issueBlock s g).scrBase + off

/-- LDS, SLDS, STS and SSTS (R112, R116): what is loaded from scratch into the register or registers of each executing
lane, sign-extended for the signed widths; the bytes of scratch stored, the highest lane's where lanes overlap, and
every other byte of scratch as before. -/
def Obligations.ScratchAccess : Prop :=
  (∀ (s : State) (g : Grp) (w : LdWidth) (vd va : BitVec 7) (sp pg : BitVec 3),
    let n := (ldInfo w).1
    let regs := (ldInfo w).2.1
    Issues s g (mUses vd va sp pg regs false regs) →
    (∀ i < 8, (issueLanes s g pg.toNat).getLsbD i = true →
      Claims.scratchReadable s g (Claims.lds s g va sp i - (issueBlock s g).scrBase) n) →
    ∃ t, exec (.lds g w vd va sp pg) s = .next t ∧ VectorDone s t g vd.toNat regs pg.toNat 1 fun i =>
      let v := ByteMap.readNat (s.cluster g.cl).scratch (Claims.lds s g va sp i) n
      ((match w with
        | .s8 => (BitVec.ofInt 32 (BitVec.ofNat 8 v).toInt).toNat
        | .s16 => (BitVec.ofInt 32 (BitVec.ofNat 16 v).toInt).toNat
        | _ => v), 0)) ∧
  (∀ (s : State) (g : Grp) (w : StWidth) (vd va : BitVec 7) (sp pg : BitVec 3),
    let n := (stInfo w).1
    let regs := (stInfo w).2
    Issues s g (mUses vd va sp pg regs true regs) →
    (∀ i < 8, (issueLanes s g pg.toNat).getLsbD i = true →
      Claims.scratchWritable s g (Claims.lds s g va sp i - (issueBlock s g).scrBase) n) →
    ∃ t, exec (.sts g w vd va sp pg) s = .next t ∧ Claims.ScratchStored s t g ∧
      ∀ a, ByteMap.get (t.cluster g.cl).scratch a =
        match (lanesOf (issueLanes s g pg.toNat)).reverse.find? fun i =>
            decide (Claims.lds s g va sp i ≤ a) && decide (a < Claims.lds s g va sp i + n) with
        | some i => BitVec.ofNat 8 ((s.cluster g.cl).vWide g (issueGroup s g) vd.toNat i regs /
            2 ^ (8 * (a - Claims.lds s g va sp i)))
        | none => ByteMap.get (s.cluster g.cl).scratch a) ∧
  (∀ (s : State) (g : Grp) (sd : BitVec 4) (sp : BitVec 3) (imm : BitVec 16), Issues s g (smUses sd sp false false) →
    let o := ((issueGroup s g).s (2 * sp.toNat) + BitVec.ofInt 32 imm.toInt).toNat
    Claims.scratchReadable s g o 4 →
    let v := BitVec.ofNat 32 (ByteMap.readNat (s.cluster g.cl).scratch ((issueBlock s g).scrBase + o) 4)
    ∃ t, exec (.slds g sd sp imm) s = .next t ∧
      GroupDone s t g { (issueGroup s g).setS sd.toNat v with pc := (issueGroup s g).pc + 4 }) ∧
  (∀ (s : State) (g : Grp) (sd : BitVec 4) (sp : BitVec 3) (imm : BitVec 16), Issues s g (smUses sd sp false true) →
    let o := ((issueGroup s g).s (2 * sp.toNat) + BitVec.ofInt 32 imm.toInt).toNat
    Claims.scratchWritable s g o 4 →
    ∃ t, exec (.ssts g sd sp imm) s = .next t ∧ Claims.ScratchStored s t g ∧
      ∀ a, ByteMap.get (t.cluster g.cl).scratch a =
        if (issueBlock s g).scrBase + o ≤ a ∧ a < (issueBlock s g).scrBase + o + 4 then
          BitVec.ofNat 8 (((issueGroup s g).s sd.toNat).toNat / 2 ^ (8 * (a - ((issueBlock s g).scrBase + o))))
        else ByteMap.get (s.cluster g.cl).scratch a)

/-- The global address of a lane (R97, R112): the pair's 48 bits plus va, signed, modulo 2^48. -/
def Sys2Proof.Claims.ldg (s : State) (g : Grp) (va : BitVec 7) (sp : BitVec 3) (i : Nat) : Nat :=
  (BitVec.ofNat 48 ((issueGroup s g).pair sp.toNat) + BitVec.ofInt 48 (Claims.opA s g va i).toInt).toNat

/-- An access that R78, R79 and R84 allow, with nothing on its line in progress or ahead of it (R277, R281) and nothing held (R133, R407),
where no entry of the cluster's copy of the allocation table has a parity error (R503). -/
def Sys2Proof.Claims.reachable (s : State) (g : Grp) (a n : Nat) (write : Bool) : Prop :=
  dataAllowed s (issueBlock s g).part a n = true ∧ a % n = 0 ∧ (s.cluster g.cl).allocBad = [] ∧ accessHeld s a n write = false

/-- The same for LDR, STC and an atomic, which only the slices serve (R172, R173, R175, R326). -/
def Sys2Proof.Claims.sliceReachable (s : State) (g : Grp) (a n : Nat) (write : Bool) : Prop :=
  dataAllowed s (issueBlock s g).part a n = true ∧ a % n = 0 ∧ (s.cluster g.cl).allocBad = [] ∧ atomicHeld s g.cl a n write = false ∧
  (rangeOf a = .dram ∨ rangeOf a = .spine) ∧ isNbRaw s.mem a = false

/-- Lanes performed one after another, each giving a state and whether it met a bus error: the state after the last, and the lanes
that met one. -/
def Sys2Proof.Claims.perform (f : State → Nat → State × Bool) (ls : List Nat) (s : State) : State × List Nat :=
  ls.foldl (fun x i => ((f x.1 i).1, if (f x.1 i).2 then x.2 ++ [i] else x.2)) (s, [])

/-- The outcome of lanes performed (R87): with no bus error the group goes on; else a fault of class 5 that names the lanes that met one
and the address of the first. -/
def Sys2Proof.Claims.performed (r : State × List Nat) (g : Grp) (addr : Nat → Nat) (t : State) : Prop :=
  (r.2 = [] → t = advance r.1 g 1 none) ∧
  (r.2 ≠ [] → t = groupFault r.1 g 5 (r.2.foldl (fun m i => m ||| (1#8 <<< i)) 0) (addr (r.2.headD 0)))

/-- LDG, STG, LDR, STC and ATOM by the executing lanes in order, and SLDG and SSTG (R112, R114, R116, R163, R175, R177): the registers
that receive what each address reads as, the reservations recorded, the bytes stored, and the value memory held before an atomic; a bus
error is a fault of class 5; accesses of the host window go out as reads and AtomicOps. -/
def Obligations.GlobalAccess : Prop :=
  (∀ (s : State) (g : Grp) (w : LdWidth) (vd va : BitVec 7) (sp pg : BitVec 3),
    let n := (ldInfo w).1
    let regs := (ldInfo w).2.1
    let u := mUses vd va sp pg regs false regs
    let ls := lanesOf (issueLanes s g pg.toNat)
    let a := Claims.ldg s g va sp
    let p := (issueBlock s g).part
    let s1 := issueState s g u
    Issues s g u → (∀ i ∈ ls, Claims.reachable s1 g (a i) n false) →
    ((∀ i ∈ ls, rangeOf (a i) ≠ .hostWin) → ∃ t, exec (.ldg g w vd va sp pg) s = .next t ∧
      Claims.performed (Claims.perform (fun x i =>
        let r := globalLoad x g.cl p (a i) n
        (if r.2.2 then r.1 else setLane r.1 g (issueGroup s g) vd.toNat regs i (loadExtend r.2.1 n (ldInfo w).2.2), r.2.2)) ls
          (countL1 s1 g.cl p (ls.map a) n false)) g a t) ∧
    ((∀ i ∈ ls, rangeOf (a i) = .hostWin) → ∃ t, exec (.ldg g w vd va sp pg) s = .next t ∧
      t.out = s.out ++ ls.zipIdx.map (fun x => .hostRead (s.hrNext + x.2) (p + 1) [(a x.1 - hostBase, n)]) ∧
      t.hostReads = s.hostReads ++ ls.zipIdx.map (fun x => ⟨s.hrNext + x.2, p + 1, [(a x.1 - hostBase, n)],
        .lane g x.1 vd.toNat regs (ldInfo w).2.2 (issueGroup s g).pc, s.time⟩) ∧
      (t.group g).pc = (issueGroup s g).pc + 4)) ∧
  (∀ (s : State) (g : Grp) (w : StWidth) (vd va : BitVec 7) (sp pg : BitVec 3),
    let n := (stInfo w).1
    let regs := (stInfo w).2
    let u := mUses vd va sp pg regs true regs
    let ls := lanesOf (issueLanes s g pg.toNat)
    let a := Claims.ldg s g va sp
    let p := (issueBlock s g).part
    let s1 := issueState s g u
    Issues s g u → (∀ i ∈ ls, Claims.reachable s1 g (a i) n true) →
    ∃ t, exec (.stg g w vd va sp pg) s = .next t ∧
      Claims.performed (Claims.perform (fun x i =>
        (globalStore x g.cl p (a i) n ((s.cluster g.cl).vWide g (issueGroup s g) vd.toNat i regs), storeFinds x (a i) n)) ls
          (countL1 s1 g.cl p (ls.map a) n true)) g a t) ∧
  (∀ (s : State) (g : Grp) (wide : Bool) (vd va : BitVec 7) (sp pg : BitVec 3),
    let regs := if wide then 2 else 1
    let u := mUses vd va sp pg regs false regs
    let ls := lanesOf (issueLanes s g pg.toNat)
    let a := Claims.ldg s g va sp
    let s1 := issueState s g u
    Issues s g u → (∀ i ∈ ls, Claims.sliceReachable s1 g (a i) (4 * regs) false) →
    ∃ t, exec (.ldr g wide vd va sp pg) s = .next t ∧
      Claims.performed (Claims.perform (fun x i =>
        let r := uncachedReadSec x.mem x.time (x.ways (issueBlock s g).part) (a i)
        let bad := r.2.err || r.1.vertOut.contains g.cl
        (if bad then { x with mem := dropResv r.1 g i }
          else setLane { x with mem := addResv r.1 g i (a i) (4 * regs) } g (issueGroup s g) vd.toNat regs i
            (r.2.data.toNat / 2 ^ (8 * (a i % 32)) % 2 ^ (32 * regs)), bad)) ls (takeTurns s1 (ls.map a))) g a t) ∧
  (∀ (s : State) (g : Grp) (wide : Bool) (vd va : BitVec 7) (sp pg : BitVec 3),
    let regs := if wide then 2 else 1
    let u := mUses vd va sp pg regs true regs
    let ls := lanesOf (issueLanes s g pg.toNat)
    let a := Claims.ldg s g va sp
    let s1 := issueState s g u
    Issues s g u → (∀ i ∈ ls, Claims.sliceReachable s1 g (a i) (4 * regs) true) →
    exec (.stc g wide vd va sp pg) s = .next (advance (Claims.perform (fun x i =>
      let d := BitVec.ofNat 256 ((s.cluster g.cl).vWide g (issueGroup s g) vd.toNat i regs <<< (8 * (a i % 32)))
      let held := (findResv x.mem g i).any fun q => q.addr == a i && q.width == 4 * regs
      let m := dropResv x.mem g i
      let m := if held then uncachedWriteSec m x.time (x.ways (issueBlock s g).part) (a i) (byteMask (a i % 32) (4 * regs)) d else m
      (setLane { x with mem := m } g (issueGroup s g) vd.toNat regs i (if held then 0 else 1), false)) ls (takeTurns s1 (ls.map a))).1
      g 1 none)) ∧
  (∀ (s : State) (g : Grp) (op : AtomOp) (vd va : BitVec 7) (sp pg : BitVec 3),
    let f := atomInfo op
    let u := mUses vd va sp pg f.1 true f.2.1
    let ls := lanesOf (issueLanes s g pg.toNat)
    let a := Claims.ldg s g va sp
    let s1 := issueState s g u
    Issues s g u → (∀ i ∈ ls, Claims.sliceReachable s1 g (a i) f.2.2 true) →
    ∃ t, exec (.atom g op vd va sp pg) s = .next t ∧
      Claims.performed (Claims.perform (fun x i =>
        let r := sliceAtomicAt x.mem x.time (x.ways (issueBlock s g).part) (a i)
          (atomSliceOp op ((s.cluster g.cl).vWide g (issueGroup s g) vd.toNat i f.1))
        let bad := r.2.2 || r.1.vertOut.contains g.cl
        (if bad then { x with mem := r.1 } else setLane { x with mem := r.1 } g (issueGroup s g) vd.toNat ((f.2.2 + 3) / 4) i r.2.1, bad))
          ls (takeTurns s1 (ls.map a))) g a t) ∧
  (∀ (s : State) (g : Grp) (op : AtomOp) (vd va : BitVec 7) (sp pg : BitVec 3) (i : Nat) (x : PcieAtomic × BitVec 64 × BitVec 64),
    let f := atomInfo op
    let u := mUses vd va sp pg f.1 true f.2.1
    let a := Claims.ldg s g va sp i
    Issues s g u → lanesOf (issueLanes s g pg.toNat) = [i] → Claims.reachable (issueState s g u) g a f.2.2 true →
    rangeOf a = .hostWin → atomHostOp op ((s.cluster g.cl).vWide g (issueGroup s g) vd.toNat i f.1) = some x →
    ∃ t, exec (.atom g op vd va sp pg) s = .next t ∧
      t.out = s.out ++ [.hostAtomic s.hrNext ((issueBlock s g).part + 1) (a - hostBase) x.1 f.2.2 x.2.1 x.2.2] ∧
      (t.group g).pc = (issueGroup s g).pc + 4) ∧
  (∀ (s : State) (g : Grp) (sd : BitVec 4) (sp : BitVec 3) (imm : BitVec 16),
    let u := smUses sd sp true false
    let a := (BitVec.ofNat 48 ((issueGroup s g).pair sp.toNat) + BitVec.ofInt 48 imm.toInt).toNat
    let s1 := issueState s g u
    let p := (issueBlock s g).part
    let r := globalLoad (countL1 s1 g.cl p [a] 4 false) g.cl p a 4
    Issues s g u → Claims.reachable s1 g a 4 false →
    ∃ t, exec (.sldg g sd sp imm) s = .next t ∧
      (rangeOf a ≠ .hostWin → r.2.2 = false →
        t = advance (r.1.setGroup g ((r.1.group g).setS sd.toNat (BitVec.ofNat 32 r.2.1))) g 1 none) ∧
      (rangeOf a ≠ .hostWin → r.2.2 = true → t = groupFault r.1 g 5 0 a) ∧
      (rangeOf a = .hostWin → t.out = s.out ++ [.hostRead s.hrNext (p + 1) [(a - hostBase, 4)]] ∧
        (t.group g).pc = (issueGroup s g).pc + 4)) ∧
  (∀ (s : State) (g : Grp) (sd : BitVec 4) (sp : BitVec 3) (imm : BitVec 16),
    let u := smUses sd sp true true
    let a := (BitVec.ofNat 48 ((issueGroup s g).pair sp.toNat) + BitVec.ofInt 48 imm.toInt).toNat
    let s1 := issueState s g u
    let p := (issueBlock s g).part
    let x := globalStore (countL1 s1 g.cl p [a] 4 true) g.cl p a 4 ((issueGroup s g).s sd.toNat).toNat
    Issues s g u → Claims.reachable s1 g a 4 true →
    exec (.sstg g sd sp imm) s = .next (if storeFinds s1 a 4 then groupFault x g 5 0 a else advance x g 1 none))

/-- A sector of stack DRAM written and read again by its controller (R308, R309, R310, R311): the data come back with
no error, no byte outside the sector changes, and a protected sector written as poisoned comes back with an error. -/
def Obligations.DramWriteThenRead : Prop :=
  ∀ (m : MemSys) (t : BitVec 64) (a : Nat) (d : BitVec 256), rangeOf a = .dram →
    (dramRead (dramWrite m t a d false) t a false).2 = ⟨d, false⟩ ∧
    (∀ b, b / 32 ≠ a / 32 → ByteMap.get (dramWrite m t a d false).dram b = ByteMap.get m.dram b) ∧
    (isRaw m (a / 32 * 32) = false → (dramRead (dramWrite m t a d true) t a false).2.err = true)

/-- The L1 (R81, R280, R283): a cached load that hits returns the bytes of the L1's own line, and no memory below the L1
changes; a cached store by the owner of a line that its L1 and its slice hold goes into the L1's line, marked dirty, and
stack DRAM is not written. -/
def Obligations.L1HitAndOwnerStore : Prop :=
  (∀ (m : MemSys) (t : BitVec 64) (mask : BitVec 16) (c a n : Nat), isNbRaw m a = false →
    let x := m.l1Line c (a / 128)
    let y := x.sec (a % 128 / 32)
    x.present = true → y.parBad &&& byteMask (a % 32) n = 0 → y.mask &&& byteMask (a % 32) n = byteMask (a % 32) n →
    (l1Load m t mask c a n).2 = (y.data.toNat / 2 ^ (8 * (a % 32)) % 2 ^ (8 * n), false) ∧
    (l1Load m t mask c a n).1.dram = m.dram ∧ (l1Load m t mask c a n).1.lines = m.lines ∧
    (l1Load m t mask c a n).1.resvs = m.resvs) ∧
  (∀ (m : MemSys) (t : BitVec 64) (mask : BitVec 16) (c a n v : Nat), isNbRaw m a = false → m.rsv (a / 128) = false →
    checkSet m t a = m → (m.lineAt (a / 128)).present = true → (m.lineAt (a / 128)).dir = .own c →
    (m.l1Line c (a / 128)).present = true →
    let y := (m.l1Line c (a / 128)).sec (a % 128 / 32)
    let m' := l1Store m t mask c a n v
    let y' := (m'.l1Line c (a / 128)).sec (a % 128 / 32)
    y'.dmask = y.dmask ||| byteMask (a % 32) n ∧ y'.mask = y.mask ||| byteMask (a % 32) n ∧
    y'.data = overlay (byteMask (a % 32) n) y.data (BitVec.ofNat 256 (v % 2 ^ (8 * n) * 2 ^ (8 * (a % 32)))) ∧
    m'.dram = m.dram)

/-! ### Core instructions: the matrix array, descriptors and reductions (R118-R121, R132-R139, R226-R230, R244, R255) -/

/-- The group that issues, as owner of an asynchronous operation (R88, R138). -/
def Sys2Proof.Claims.owner (s : State) (g : Grp) : ChainOwner := ownerOf g (issueGroup s g) (issueBlock s g)

/-- Instructions waiting in the array queue of a group slot (R139). -/
def Sys2Proof.Claims.mxQueue (s : State) (g : Grp) : List MxEntry :=
  NMap.get [] (s.cluster g.cl).mx.queues (gKey g.core g.slot)

/-- MXA.INIT, MXA.MMA, MXA.STORE and MXA.WAIT (R118, R119, R132, R133, R138, R139): the chain of the group
opens, gains K steps, or closes, the instruction goes to the end of the group's array queue, the panels are held, and a
closed chain counts until it completes; the order rules of R119 and R138 are faults of class 8. -/
def Obligations.MatrixIssue : Prop :=
  (∀ (s : State) (g : Grp) (sa : BitVec 4) (f : BitVec 12),
    let gr := issueGroup s g
    let init := f.toNat / 1024
    let bf := f.toNat / 32 % 32
    let off := (gr.s sa.toNat).toNat / 32 * 32
    let u : Uses := {
      sr := if init = 0 then [] else [sa.toNat], vector := false
      ill := f.toNat % 8 ≠ 0 || init = 3 || (if init = 0 then bf ≠ 0 || sa ≠ 0 else !([0x05, 0x0D, 0x0E, 0x0F, 0x12].contains bf)) }
    Issues s g u → (Claims.mxQueue s g).length < 4 → (init ≠ 0 → off + round32 (biasLen init bf) ≤ (issueBlock s g).scrSize) →
    ∃ t, exec (.mxaInit g sa f) s = .next t ∧
      (gr.chainOpen = false →
        t.group g = { gr with
          chainOpen := true, chainPack := f.toNat / 8 % 4, chainExt := none, chainK := 0, pc := gr.pc + 4 } ∧
        (∃ e, Claims.mxQueue t g = Claims.mxQueue s g ++ [e] ∧ e.owner = Claims.owner s g ∧ e.pc = gr.pc) ∧
        SameMemory s t ∧ OnlyCluster g.cl s t) ∧
      (gr.chainOpen = true → t = groupFault (issueState s g u) g 8 0 0)) ∧
  (∀ (s : State) (g : Grp) (sa sb sc : BitVec 4) (ext : BitVec 32),
    let gr := issueGroup s g
    let u : Uses := { sr := [sa.toNat, sb.toNat, sc.toNat], ill := mmaIll ext, words := 2, vector := false }
    let k := (gr.s sc.toNat).toNat
    let ch := gr.chainExt.getD ext
    let offA := (gr.s sa.toNat).toNat / 32 * 32
    let offB := (gr.s sb.toNat).toNat / 32 * 32
    let len := panelBytes gr.chainPack k ch
    Issues s g u → (Claims.mxQueue s g).length < 4 →
    (gr.chainOpen = true → gr.chainK + k ≤ 2 ^ 20 → offA + round32 len.1 ≤ (issueBlock s g).scrSize →
      offB + round32 len.2 ≤ (issueBlock s g).scrSize →
      ∃ t, exec (.mxaMma g sa sb sc ext) s = .next t ∧
        t.group g = { gr with chainExt := some ch, chainK := gr.chainK + k, pc := gr.pc + 8 } ∧
        (∃ e, Claims.mxQueue t g = Claims.mxQueue s g ++ [e] ∧ e.owner = Claims.owner s g ∧ e.pc = gr.pc) ∧
        (∃ id, (t.cluster g.cl).mx.held = (s.cluster g.cl).mx.held ++
          (([((issueBlock s g).scrBase + offA, round32 len.1), ((issueBlock s g).scrBase + offB, round32 len.2)].filter
            fun r => r.2 ≠ 0).map fun r => ⟨id, r.1, r.2, false⟩)) ∧
        SameMemory s t ∧ OnlyCluster g.cl s t) ∧
    (gr.chainOpen = false → exec (.mxaMma g sa sb sc ext) s = .next (groupFault (issueState s g u) g 8 0 0))) ∧
  (∀ (s : State) (g : Grp) (sa sb : BitVec 4) (i : Nat) (d : TImg),
    let gr := issueGroup s g
    let u : Uses := { sr := [sa.toNat, sb.toNat], vector := false }
    let c := s.cluster g.cl
    Issues s g u → (Claims.mxQueue s g).length < 4 → (c.mx.incomplete.countP fun x => x = Claims.owner s g) < 16 →
    (gr.s sa.toNat).toNat % 64 ∉ c.tdBad → gr.chainOpen = true → tensorUse c gr.bslot (gr.s sa.toNat).toNat = some (i, d) → storable d = true →
    (gr.s sb.toNat).toNat < listProd d.view →
    ∃ t, exec (.mxaStore g sa sb) s = .next t ∧
      t.group g = { gr with chainOpen := false, chainExt := none, chainK := 0, pc := gr.pc + 4 } ∧
      (t.cluster g.cl).mx.incomplete = c.mx.incomplete ++ [Claims.owner s g] ∧
      (∃ e, Claims.mxQueue t g = Claims.mxQueue s g ++ [e] ∧ e.owner = Claims.owner s g ∧ e.pc = gr.pc ∧
        e.op = .store (gr.s sa.toNat).toNat (gr.s sb.toNat).toNat) ∧
      SameMemory s t ∧ OnlyCluster g.cl s t) ∧
  (∀ (s : State) (g : Grp) (n : BitVec 4), Issues s g { vector := false } →
    ((s.cluster g.cl).mx.incomplete.countP fun x => x = Claims.owner s g) ≤ n.toNat →
    ∃ t, exec (.mxaWait g n) s = .next t ∧ GroupDone s t g { issueGroup s g with pc := (issueGroup s g).pc + 4 })

/-- TD.CREATE, TD.LOAD, TD.STORE, CB.LOAD, TD.FREE and TD.WAIT
(R118, R120, R121, R244-R246, R255, R256, R262): the status with bit 31 set, the operation issued once every check of
its handle, index and scratch side has passed, the slot freed. -/
def Obligations.DescriptorIssue : Prop :=
  (∀ (s : State) (g : Grp) (sa sb : BitVec 4),
    let gr := issueGroup s g
    let b := issueBlock s g
    let u : Uses := { sr := [sa.toNat, sb.toNat], ssrc := [sb.toNat], vector := false }
    let s1 := issueState s g u
    let off := (gr.s sb.toNat).toNat
    Issues s g u → tdCount s1 g.cl (Claims.owner s g) < 16 → off % 64 = 0 → off + 64 ≤ b.scrSize →
    (s.cluster g.cl).tdOps = [] → rbufAt (s.cluster g.cl) (b.scrBase + off) 64 = false → (s.cluster g.cl).scratchBad = [] →
    let img := BitVec.ofNat 512 (ByteMap.readNat (s.cluster g.cl).scratch (b.scrBase + off) 64)
    let st := tdStatus s1 g.cl gr.bslot img
    ∃ t, exec (.tdCreate g sa sb) s = .next t ∧
      (st ≠ 0 → GroupDone s t g { gr.setS sa.toNat (0x80000000#32 ||| BitVec.ofNat 32 st) with pc := gr.pc + 4 }) ∧
      (∀ i, st = 0 → (imgKind img = 2 → (redImg img).root = true →
          heldAt (s.cluster g.cl) (b.scrBase + (redImg img).rbuf) (32 * (redImg img).words) = false ∧
          redCount (s.cluster g.cl) (Claims.owner s g) < 16) → lowestBelow 64 (tdFree s1 g.cl) = some i →
        ((t.cluster g.cl).td.any fun e => e.1 = i && e.2.live && e.2.image = img) = true ∧
        ∃ gen : BitVec 10, t.group g = { gr.setS sa.toNat (BitVec.ofNat 32 (gen.toNat * 64 + i)) with pc := gr.pc + 4 })) ∧
  (∀ (s : State) (g : Grp) (sa sb sc : BitVec 4) (load : Bool),
    let gr := issueGroup s g
    let b := issueBlock s g
    let u : Uses := { sr := [sa.toNat, sb.toNat, sc.toNat], vector := false }
    let s1 := issueState s g u
    let off := (gr.s sb.toNat).toNat
    let scr := b.scrBase + off / 32 * 32
    let idx := (gr.s sc.toNat).toNat
    let i : Instr := if load then .tdLoad g sa sb sc else .tdStore g sa sb sc
    Issues s g u → tdCount s1 g.cl (Claims.owner s g) < 16 →
    (tileFault (s1.cluster g.cl) gr b (gr.s sa.toNat).toNat idx off load = none →
      exec i s = .next (advance (tdIssue s1 g.cl {
        owner := Claims.owner s g, pc := gr.pc, slot := (gr.s sa.toNat).toNat % 64
        work := if load then .load scr idx else .store scr idx }) g 1 none)) ∧
    (∀ k a, tileFault (s1.cluster g.cl) gr b (gr.s sa.toNat).toNat idx off load = some (k, a) →
      exec i s = .next (groupFault s1 g k 0 a))) ∧
  (∀ (s : State) (g : Grp) (sa : BitVec 4) (slot table : Nat) (cb8 : Bool) (i : Nat) (d : TImg), slot < 4 → table < 16 →
    (cb8 = true → table = 0) →
    let gr := issueGroup s g
    let f : BitVec 12 := BitVec.ofNat 12 (slot + 4 * table + (if cb8 then 64 else 0))
    let u : Uses := { sr := [sa.toNat], vector := false }
    let s1 := issueState s g u
    Issues s g u → tdCount s1 g.cl (Claims.owner s g) < 16 → (gr.s sa.toNat).toNat % 64 ∉ (s.cluster g.cl).tdBad →
    tensorUse (s.cluster g.cl) gr.bslot (gr.s sa.toNat).toNat = some (i, d) →
    d.fmt = 0x0D → d.sfmt = 0x0D → d.ndim = 1 → d.nwin = 0 → d.sbind = 0 → (if cb8 then 256 else 16) ≤ d.extD 0 →
    exec (.cbLoad g sa f) s = .next (advance (tdIssue s1 g.cl {
      owner := Claims.owner s g, pc := gr.pc, slot := i, work := .cb slot table cb8 }) g 1 none)) ∧
  (∀ (s : State) (g : Grp) (sa : BitVec 4) (i : Nat),
    let gr := issueGroup s g
    let u : Uses := { sr := [sa.toNat], vector := false }
    let s1 := issueState s g u
    Issues s g u → tdCount s1 g.cl (Claims.owner s g) < 16 → (gr.s sa.toNat).toNat % 64 ∉ (s.cluster g.cl).tdBad →
    tdLookup (s.cluster g.cl) gr.bslot (gr.s sa.toNat).toNat = some i →
    ∃ t, exec (.tdFree g sa) s = .next t ∧ (NMap.get {} (t.cluster g.cl).td i).live = false ∧
      (t.group g).pc = gr.pc + 4 ∧ SameMemory s t ∧ OnlyCluster g.cl s t) ∧
  (∀ (s : State) (g : Grp) (n : BitVec 4), Issues s g { vector := false } →
    tdCount (issueState s g { vector := false }) g.cl (Claims.owner s g) ≤ n.toNat →
    ∃ t, exec (.tdWait g n) s = .next t ∧ GroupDone s t g { issueGroup s g with pc := (issueGroup s g).pc + 4 })

/-- RED.PUT, RED.ACC and RED.WAIT (R118, R121, R228, R230): a count of 0 has no effect; else the words go into the
reduction with the handle's cursor moved, a chain closes towards the reduction, and a group past R230's limits takes a
fault of class 9. -/
def Obligations.ReductionIssue : Prop :=
  (∀ (s : State) (g : Grp) (sa sb sc : BitVec 4) (i : Nat) (r : RedHandle),
    let gr := issueGroup s g
    let b := issueBlock s g
    let u : Uses := { sr := [sa.toNat, sb.toNat, sc.toNat], vector := false }
    let n := (gr.s sc.toNat).toNat
    let off := (gr.s sb.toNat).toNat
    Issues s g u →
    (n = 0 → ∃ t, exec (.redPut g sa sb sc) s = .next t ∧ GroupDone s t g { gr with pc := gr.pc + 4 }) ∧
    (n ≠ 0 → redCount (s.cluster g.cl) (Claims.owner s g) < 16 → off % 16 = 0 → (gr.s sa.toNat).toNat % 64 ∉ (s.cluster g.cl).tdBad →
      off + 16 * n ≤ b.scrSize →
      redUse (s.cluster g.cl) gr.bslot (gr.s sa.toNat).toNat = some (i, r) →
      (r.accepts gr.gidx n = false → exec (.redPut g sa sb sc) s = .next (groupFault (issueState s g u) g 9 0 0)) ∧
      (r.accepts gr.gidx n = true → (s.cluster g.cl).scratchBad = [] → rbufAt (s.cluster g.cl) (b.scrBase + off) (16 * n) = false →
        ∃ t r', exec (.redPut g sa sb sc) s = .next t ∧ (NMap.get {} (t.cluster g.cl).td i).red = some r' ∧
          r'.cursors = NMap.set r.elemBase r.cursors gr.gidx ((r.cursor gr.gidx + n) % r.words) ∧
          r'.outQ.length = r.outQ.length + (if r.root then 0 else n) ∧
          r'.localQ.length = r.localQ.length + (if r.root then n else 0) ∧
          (t.group g).pc = gr.pc + 4 ∧ SameMemory s t))) ∧
  (∀ (s : State) (g : Grp) (sa : BitVec 4) (i : Nat) (r : RedHandle),
    let gr := issueGroup s g
    let u : Uses := { sr := [sa.toNat], vector := false }
    let c := s.cluster g.cl
    Issues s g u → (Claims.mxQueue s g).length < 4 → (c.mx.incomplete.countP fun x => x = Claims.owner s g) < 16 →
    redCount c (Claims.owner s g) < 16 → (gr.s sa.toNat).toNat % 64 ∉ c.tdBad → gr.chainOpen = true →
    redUse c gr.bslot (gr.s sa.toNat).toNat = some (i, r) →
    r.accepts gr.gidx 64 = true →
    ∃ t, exec (.redAcc g sa) s = .next t ∧
      t.group g = { gr with chainOpen := false, chainExt := none, chainK := 0, pc := gr.pc + 4 } ∧
      (t.cluster g.cl).mx.incomplete = c.mx.incomplete ++ [Claims.owner s g] ∧
      (NMap.get {} (t.cluster g.cl).td i).red = some (r.reserve gr.gidx 64) ∧
      (∃ e, Claims.mxQueue t g = Claims.mxQueue s g ++ [e] ∧ e.op = .redAcc i (r.cursor gr.gidx)) ∧ SameMemory s t) ∧
  (∀ (s : State) (g : Grp) (n : BitVec 4), Issues s g { vector := false } →
    redCount (s.cluster g.cl) (Claims.owner s g) ≤ n.toNat →
    ∃ t, exec (.redWait g n) s = .next t ∧ GroupDone s t g { issueGroup s g with pc := (issueGroup s g).pc + 4 })

/-! ### Blocks, contexts and faults (R61-R68, R88-R92, R562) -/

/-- BLOCK_ADMISSION, SCRATCH_ZEROING_END, BLOCK_RELEASE and CONTEXT_COMPLETION (R61-R68, R92, R562): what was offered to a
cluster first, a PLACED offer or the block on offer of a STREAMED context, takes its slots; zeroed scratch reads 0 and the block's
groups may start; a finished block's slot is free and counts as retired; a context whose blocks have all retired, with no store
pending and no event of its partition open, succeeds. -/
def Obligations.BlockLifetime : Prop :=
  (∀ (s : State) (cl p : Nat) (o : Offer) (rest : List Offer) (c' : Cluster),
    partOf s cl = some p → (s.part p).st = .running → (s.part p).notes = [] → (s.cluster cl).offers = o :: rest →
    (∀ k, oldestStream s p = some k → o.order ≤ (s.ctx k).offered) →
    admitAll (s.cluster cl) o.ctx (s.ctx o.ctx) o.blocks = some c' →
    ∃ t, exec (.blockAdmission cl) s = .next t ∧ t.cluster cl = { c' with offers := rest } ∧
      (∀ k, k ≠ cl → t.cluster k = s.cluster k) ∧ t.mem.dram = s.mem.dram ∧ t.mem.lines = s.mem.lines ∧ t.parts = s.parts) ∧
  (∀ (s : State) (cl p k : Nat) (c' : Cluster),
    partOf s cl = some p → (s.part p).st = .running → (s.part p).notes = [] → oldestStream s p = some k →
    (∀ o ∈ (s.cluster cl).offers, (s.ctx k).offered < o.order) → admitBlock (s.cluster cl) k (s.ctx k) (s.ctx k).next = some c' →
    (∀ n < (s.part p).index cl, hasRoom s ((s.part p).nth n) k = false) →
    ∃ t, exec (.blockAdmission cl) s = .next t ∧ t.cluster cl = c' ∧ (t.ctx k).next = (s.ctx k).next + 1 ∧
      (t.ctx k).offered = s.offerNext ∧
      (∀ j, j ≠ cl → t.cluster j = s.cluster j)) ∧
  (∀ (s : State) (cl b : Nat), ((s.cluster cl).block b).used = true → ((s.cluster cl).block b).zeroing = true →
    let x := (s.cluster cl).block b
    (∀ e ∈ (s.cluster cl).blocks, e.2.used = true → e.2.zeroing = true → x.order ≤ e.2.order) →
    ∃ t, exec (.scratchZeroingEnd cl b) s = .next t ∧ (t.cluster cl).block b = { x with zeroing := false } ∧
      (∀ a, x.scrBase ≤ a → a < x.scrBase + x.scrSize → ByteMap.get (t.cluster cl).scratch a = 0) ∧
      (∀ a, a < x.scrBase ∨ x.scrBase + x.scrSize ≤ a → ByteMap.get (t.cluster cl).scratch a = ByteMap.get (s.cluster cl).scratch a) ∧
      (t.cluster cl).groups = (s.cluster cl).groups ∧ (t.ctx x.ctx).started.isSome = true) ∧
  (∀ (s : State) (cl b : Nat), ((s.cluster cl).block b).used = true → ((s.cluster cl).block b).zeroing = false →
    (∀ e ∈ blockGroups (s.cluster cl) b, e.2.ended = true) → blockBusy s cl b = false →
    let k := ((s.cluster cl).block b).ctx
    ∃ t, exec (.blockRelease cl b) s = .next t ∧ (t.cluster cl).block b = {} ∧ blockGroups (t.cluster cl) b = [] ∧
      (t.ctx k).retired = (s.ctx k).retired + 1 ∧ t.mem = s.mem) ∧
  (∀ (s : State) (p k : Nat),
    let x := s.ctx k
    let q := s.queue x.cmd.f x.cmd.q
    x.live = true → x.ended = false → x.part = p → x.retired = x.total → (s.part p).st = .running → s.eventOpen p = false →
    storesPending s p = false → (q.replying = true → q.replies = [] ∧ q.ringFull = false) →
    exec (.contextCompletion p k) s =
      .next (settleReplies (writeReply (finishCtx s k 0 0 (x.started.getD 0) s.time) x.cmd.f x.cmd.q)))

/-- What a group holds when its block starts (R65): its entry address, all lanes active, an empty stack, predicates all
ones, ARGS in s0 and s1, every other scalar register and every vector register 0. -/
def Obligations.GroupStartState : Prop :=
  ∀ (c c' : Cluster) (b gidx vregs entry args : Nat), placeGroup c b gidx vregs entry args = some c' → entry < 2 ^ 48 →
    ∃ slot < 4, ∃ gr, c'.group ((gidx + b) % 4) slot = gr ∧ (c.group ((gidx + b) % 4) slot).live = false ∧
      gr.live = true ∧ gr.bslot = b ∧ gr.gidx = gidx ∧ gr.pc.toNat = entry ∧ gr.active = 0xFF ∧ gr.stack = [] ∧
      gr.rpc = 0xFFFFFFFFFFFF#48 ∧ gr.flags = 0 ∧ gr.mxstat = 0 ∧ (∀ n, gr.p n = 0xFF) ∧
      gr.s 0 = BitVec.ofNat 32 args ∧ gr.s 1 = BitVec.ofNat 32 (args / 2 ^ 32 % 65536) ∧ (∀ n, 2 ≤ n → gr.s n = 0) ∧
      ∀ r < vregs, ∀ i < 8, NMap.get 0 c'.vrf (((gidx + b) % 4) * 1024 + gr.vbase + 8 * r + i) = 0

/-- FAULT_EVENT (R88, R90, R91, R358): of the faults noted in a partition the earliest goes into CMD_FAULT_REC, with its class,
VALID, MULTIPLE, group, cluster, context, pc, lanes, address and stamp; outside a FROZEN partition no context of it has its outcome
open afterwards, and its clusters hold no group and no block; in a FROZEN one nothing but the record changes. A fault that names no
context kills one of those that run: which one is free. -/
def Obligations.FaultEventEffect : Prop :=
  (∀ (s : State) (p : Nat) (n0 : FaultNote) (ns : List FaultNote), (s.part p).notes = n0 :: ns →
    let n := recorded n0 ns
    ∃ (t : State) (who : Option Nat), exec (.faultEvent p) s = .next t ∧
      (∀ k, n.ctx = some k → who = some k) ∧ (n.ctx = none → ∀ k, who = some k → k ∈ s.openCtxs p) ∧
      (t.part p).faultRec = faultWord n (!ns.isEmpty) (who.elim 0 fun k => (s.ctx k).id.toNat) ∧
      (t.part p).lastFault = n.time ∧ (t.part p).notes = [] ∧
      ((s.part p).st = .frozen → (t.part p).st = .frozen ∧ t.cl = s.cl ∧ t.ctxs = s.ctxs ∧ t.queues = s.queues) ∧
      ((s.part p).st ≠ .frozen →
        (∀ k, (t.ctx k).live = true → (t.ctx k).part = p → (t.ctx k).ended = true) ∧
        (∀ cl, (s.part p).hasCluster cl = true → (t.cluster cl).groups = [] ∧ (t.cluster cl).blocks = []))) ∧
  (∀ (n0 : FaultNote) (ns : List FaultNote), let n := recorded n0 ns
    n ∈ n0 :: ns ∧ ∀ x ∈ n0 :: ns, n.time.toNat ≤ x.time.toNat) ∧
  (∀ (n : FaultNote) (m : Bool) (id : Nat), n.cls < 32 → n.inGroup = true → n.core < 4 → n.slot < 4 → n.gidx < 16 → id < 65536 →
    n.cluster < 2 ^ 17 → n.addr < 2 ^ 48 →
    let w := (faultWord n m id).toNat
    w % 32 = n.cls ∧ w / 32 % 2 = 1 ∧ w / 64 % 2 = (if m then 1 else 0) ∧ w / 128 % 2 = 1 ∧ w / 256 % 4 = n.core ∧
    w / 1024 % 4 = n.slot ∧ w / 4096 % 16 = n.gidx ∧ w / 65536 % 65536 = id ∧ w / 2 ^ 32 % 2 ^ 17 = n.cluster ∧
    w / 2 ^ 64 % 2 ^ 48 = n.pc.toNat ∧ w / 2 ^ 112 % 256 = n.laneMask.toNat ∧ w / 2 ^ 192 = n.time.toNat ∧
    w / 2 ^ 128 % 2 ^ 48 = (if n.cls ∈ [2, 3, 4, 5, 7] then n.addr else 0))

/-! ### The matrix array at work (R139-R155, R228, R263) -/

/-- The `n` bytes of a panel, read in whole sectors, are of good parity (R132, R564). -/
def Sys2Proof.Claims.soundPanel (s : State) (cl a n : Nat) : Prop := ∀ i < round32 n, a + i ∉ (s.cluster cl).scratchBad

/-- The panels of an MXA.MMA and the codebook tables that its chain's formats name are of good parity (R503, R564). -/
def Sys2Proof.Claims.soundMma (s : State) (cl : Nat) (ch : Chain) (m : MmaRec) : Prop :=
  let ext := ch.ext.getD m.ext
  Claims.soundPanel s cl m.a (panelBytes ch.pack m.k ext).1 ∧ Claims.soundPanel s cl m.b (panelBytes ch.pack m.k ext).2 ∧
  (isCodebook (extFmtA ext) = true → cbTableBad (s.cluster cl) (extSlotA m.ext) (extTableA m.ext) (extFmtA ext == 0x0C) = false) ∧
  (isCodebook (extFmtB ext) = true → cbTableBad (s.cluster cl) (extSlotB m.ext) (extTableB m.ext) (extFmtB ext == 0x0C) = false)

/-- The chain's store waits for the host to answer a read (R34). -/
def Sys2Proof.Claims.awaits (s : State) (ch : Chain) : Prop := ∃ h ∈ s.hostReads, ch.merge = some h.id

/-- The eight steps of the array (R138-R145, R151-R155, R228, R263): the chain whose MXA.INIT came first becomes current; its
instructions are taken in order; a deferred chain is scanned before any pass; each pass adds its products and frees its panels; the
closed chain drains and is checked, a failed check being a fault of class 8; a checked one leaves through the store path or to its
reduction; and the oldest whose writes are performed completes with its MXSTAT bits ORed into its opener's. -/
def Obligations.ArraySteps : Prop :=
  (∀ (s : State) (cl key : Nat) (e : MxEntry) (es : List MxEntry) (bias : Nat) (f : BitVec 12) (id : Nat),
    (s.cluster cl).mx.current = none → (key, e :: es) ∈ (s.cluster cl).mx.queues → e.op = .init bias f id →
    (∀ q ∈ (s.cluster cl).mx.queues, ∀ x xs, q.2 = x :: xs → (∃ b g i, x.op = .init b g i) → x = e ∨ e.order < x.order) →
    exec (.chainBecomesCurrent cl) s = .next (setCurrent s cl (some { owner := e.owner }))) ∧
  (∀ (s : State) (cl : Nat) (ch : Chain) (e : MxEntry) (es : List MxEntry),
    let c := s.cluster cl
    let key := 4 * ch.owner.core + ch.owner.slot
    let took := s.setCluster cl { c with mx := { c.mx with queues := NMap.set [] c.mx.queues key es } }
    c.mx.current = some ch → NMap.get [] c.mx.queues key = e :: es → e.owner = ch.owner → takeReady ch = true →
    (∀ bias (f : BitVec 12) id, e.op = .init bias f id → ch.opened = false →
      let init := f.toNat / 1024
      let bf := f.toNat / 32 % 32
      Claims.soundPanel s cl bias (biasLen init bf) →
      let r := fetchPort took cl bias (biasLen init bf)
      (rbufAt c bias (round32 (biasLen init bf)) = false → r.2.1 = ByteMap.readNat c.scratch bias (biasLen init bf)) ∧
      exec (.arrayTakeInstruction cl) s = .next (releaseHeld (setCurrent r.1 cl (some { ch with
        opened := true, pack := f.toNat / 8 % 4, init := init, biasFmt := bf, bias := biasElems init bf r.2.1 })) cl id)) ∧
    (∀ a b k ext id, e.op = .mma a b k ext id →
      exec (.arrayTakeInstruction cl) s = .next (setCurrent took cl
        (some { ch with mmas := ch.mmas ++ [{ a := a, b := b, k := k, ext := ext, held := id, pc := e.pc, order := e.order }] }))) ∧
    ((∃ h i, e.op = .store h i) ∨ (∃ slot k, e.op = .redAcc slot k) →
      exec (.arrayTakeInstruction cl) s = .next (setCurrent took cl (some { ch with closing := some e.op, closePc := e.pc })))) ∧
  (∀ (s : State) (cl i : Nat) (ch : Chain) (m : MmaRec),
    (s.cluster cl).mx.current = some ch → ch.deferred = true → ch.mmas[i]? = some m → m.scanned = false →
    (∀ j < i, ∀ x, ch.mmas[j]? = some x → x.scanned = true) →
    cbAwaited (s.cluster cl) (ch.ext.getD m.ext) m.ext m.order = false → Claims.soundMma s cl ch m →
    let r := readPanels s cl ch m
    exec (.deferredScan cl) s = .next (setCurrent r.1 cl
      (some ((r.2.1.foldl scanStep ch).modMma i fun m => { m with scanned := true })))) ∧
  (∀ (s : State) (cl i : Nat) (ch : Chain) (m : MmaRec),
    let mx := (s.cluster cl).mx
    mx.current = some ch → ch.mmas[i]? = some m → m.multiplied = false →
    (∀ j < i, ∀ x, ch.mmas[j]? = some x → x.multiplied = true) →
    (ch.deferred = true → ch.closing.isSome = true ∧ ∀ x ∈ ch.mmas, x.scanned = true) →
    cbAwaited (s.cluster cl) (ch.ext.getD m.ext) m.ext m.order = false → halfHeld s cl = false → Claims.soundMma s cl ch m →
    (mx.dBad = true → m.k = 0) →
    let r := readPanels s cl ch m
    let done := r.2.1.foldl (stepInto (ch.ext.getD m.ext)) (startChain ch)
    let done := { done with acc := upsetAcc mx.badCells done.acc false, acc2 := upsetAcc mx.badCells done.acc2 true }
    exec (.multiplyPass cl) s = .next (releaseHeld (setCurrent
      (r.1.observe { ev := 0x03, part := some ch.owner.part, kind := 4, src := cl, count := m.k }) cl
      (some (done.modMma i fun m => { m with multiplied := true }))) cl m.held)) ∧
  (∀ (s : State) (cl : Nat) (ch : Chain), (s.cluster cl).mx.current = some ch → (s.cluster cl).mx.drain = none →
    ch.closing.isSome = true → (∀ m ∈ ch.mmas, m.multiplied = true) →
    ∃ t, exec (.drainMove cl) s = .next t ∧ (t.cluster cl).mx.current = none ∧ (t.cluster cl).mx.drain = some (startChain ch) ∧
      (∀ k, k ≠ cl → t.cluster k = s.cluster k) ∧ t.mem = s.mem) ∧
  (∀ (s : State) (cl : Nat) (ch : Chain), (s.cluster cl).mx.drain = some ch → ch.checked = false →
    (((∀ p < problems ch.pack, p ∉ ch.trunc → (checkProblem ch p).bad = false) → runsDiffer ch = [] →
      exec (.chainCheck cl) s = .next (setDrain s cl (some { ch with checked := true }))) ∧
    ((∃ p < problems ch.pack, p ∉ ch.trunc ∧ (checkProblem ch p).bad = true) ∨ runsDiffer ch ≠ [] →
      ∃ t n, exec (.chainCheck cl) s = .next t ∧ (t.cluster cl).mx.drain = none ∧ n.cls = 8 ∧ n.cluster = cl ∧ n.pc = ch.closePc ∧
        (t.part ch.owner.part).notes = (s.part ch.owner.part).notes ++ [n] ∧
        (t.cluster cl).evt.events = min 255 ((s.cluster cl).evt.events + 1)))) ∧
  (∀ (s : State) (cl slot cursor : Nat) (ch : Chain) (r : RedHandle), (s.cluster cl).mx.drain = some ch → ch.checked = true →
    ch.closing = some (.redAcc slot cursor) → (NMap.get {} (s.cluster cl).td slot).red = some r →
    (r.anchored = true ∨ ∀ p < problems ch.pack, ch.anchors.getD p 0 = r.anchor) →
    ∃ t, exec (.storePath cl) s = .next t ∧ (t.cluster cl).mx.drain = none ∧
      (t.cluster cl).mx.drained = (s.cluster cl).mx.drained ++ [ch] ∧
      (NMap.get {} (t.cluster cl).td slot).red = some (r.give s.fab.cycle (accWords r ch cursor)) ∧ t.mem = s.mem) ∧
  (∀ (s : State) (cl h idx : Nat) (ch : Chain), (s.cluster cl).mx.drain = some ch → ch.checked = true →
    ch.closing = some (.store h idx) →
    let d := tImg (NMap.get {} (s.cluster cl).td (h % 64)).image
    let w := chainWrites (s.cluster cl) d ch idx
    (d.fmt = 0x12 → ∀ p < problems ch.pack, ch.anchors.getD p 0 = d.anchorScale) → writesHeld s w.1 = false →
    let r := putAll s cl ch.owner.part w.1
    (r.bad = none → exec (.storePath cl) s = .next (drained r.s cl { ch with flags := w.2, merge := r.host })) ∧
    (∀ a, r.bad = some a → exec (.storePath cl) s = .next (chainFault (setDrain r.s cl none) cl ch 5 ch.closePc a))) ∧
  (∀ (s : State) (cl : Nat) (ch : Chain) (waiting rest : List Chain), (s.cluster cl).mx.drained = waiting ++ ch :: rest →
    (∀ x ∈ waiting, Claims.awaits s x) → ¬ Claims.awaits s ch →
    ∃ t, exec (.chainComplete cl) s = .next t ∧ (t.cluster cl).mx.drained = waiting ++ rest ∧
      (t.cluster cl).mx.incomplete = (s.cluster cl).mx.incomplete.erase ch.owner ∧
      (ownerHere (s.cluster cl) ch.owner = true → ((t.cluster cl).group ch.owner.core ch.owner.slot).mxstat =
        ((s.cluster cl).group ch.owner.core ch.owner.slot).mxstat ||| chainStat ch) ∧
      (ownerHere (s.cluster cl) ch.owner = false → (t.cluster cl).groups = (s.cluster cl).groups))

/-- The row checksums of R151 and R152 agree with the accumulators they guard: after any steps from a chain of one 8 x 8
problem that starts from zero, every column's sum of accumulators equals its checksum accumulator. -/
def Obligations.ColumnChecksumsAgree : Prop :=
  ∀ (ch : Chain) (ext : BitVec 32) (sts : List (List Elem × List Elem)) (j : Nat), j < 8 → ch.pack = 0 → ch.init = 0 →
    ch.started = false → ch.acc = [] → ch.cr = [] → ch.cc = [] → ch.cn = [] → ch.kind = .anchored → ch.ext = some ext →
    let done := sts.foldl (stepInto ext) (startChain ch)
    ((List.range 8).map fun i => (accGet done.acc (8 * i + j)).v).sum = (accGet done.cr j).v

/-! ### Reduction roots (R231-R235) -/

/-- FABRIC_ARRIVAL, ROOT_ADD and ROOT_OPERATION_COMPLETE (R231-R235): a sound word is queued for the root engine and a
word with the wrong element, count or number is a fault of class 0x0A; the engine takes fabric words first; when every
element is delivered the creator's MXSTAT takes the flags and the buffer is released. -/
def Obligations.RootSteps : Prop :=
  (∀ (s : State) (cl stream i : Nat) (w : BitVec 256) (rest : List (BitVec 256 × Bool)) (r : RedHandle),
    (NMap.get {} (s.cluster cl).streamOut stream).buf = (w, false) :: rest →
    (NMap.get {} (s.cluster cl).streamOut stream).bound = some i → (NMap.get {} (s.cluster cl).td i).red = some r → r.root = true →
    ((rwId w = r.redId ∧ rwElem w = (r.elemBase + r.arrivals) % r.words ∧ rwCount w = r.fabricContrib ∧ r.arrivals < r.words) →
      ∃ t, exec (.fabricArrival cl stream) s = .next t ∧ (NMap.get {} (t.cluster cl).streamOut stream).buf = rest ∧
        (NMap.get {} (t.cluster cl).td i).red = some { r with arrivals := r.arrivals + 1, fabricQ := r.fabricQ ++ [w] } ∧
        t.parts = s.parts) ∧
    (¬ (rwId w = r.redId ∧ rwElem w = (r.elemBase + r.arrivals) % r.words ∧ rwCount w = r.fabricContrib ∧ r.arrivals < r.words) →
      ∃ t n, exec (.fabricArrival cl stream) s = .next t ∧ n.cls = 0x0A ∧ n.cluster = cl ∧
        (t.part r.creator.part).notes = (s.part r.creator.part).notes ++ [n])) ∧
  (∀ (s : State) (cl slot : Nat) (r : RedHandle), (NMap.get {} (s.cluster cl).td slot).red = some r → r.root = true →
    r.opActive = true →
    let took := s.setCluster cl (setRed (s.cluster cl) slot r.takeWord)
    exec (.rootAdd cl slot) s = .next (deliverAll cl slot (List.range r.words) took) ∧
    ((∀ e < r.words, r.takeWord.complete e = false) → exec (.rootAdd cl slot) s = .next took)) ∧
  (∀ (r : RedHandle) (w : BitVec 256) (ws : List (BitVec 256)), r.fabricQ = w :: ws →
    r.takeWord.fabricQ = ws ∧ r.takeWord.localQ = r.localQ ∧
    NMap.get 0 r.takeWord.counts (rwElem w) = NMap.get 0 r.counts (rwElem w) + rwCount w) ∧
  (∀ (s : State) (cl slot : Nat) (r : RedHandle), (NMap.get {} (s.cluster cl).td slot).red = some r → r.root = true →
    r.opActive = true → (∀ e < r.words, NMap.get 0 r.delivered e = 1) → (∀ h ∈ s.hostReads, h.id ∉ r.merges) → (s.cluster cl).tdOps = [] →
    ownerHere (s.cluster cl) r.creator = true →
    ∃ t m, exec (.rootOperationComplete cl slot) s = .next t ∧
      ((t.cluster cl).group r.creator.core r.creator.slot).mxstat =
        ((s.cluster cl).group r.creator.core r.creator.slot).mxstat ||| m ∧
      m.getLsbD 1 = r.winLow ∧ m.getLsbD 2 = r.isOver ∧ (∀ i < 5, m.getLsbD (3 + i) = r.flags.getLsbD i) ∧
      (∀ h ∈ (t.cluster cl).mx.held, h.id ≠ 2 ^ 32 + slot) ∧
      (NMap.get {} (t.cluster cl).td slot).red = some { r with opActive := false, merges := [] })

/-! ### The mesh fabric (R188-R215, R239) -/

/-- The router of site `c` is in a folio in service and has not carried out the present fabric cycle, in which the fixed-line flit
`f` alone stands in it, in port `p`: no arbitrated flit enters, waits or leaves (R189, R197). -/
def Sys2Proof.Claims.standsAt (s : State) (c p : Nat) (f : Flit) : Prop :=
  siteValid c = true ∧ (s.folio (siteFolio c)).inService = true ∧ (s.router c).nextCycle ≤ s.fab.cycle ∧
  (s.router c).fl = [⟨p, s.fab.cycle, f⟩] ∧ (∀ x ∈ (s.router c).arbIn, s.fab.cycle < x.cycle) ∧ (s.router c).arb = [] ∧
  (s.router c).grants = [] ∧ (s.router c).leaving = []

/-- FIXED_LINE_SLOT, SCHEDULE_START, ARBITRATED_FLIT_ARRIVAL and PACKET_AGED (R189, R197, R201-R212): a router carries out the
present cycle: flits due leave, granted ones cross, the slot's entries send, what no entry takes is a stray, and outputs are
allocated; a covered flit stands at the far side of its output two cycles later; a stray is counted, and a fault of class 0x0A in
a region; a schedule runs from its c0; a head flit waits for the output R199 gives; a packet that waited 64 cycles since its RC is
aged. -/
def Obligations.FabricSteps : Prop :=
  (∀ (s s1 : State) (c cycle : Nat), s.toCycle cycle = some s1 → siteValid c = true → (s1.folio (siteFolio c)).inService = true →
    (s1.router c).nextCycle ≤ cycle → (∀ x ∈ (s1.router c).arbIn, cycle < x.cycle) →
    let s2 := crossAll (leaveAll (s1.setRouter c { s1.router c with nextCycle := cycle + 1 }) c cycle) c cycle
    exec (.fixedLineSlot c cycle) s =
      .next (allocate (dropStrays (slotEntries s2 c cycle).2 c cycle (slotEntries s2 c cycle).1) c cycle)) ∧
  (∀ (s : State) (c k p o n c0 period : Nat) (f : Flit) (w : BitVec 64), let cycle := s.fab.cycle
    Claims.standsAt s c p f → runningAt s c cycle = some (c0, period) → (s.router c).routes = [(k, w)] →
    (s.router c).routeBad = [] → (routeOf w).covers ((cycle - c0) % period) = true → (routeOf w).reduce = false →
    portsOf (routeOf w).inMask = [p] → portsOf (routeOf w).outMask = [o] → 1 ≤ o → o ≤ 5 →
    f.hdr.getLsbD 1 = true → flitOk f = true → fencedAt s c p f.hdr = false → edgeClosed s c o = false →
    neighbour c o = some n → n ≠ c →
    ∃ t, exec (.fixedLineSlot c cycle) s = .next t ∧
      (t.router n).fl = (s.router n).fl ++ [⟨farPort o, cycle + 2, f⟩] ∧ (t.router c).fl = [] ∧
      (t.router c).nextCycle = cycle + 1 ∧ t.parts = s.parts ∧ t.cl = s.cl ∧ t.mem.dram = s.mem.dram ∧ t.mem.lines = s.mem.lines) ∧
  (∀ (s : State) (c p : Nat) (f : Flit), let cycle := s.fab.cycle
    Claims.standsAt s c p f → runningAt s c cycle = none → fencedAt s c p f.hdr = false →
    ∃ t, exec (.fixedLineSlot c cycle) s = .next t ∧ (t.router c).fl = [] ∧
      (t.router c).collisions = satAdd (s.router c).collisions 1 0xFFFF ∧ (t.router c).log.getLsbD 0 = true ∧
      (sitePart s c = none → t.parts = s.parts) ∧
      ∀ q, sitePart s c = some q → ∃ x, x.cls = 0x0A ∧ x.time = s.time ∧ (t.part q).notes = (s.part q).notes ++ [x]) ∧
  (∀ (s s1 : State) (p cycle : Nat), (s.part p).schedArmed = true → ((s.part p).startTime s).toNat ≤ s.clk.master.toNat →
    (s.part p).schedTick.toNat ≤ s.clk.master.toNat → cycle = firstStart s (s.part p) → s.toCycle cycle = some s1 →
    ∃ t, exec (.scheduleStart p cycle) s = .next t ∧ cycle % 3 = 0 ∧ t.fab.cycle = cycle ∧
      t.part p = { s.part p with schedArmed := false, schedRunning := true, schedC0 := some cycle } ∧
      (∀ q, q ≠ p → t.part q = s.part q) ∧ t.fab.routers = s.fab.routers ∧ t.mem.dram = s.mem.dram ∧ t.cl = s.cl) ∧
  (∀ (s s1 : State) (c port : Nat) (f : Flit), siteValid c = true → (s.folio (siteFolio c)).inService = true →
    hasPort c port = true → f.hdr.getLsbD 0 = true → f.hdr.getLsbD 1 = false → takeArrival s c port f = some s1 →
    let consumed := (s.router c).nextCycle ≤ s.fab.cycle ∧ consumedAt s c s.fab.cycle port = true
    (¬ consumed → exec (.arbitratedFlitArrival c port f) s = .next (routeArb s1 c port f)) ∧
    (consumed → ∃ t, exec (.arbitratedFlitArrival c port f) s = .next t ∧
      (t.router c).fl = (s.router c).fl ++ [⟨port, s.fab.cycle, f⟩] ∧ (t.router c).arb = (s.router c).arb ∧
      t.mem = s.mem ∧ t.cl = s.cl ∧ t.parts = s.parts)) ∧
  (∀ (s s1 : State) (c port : Nat) (f : Flit), takeArrival s c port f = some s1 →
    let w := f.payload.toNat % 2 ^ 64
    let dest := w / 4 % 2 ^ 17
    let vc := f.hdr.toNat / 16 % 4
    let o := unicastOut c (flitSrc f.hdr) dest
    f.hdr.getLsbD 2 = true → flitOk f = true → hparOf f.hdr.toNat = f.hdr.toNat / 2 ^ 28 → w % 4 = 0 → siteValid dest = true →
    renameRoute s c w = w → fencedAt s c port f.hdr = false → edgeClosed s c o = false → (o = 5 → (s.router c).vBroken = false) →
    let t := routeArb s1 c port f
    (t.router c).arb = (s.router c).arb ++ [{ port := port, vc := vc, outs := [o], rc := s.fab.cycle, flit := f }] ∧
    NMap.get none (t.router c).open_ (4 * port + vc) = (if f.hdr.getLsbD 3 then none else some [o]) ∧
    (t.router c).fl = (s.router c).fl ∧ t.mem = s.mem ∧ t.parts = s.parts ∧ t.cl = s.cl) ∧
  (∀ (s : State) (c n : Nat) (a : ArbFlit), (s.router c).arb[n]? = some a → a.aged = false → a.rc + 64 ≤ s.fab.cycle →
    ∃ t, exec (.packetAged c n) s = .next t ∧
      (t.router c).arb = (s.router c).arb.map (fun x =>
        if x.key = a.key ∧ flitSrc x.flit.hdr = flitSrc a.flit.hdr then { x with aged := true } else x) ∧
      (∀ d, d ≠ c → t.router d = s.router d) ∧ t.cl = s.cl ∧ t.parts = s.parts)

/-- Steps between two sites of a folio: columns, rows, and the leaf. -/
def Sys2Proof.Claims.stepsTo (c d : Nat) : Nat :=
  Machine.dist (physOf (siteIdx c)).1 (physOf (siteIdx d)).1 + Machine.dist (physOf (siteIdx c)).2 (physOf (siteIdx d)).2 +
    (if siteLeaf c = siteLeaf d then 0 else 1)

/-- A unicast inside a folio comes one step nearer with every router (R199): the output leads to a site of the folio that
exists, one step nearer; only at its destination does the packet leave through LOC. -/
def Obligations.UnicastComesNearer : Prop :=
  ∀ c d src : Nat, siteValid c = true → siteValid d = true → siteFolio c = siteFolio d →
    (unicastOut c src d = 0 ↔ c = d) ∧
    (c ≠ d → ∃ n, neighbour c (unicastOut c src d) = some n ∧ siteValid n = true ∧ siteFolio n = siteFolio c ∧
      Claims.stepsTo n d + 1 = Claims.stepsTo c d)

/-- The in-flight addition of R239: the flit sent for a word of two inputs carries the sum of their words modulo 2^160, the number
of contributors of both, their identity and element, and POISON if either carried it. -/
def Obligations.ReduceCombines : Prop :=
  ∀ (c p q : Nat) (e : Route) (f g : Flit), e.reduce = true → c < 2 ^ 17 → rwId f.payload = rwId g.payload →
    rwElem f.payload = rwElem g.payload → flitOk f = true → flitOk g = true →
    ∃ h, combine c e [(p, f), (q, g)] = some (some h) ∧ h.payload = redAdd f.payload g.payload ∧
      h.hdr.getLsbD 7 = (f.hdr.getLsbD 7 || g.hdr.getLsbD 7) ∧ flitSrc h.hdr = c ∧ flitOk h = true ∧
      rwId h.payload = rwId f.payload ∧ rwElem h.payload = rwElem f.payload ∧
      rwCount h.payload = (rwCount f.payload + rwCount g.payload) % 2 ^ 17 ∧
      rwTag h.payload = tagSum (rwTag f.payload) (rwTag g.payload) ∧
      (rwV h.payload - (rwV f.payload + rwV g.payload)) % 2 ^ 160 = 0

/-! ### The spine (R275-R284, R292-R299, R505) -/

/-- SPINE_FRAME_START and SLICE_ADMISSION (R275, R277, R292, R294, R317, R461): a frame begins where the fabric can reach its first
cycle, advances the frame counter by one and gives every bucket its partition's RATE up to BURST; what a slice admits in a
cycle goes to the end of its queue in the order of the slot's owner first, then the long waiting, then the requester
index, at most 32 requests in a cycle, never more of a partition than its entry limit outside the 32 entries of the
reserve, and no request is lost; a channel of a stack admits in the same order into its 64 entries, none in a held cycle. -/
def Obligations.FramesAndAdmission : Prop :=
  (∀ (s s1 : State), s.up = true ∨ s.clk.pllLock = true → s.reach s.frameEnd (s.frameEnd + 1) = some s1 →
    NMap.wf {} s.spine.tokens = true → NMap.wf none s.spine.buckets = true →
    ∃ t, exec .spineFrameStart s = .next (pumpPorts t) ∧ t.spine.frame = s.spine.frame + 1 ∧ t.fab.cycle = s.frameEnd ∧
      (∀ p, (NMapTok t p).tokens = min (NMapTok s p).burst.toNat ((NMapTok s p).tokens + (NMapTok s p).rate.toNat) ∧
        (NMapTok t p).rate = (NMapTok s p).rate ∧ (NMapTok t p).burst = (NMapTok s p).burst) ∧
      (∀ req p, p < 64 → bucketOf t req p = min (NMapTok s p).burst.toNat (bucketOf s req p + (NMapTok s p).rate.toNat)) ∧
      t.spine.sliceQ = s.spine.sliceQ ∧ t.spine.slots = s.spine.slots ∧ t.mem.dram = s.mem.dram ∧ t.mem.lines = s.mem.lines ∧
      t.cl = s.cl) ∧
  (∀ (s s1 : State) (slice cycle : Nat) (arrived : List SliceReq),
    let q := s.sliceQ slice
    s.up = true → slice < 256 → (∀ r ∈ arrived, homeSlice s.mem (r.line * 128) = slice) →
    (if cycle = s.spineCycle then some s else s.toCycle (fabricCycleOf cycle)) = some s1 →
    q.cycle ≤ cycle → q.admitted ≤ 32 → q.queue.length ≤ 1024 →
    ∃ t new, exec (.sliceAdmission slice cycle arrived) s = .next t ∧
      let q' := t.sliceQ slice
      q'.queue = q.queue ++ new ∧ q'.cycle = cycle ∧ q'.admitted ≤ 32 ∧ q'.queue.length ≤ 1024 ∧
      new.Pairwise (fun a b => admitKey s cycle a.req ≤ admitKey s cycle b.req) ∧
      (∀ p, q'.heldBy p ≤ max (entryLimit s p) (q.heldBy p)) ∧ q'.reserved ≤ max 32 q.reserved ∧
      q'.queue.length + q'.waiting.length + q'.ports.length =
        q.queue.length + q.waiting.length + q.ports.length + arrived.length ∧
      t.spine.frame = s.spine.frame ∧ t.mem.dram = s.mem.dram ∧ t.mem.lines = s.mem.lines ∧ t.cl = s.cl) ∧
  (∀ (s s1 : State) (chan cycle : Nat) (arrived : List SliceReq),
    let q := s.chanQ chan
    s.up = true → chan < 256 → (∀ r ∈ arrived, rangeOf (r.line * 128) = .dram ∧ chanOf (r.line * 128) = chan) →
    (if cycle = s.spineCycle then some s else s.toCycle (fabricCycleOf cycle)) = some s1 →
    q.cycle ≤ cycle → q.queue.length ≤ 64 →
    ∃ t new, exec (.sliceAdmission (256 + chan) cycle arrived) s = .next t ∧
      let q' := t.chanQ chan
      q'.queue = q.queue ++ new ∧ q'.cycle = cycle ∧ q'.queue.length ≤ 64 ∧
      new.Pairwise (fun a b => admitKey s cycle a ≤ admitKey s cycle b) ∧
      (heldCycle s (5 + chan / 32) cycle = true → new = []) ∧
      q'.queue.length + q'.waiting.length = q.queue.length + q.waiting.length + arrived.length ∧
      t.spine.sliceQ = s.spine.sliceQ ∧ t.mem.dram = s.mem.dram ∧ t.mem.lines = s.mem.lines ∧ t.cl = s.cl)

/-- A line that its slice holds, with no transaction in progress on it and no tag or directory error anywhere, of a page
that is not raw in near-bank mode (R278, R281, R299, R326). -/
structure Sys2Proof.Claims.Settled (m : MemSys) (ln : Nat) : Prop where
  cached : cachedLine ln = true
  present : (m.lineAt ln).present = true
  free : m.lineBusy ln = false
  tags : ∀ k, (m.lineAt k).tagBad = false ∧ (m.lineAt k).dirBad = false
  normal : ∀ a, a / 128 = ln → isNbRaw m a = false

/-- A sector that its slice can serve as it stands: valid, not poisoned, of good parity (R268, R297, R298). -/
def Sys2Proof.Claims.sound (x : Sector) : Prop := x.valid = true ∧ x.poison = false ∧ x.parBad = false

/-- RD, OWN, EVC and WB (R279-R281): an RD of a line that no L1 owns returns its sectors and lists the cluster; one of a
line owned elsewhere sends RCL to the owner; an OWN of a line that no other L1 holds makes the cluster its owner with the
bytes it carried; one of a shared line sends INV to every other sharer; a clean line dropped leaves the list; a dirty
one written back leaves its bytes in the slice. -/
def Obligations.CoherenceRequests : Prop :=
  (∀ (s : State) (cl ln : Nat) (secs : BitVec 4), s.up = true → cl < 75000 → secs ≠ 0 → Claims.Settled s.mem ln →
    s.firstFor ln = none → cl ∉ s.mem.vertOut → (∀ o, (s.mem.lineAt ln).dir ≠ .own o) → (∀ i < 4, secs.getLsbD i = true → Claims.sound ((s.mem.lineAt ln).sec i)) →
    s.mem.l1Line cl ln = {} → ((s.mem.l1At cl).lines.filter fun e => e.1 % 16 = ln % 16).length < 4 →
    ∃ t, exec (.rd cl ln secs) s = .next t ∧
      (∀ i < 4, secs.getLsbD i = true → (t.mem.l1Line cl ln).sec i =
        { mask := BitVec.allOnes 32, dmask := 0, data := ((s.mem.lineAt ln).sec i).data }) ∧
      (t.mem.l1Line cl ln).present = true ∧ (t.mem.lineAt ln).dir = (s.mem.lineAt ln).dir.addSharer cl ∧
      t.mem.dram = s.mem.dram ∧ (∀ k, k ≠ cl → t.mem.l1At k = s.mem.l1At k) ∧ t.cl = s.cl) ∧
  (∀ (s : State) (cl o ln : Nat) (secs : BitVec 4), s.up = true → cl < 75000 → secs ≠ 0 → Claims.Settled s.mem ln → s.firstFor ln = none →
    (s.mem.lineAt ln).dir = .own o → o ≠ cl →
    ∃ t, exec (.rd cl ln secs) s = .next t ∧
      t.mem.txns = s.mem.txns ++ [{ line := ln, req := .rd cl secs, snoops := [{ cl := o, kind := .rcl }] }] ∧
      t.mem.l1 = s.mem.l1 ∧ t.mem.dram = s.mem.dram) ∧
  (∀ (s : State) (cl ln : Nat) (p : SecPart), s.up = true → cl < 75000 → Claims.Settled s.mem ln → s.firstFor ln = none → p.sec < 4 →
    s.mem.ropeHolds (ln * 128) = false → s.mem.rsv ln = false →
    ((s.mem.lineAt ln).dir = .unc ∨ (s.mem.lineAt ln).dir = .sh [cl]) → s.mem.l1Line cl ln = {} →
    ((s.mem.l1At cl).lines.filter fun e => e.1 % 16 = ln % 16).length < 4 →
    ∃ t, exec (.own cl ln [p]) s = .next t ∧ (t.mem.lineAt ln).dir = .own cl ∧
      (t.mem.l1Line cl ln).present = true ∧
      (t.mem.l1Line cl ln).sec p.sec = { mask := p.mask, dmask := p.mask, data := overlay p.mask 0 p.data } ∧
      t.mem.dram = s.mem.dram ∧ t.mem.txns = s.mem.txns ∧ ∀ k, k ≠ cl → t.mem.l1At k = s.mem.l1At k) ∧
  (∀ (s : State) (cl ln : Nat) (cs : List Nat) (ps : List SecPart), s.up = true → cl < 75000 → Claims.Settled s.mem ln → s.firstFor ln = none →
    (∀ p ∈ ps, p.sec < 4) → s.mem.ropeHolds (ln * 128) = false → s.mem.rsv ln = false → (s.mem.lineAt ln).dir = .sh cs →
    (cs.filter fun k => k ≠ cl) ≠ [] →
    ∃ t, exec (.own cl ln ps) s = .next t ∧
      t.mem.txns = s.mem.txns ++ [{
        line := ln, req := .own cl ps, snoops := (cs.filter fun k => k ≠ cl).map fun k => { cl := k, kind := .inv } }] ∧
      t.mem.l1 = s.mem.l1 ∧ t.mem.dram = s.mem.dram) ∧
  (∀ (s : State) (cl ln : Nat), s.up = true → (s.mem.l1Line cl ln).present = true → l1Carried (s.mem.l1Line cl ln) = [] →
    s.mem.lineBusy ln = false → s.firstFor ln = none →
    ∃ t, exec (.evc cl ln) s = .next t ∧ t.mem.l1Line cl ln = {} ∧
      (t.mem.lineAt ln).dir = (s.mem.lineAt ln).dir.evc cl ∧ t.mem.dram = s.mem.dram) ∧
  (∀ (s : State) (cl ln i : Nat) (d : BitVec 256) (bad : Bool), s.up = true → Claims.Settled s.mem ln → s.firstFor ln = none →
    (s.mem.l1Line cl ln).present = true → l1Carried (s.mem.l1Line cl ln) = [(⟨i, BitVec.allOnes 32, d⟩, bad)] →
    ∃ t, exec (.wb cl ln) s = .next t ∧ t.mem.l1Line cl ln = {} ∧ (NMap.get {} (t.mem.l1At cl).wbuf ln) = {} ∧
      (t.mem.lineAt ln).sec i = { valid := true, dirty := true, poison := bad || s.mem.vertIn.contains cl, data := d } ∧
      ((s.mem.lineAt ln).dir = .own cl → (t.mem.lineAt ln).dir = .unc) ∧ t.mem.dram = s.mem.dram)

/-- INV, RCL, RCLI and INVALIDATION_ACKNOWLEDGEMENT (R279, R281, R282): an invalidated L1 answers with its dirty sectors
and holds no copy; a recalled one answers with them and keeps a clean copy; with the last answer the transaction
ends and its request is performed. -/
def Obligations.CoherenceAnswers : Prop :=
  (∀ (s : State) (x : Txn) (cl : Nat) (k : SnoopKind), s.mem.txns = [x] → x.snoops = [{ cl := cl, kind := k }] →
    NMap.get {} (s.mem.l1At cl).wbuf x.line = {} →
    let i := match k with
      | .inv => exec (.inv cl x.line) s
      | .rcl => exec (.rcl cl x.line) s
      | .rcli => exec (.rcli cl x.line) s
    ∃ t, i = .next t ∧
      t.mem.txns = [{ x with snoops := [{
        cl := cl, kind := k, answered := true
        carried := if (s.mem.l1Line cl x.line).present then s.mem.carriedFrom cl (s.mem.l1Line cl x.line) else [] }] }] ∧
      (k ≠ .rcl → t.mem.l1Line cl x.line = {}) ∧
      (k = .rcl → (s.mem.l1Line cl x.line).present = true →
        (t.mem.l1Line cl x.line).present = true ∧ l1Carried (t.mem.l1Line cl x.line) = []) ∧
      t.mem.lines = s.mem.lines ∧ t.mem.dram = s.mem.dram ∧ ∀ j, j ≠ cl → t.mem.l1At j = s.mem.l1At j) ∧
  (∀ (s : State) (x : Txn) (n m : Snoop), s.mem.txns = [x] → x.snoops = [n, m] → n.cl ≠ m.cl → n.answered = true →
    n.carried = [] → (∀ ds, (s.mem.lineAt x.line).dir ≠ .shc ds) →
    exec (.invalidationAcknowledgement x.line n.cl) s =
      .next { s with mem := { s.mem with txns := [{ x with snoops := [m] }] } }) ∧
  (∀ (s : State) (ln cl : Nat) (n : Snoop) (p : SecPart),
    s.mem.txns = [{ line := ln, req := .own cl [p], snoops := [n] }] → n.answered = true → n.carried = [] → p.sec < 4 →
    (s.mem.lineAt ln).present = true → (∀ ds, (s.mem.lineAt ln).dir ≠ .shc ds) → isNbRaw s.mem (ln * 128) = false →
    s.firstFor ln = none → s.mem.l1Line cl ln = {} →
    ((s.mem.l1At cl).lines.filter fun e => e.1 % 16 = ln % 16).length < 4 →
    ∃ t, exec (.invalidationAcknowledgement ln n.cl) s = .next (pumpPorts t) ∧ t.mem.txns = [] ∧ (t.mem.lineAt ln).dir = .own cl ∧
      (t.mem.l1Line cl ln).sec p.sec = { mask := p.mask, dmask := p.mask, data := overlay p.mask 0 p.data } ∧
      t.mem.dram = s.mem.dram)

/-- A slice access of an agent that is no cluster may be served now (R280, R281, R407). -/
def Sys2Proof.Claims.outerAccess (s : State) (a n : Nat) (write : Bool) : Prop :=
  s.up = true ∧ 0 < n ∧ a % 32 + n ≤ 32 ∧ spanHeld s a n write = false ∧ s.firstFor (a / 128) = none ∧ Claims.Settled s.mem (a / 128) ∧
  Claims.sound ((s.mem.lineAt (a / 128)).sec (a % 128 / 32)) ∧ holders s.mem (a / 128) = [] ∧
  (s.mem.lineAt (a / 128)).dir = .unc

/-- SLICE_ATOMIC, UNCACHED_READ and UNCACHED_WRITE (R172, R176, R280, R284): the location takes the operation's new value,
or the bytes written, and an uncached read then returns them; every other sector of the slices, and stack DRAM, is as
before; an uncached read of a line owned by an L1 recalls its dirty sector into the slice. -/
def Obligations.OuterAgentAccess : Prop :=
  (∀ (s : State) (a : Nat) (op : SliceOp), let n := sliceOpWidth op
    a % n = 0 → Claims.outerAccess s a n true →
    let old := ((s.mem.lineAt (a / 128)).sec (a % 128 / 32)).data.toNat / 2 ^ (8 * (a % 32)) % 2 ^ (8 * n)
    ∃ t, exec (.sliceAtomic a op) s = .next t ∧ t.mem.dram = s.mem.dram ∧
      (∀ r ∈ t.mem.resvs, r.addr / 32 ≠ a / 32) ∧
      (uncachedRead t.mem t.time (t.ways 64) a n).2.1 = leBytes (sliceOpApply op old) n ∧
      (∀ k, k ≠ a / 128 → t.mem.lineAt k = s.mem.lineAt k) ∧
      ∀ i < 4, i ≠ a % 128 / 32 → (t.mem.lineAt (a / 128)).sec i = (s.mem.lineAt (a / 128)).sec i) ∧
  (∀ (s : State) (a : Nat) (bs : List Byte), Claims.outerAccess s a bs.length true →
    ∃ t, exec (.uncachedWrite a bs) s = .next t ∧ t.mem.dram = s.mem.dram ∧
      (∀ r ∈ t.mem.resvs, r.addr / 32 ≠ a / 32) ∧
      (uncachedRead t.mem t.time (t.ways 64) a bs.length).2.1 = bs ∧
      (∀ k, k ≠ a / 128 → t.mem.lineAt k = s.mem.lineAt k) ∧
      ∀ i < 4, i ≠ a % 128 / 32 → (t.mem.lineAt (a / 128)).sec i = (s.mem.lineAt (a / 128)).sec i) ∧
  (∀ (s : State) (a n o : Nat) (d : BitVec 256), s.up = true → 0 < n → a % 32 + n ≤ 32 → spanHeld s a n false = false →
    s.firstFor (a / 128) = none →
    Claims.Settled s.mem (a / 128) → (s.mem.lineAt (a / 128)).dir = .own o →
    NMap.get {} (s.mem.l1At o).wbuf (a / 128) = {} → (s.mem.l1Line o (a / 128)).present = true →
    l1Carried (s.mem.l1Line o (a / 128)) = [(⟨a % 128 / 32, BitVec.allOnes 32, d⟩, false)] →
    ∃ t, exec (.uncachedRead a n) s = .next t ∧ (t.mem.lineAt (a / 128)).dir = .sh [o] ∧
      (t.mem.lineAt (a / 128)).sec (a % 128 / 32) = { valid := true, dirty := true, poison := s.mem.vertIn.contains o, data := d } ∧ t.mem.dram = s.mem.dram)

/-- SLICE_SCRUB and DATA_LOST (R296-R299, R505): a scrub takes the slice's next four sets, and a dirty sector whose parity
failed is left poisoned; a report of lost data is taken up: CMD_EVENT tells of it and of the partitions it may concern,
a running one of them takes a fault of class 5, and the report is handled. -/
def Obligations.ScrubAndLostData : Prop :=
  (∀ (s : State) (slice : Nat), s.up = true → slice < 256 → s.mem.slcScrubEn = true →
    (∀ i < 4, linesOfSet s.mem slice (NMap.get 0 s.mem.scrubSet slice + i) = []) →
    exec (.sliceScrub slice) s = .next { s with mem := { s.mem with
      scrubSet := NMap.set 0 s.mem.scrubSet slice ((NMap.get 0 s.mem.scrubSet slice + 4) % 8192) } }) ∧
  (∀ (t : BitVec 64) (m : MemSys) (ln i : Nat) (x : Sector), i < 4 → (m.lineAt ln).present = true →
    (m.lineAt ln).tagBad = false → (m.lineAt ln).dirBad = false → (m.lineAt ln).sec i = x → x.valid = true →
    x.parBad = true → x.dirty = true → (∀ j < 4, j ≠ i → ((m.lineAt ln).sec j).valid = false) →
    ((scrubLine t m ln).lineAt ln).sec i = { x with poison := true, parBad := false } ∧ (scrubLine t m ln).dram = m.dram) ∧
  (∀ (s : State) (slice : Nat) (rest : List Nat), s.up = true → s.mem.lost = slice :: rest →
    let way := (NMap.get {} s.mem.slcErr slice).log.toNat / 16 % 16
    ∃ t, exec (.dataLost slice) s = .next t ∧ t.mem.lost = rest ∧ t.evt.dataLost = true ∧
      (∀ p < 64, t.evt.lostParts.getLsbD p = (s.evt.lostParts.getLsbD p ||
        ((NMap.get {} s.mem.partq p).allocMask ||| (NMap.get {} s.mem.partq p).anchorMask).getLsbD way)) ∧
      (∀ p < 64, (s.part p).st = .running →
        ((NMap.get {} s.mem.partq p).allocMask ||| (NMap.get {} s.mem.partq p).anchorMask).getLsbD way = true →
        ∃ n, n.cls = 5 ∧ (t.part p).notes = (s.part p).notes ++ [n]) ∧
      t.mem.dram = s.mem.dram ∧ t.mem.lines = s.mem.lines)

/-! ### Memory stacks and near-bank units (R306-R316, R320-R333) -/

/-- DRAM_SECTOR_READ, DRAM_SECTOR_WRITE, CORRECTED_WRITEBACK, CHANNEL_SCRUB, TEMPERATURE_READOUT and PER_BANK_REFRESH
(R308-R315): a protected sector is stored with its check code, complemented where it is poisoned; a raw one without; a
correction is counted and written back; a scrub passes the next four sectors; a readout sets the refresh band and the
throttle; a refresh changes nothing. -/
def Obligations.StackController : Prop :=
  (∀ (s : State) (a : Nat) (d : BitVec 256) (poison : Bool), s.up = true → rangeOf a = .dram →
    (∀ r ∈ (s.chanQ (chanOf a)).queue, r.line ≠ a / 128) →
    ∃ t, exec (.dramSectorWrite a d poison) s = .next t ∧ t.mem.dramSector a = d ∧
      (∀ b, b / 32 ≠ a / 32 → ByteMap.get t.mem.dram b = ByteMap.get s.mem.dram b) ∧
      (isRaw s.mem (a / 32 * 32) = false → t.mem.dramSectorEcc a = if poison then ~~~(checkCode d) else checkCode d) ∧
      (isRaw s.mem (a / 32 * 32) = true → t.mem.dramEcc = s.mem.dramEcc) ∧
      (∀ b, b / 32 ≠ a / 32 → t.mem.dramSectorEcc b = s.mem.dramSectorEcc b) ∧ t.mem.lines = s.mem.lines ∧ t.cl = s.cl) ∧
  (∀ (s : State) (a : Nat), s.up = true → rangeOf a = .dram → (∀ r ∈ (s.chanQ (chanOf a)).queue, r.line ≠ a / 128) →
    ∃ t, exec (.dramSectorRead a) s = .next t ∧ t.mem.dram = s.mem.dram ∧ t.mem.dramEcc = s.mem.dramEcc ∧
      t.mem.lines = s.mem.lines ∧ t.cl = s.cl ∧
      (isRaw s.mem (a / 32 * 32) = true → t.mem.mstErr = s.mem.mstErr ∧ t.mem.corrWb = s.mem.corrWb) ∧
      (isRaw s.mem (a / 32 * 32) = false → ∀ i e,
        eccDecode (s.mem.dramSector a) (s.mem.dramSectorEcc a) = .corrected i e →
        t.mem.corrWb = s.mem.corrWb ++ [a / 32 * 32] ∧
        (NMap.get {} t.mem.mstErr (chanOf (a / 32 * 32))).c0 =
          satAdd (NMap.get {} s.mem.mstErr (chanOf (a / 32 * 32))).c0 1 0xFFFF)) ∧
  (∀ (s : State) (chan a i e : Nat), s.up = true → s.mem.corrWb = [a] → a % 32 = 0 → chanOf a = chan →
    isRaw s.mem a = false → eccDecode (s.mem.dramSector a) (s.mem.dramSectorEcc a) = .corrected i e →
    ∃ t, exec (.correctedWriteback chan) s = .next t ∧ t.mem.corrWb = [] ∧
      t.mem.dramSectorEcc a = checkCode (t.mem.dramSector a) ∧
      t.mem.dramSector a =
        sectorOfSymbols (((symbolsOf (s.mem.dramSector a) (s.mem.dramSectorEcc a)).modify i (· ^^^ e)).take 32) ∧
      ∀ b, b / 32 ≠ a / 32 → ByteMap.get t.mem.dram b = ByteMap.get s.mem.dram b) ∧
  (∀ (s : State) (chan : Nat), s.up = true → chan < 256 → s.mem.mstScrubEn = true → s.mem.raws = [] →
    (∀ h ∈ s.holds, h.stk.getLsbD (chan / 32) = false) →
    let n := NMap.get 0 s.mem.scrubL chan
    let sector (k : Nat) : Nat := lineAddr chan ((n + k) % 2 ^ 26 / 4) + 32 * ((n + k) % 2 ^ 26 % 4)
    n < 2 ^ 26 → (∀ k < 4, eccDecode (s.mem.dramSector (sector k)) (s.mem.dramSectorEcc (sector k)) = .clean) →
    ∃ t, exec (.channelScrub chan) s = .next t ∧ NMap.get 0 t.mem.scrubL chan = (n + 4) % 2 ^ 26 ∧
      t.mem.dram = s.mem.dram ∧ t.mem.dramEcc = s.mem.dramEcc ∧ t.mem.mstErr = s.mem.mstErr) ∧
  (∀ (s : State) (k : Nat) (temp : Int), k < 8 → s.clk.pllLock = true → s.rst.pwrEn = true → -128 ≤ temp → temp < 110 →
    let x := NMap.get {} s.mem.stackSt k
    ∃ t, exec (.temperatureReadout k temp) s = .next t ∧
      (NMap.get {} t.mem.stackSt k).temp = BitVec.ofInt 8 temp ∧
      (100 < temp → (NMap.get {} t.mem.stackSt k).refBand = 2 ∧ (NMap.get {} t.mem.stackSt k).throttle = 2) ∧
      (95 < temp → temp ≤ 100 → x.over100 = false →
        (NMap.get {} t.mem.stackSt k).refBand = 2 ∧ (NMap.get {} t.mem.stackSt k).throttle = 1) ∧
      (85 < temp → temp ≤ 95 → x.over95 = false → x.over100 = false →
        (NMap.get {} t.mem.stackSt k).refBand = 1 ∧ (NMap.get {} t.mem.stackSt k).throttle = 0) ∧
      (temp ≤ 85 → x.over85 = false → x.over95 = false → x.over100 = false →
        (NMap.get {} t.mem.stackSt k).refBand = 0 ∧ (NMap.get {} t.mem.stackSt k).throttle = 0) ∧
      (t.sensor (468 + k)).reading = 4 * temp ∧ t.mem.dram = s.mem.dram ∧
      ∀ j, j ≠ k → NMap.get {} t.mem.stackSt j = NMap.get {} s.mem.stackSt j) ∧
  (∀ (s : State) (c b : Nat), exec (.perBankRefresh c b) s = .next s)

/-- The check code of R308-R310 as a code: a stored sector decodes clean, one with its check symbols complemented is the
poison marking, and one with any single symbol of its 36 changed is corrected in that symbol. -/
def Obligations.CheckCodeCorrectsOneSymbol : Prop :=
  (∀ d : BitVec 256, eccDecode d (checkCode d) = .clean ∧ eccDecode d (~~~(checkCode d)) = .poison) ∧
  (∀ (d d' : BitVec 256) (ecc : BitVec 32) (i e : Nat), i < 36 → 0 < e → e < 256 →
    symbolsOf d' ecc = (symbolsOf d (checkCode d)).modify i (· ^^^ e) →
    eccDecode d' ecc = .corrected i e ∧ ((symbolsOf d' ecc).modify i (· ^^^ e)).take 32 = (symbolsOf d (checkCode d)).take 32)

/-- NBU_MODE_ENTER, NBU_MODE_EXIT, NBU_DOORBELL and NEAR_BANK_COMMAND_COMPLETE (R323-R325, R330, R331, R333): ENTER = 1 of the first
partition to write it makes it the owner and starts an entry, whose outcome is a refusal with its reason or the mode in force
with the channel's raw lines out of the slices; ENTER = 0 starts the exit, which ends when no command is queued; another
partition's writes are counted and change nothing else; a doorbell of the owner queues the slot's command with its
status; completion gives the slot its status and counts. -/
def Obligations.NearBankMode : Prop :=
  (∀ (s : State) (c p : Nat) (v : BitVec 4), let n := s.mem.nbuAt c
    n.foreignTo p = false → n.nb = false → n.busy = false →
    exec (.nbuModeEnter c p v) s = .next { s with mem := s.mem.setNbu c {
      n with enter := true, version := v, foreign := 0, dbDrops := 0, refusal := 0, busy := true
             owner := BitVec.ofNat 6 p, ownerValid := true } }) ∧
  (∀ (s : State) (c p size : Nat) (v : BitVec 4) (w : BitVec 64), let n := s.mem.nbuAt c
    let counted (r : BitVec 3) : State := { s with mem := s.mem.setNbu c { n with foreign := min 0xFFFF (n.foreign + 1), refusal := r } }
    n.ownerValid = true → n.owner.toNat ≠ p →
    exec (.nbuModeEnter c p v) s = .next (counted 2) ∧ exec (.nbuModeExit c p) s = .next (counted n.refusal) ∧
    exec (.nbuDoorbell c p size w) s = .next (counted n.refusal)) ∧
  (∀ (time : BitVec 64) (m : MemSys) (c : Nat), let n := m.nbuAt c
    n.busy = true → n.nb = false →
    let m' := nbNext time m c
    let out (r : BitVec 3) : MemSys := m.setNbu c { n with nb := false, busy := false, ownerValid := false, refusal := r }
    let anchored := ∃ ln ∈ rawLinesOf m c, (m.lineAt ln).anchored ≠ none
    (n.version ≠ 1 → m' = out 1) ∧ (n.version = 1 → rawChanging m c = true → m' = out 4) ∧
    (n.version = 1 → rawChanging m c = false → anchored → m' = out 3) ∧
    (n.version = 1 → rawChanging m c = false → ¬anchored → n.enter = true →
      (∀ ln ∈ rawLinesOf m c, m.lineBusy ln = false) →
      m'.nbuAt c = { n with nb := true, busy := false, done := 0 } ∧ (∀ d, d ≠ c → m'.nbuAt d = m.nbuAt d) ∧
      ∀ ln ∈ rawLinesOf m c, (m'.lineAt ln).present = false)) ∧
  (∀ (s : State) (c p : Nat), let n := s.mem.nbuAt c
    n.nb = true → n.foreignTo p = false →
    exec (.nbuModeExit c p) s = .next { s with mem := s.mem.setNbu c { n with enter := false, busy := true } }) ∧
  (∀ (time : BitVec 64) (m : MemSys) (c : Nat), let n := m.nbuAt c
    n.busy = true → n.nb = true → nbNext time m c =
      if n.queue = [] then m.setNbu c { n with nb := false, busy := false, ownerValid := false } else m) ∧
  (∀ (s : State) (c p sl : Nat), let n := s.mem.nbuAt c
    n.nb = true → n.enter = true → n.busy = false → n.ownerValid = true → n.owner.toNat = p → sl < 16 →
    (NMap.get {} n.slotStat sl).busy = false →
    ∃ t cmd, exec (.nbuDoorbell c p 8 (BitVec.ofNat 64 sl)) s = .next t ∧ (t.mem.nbuAt c).queue = n.queue ++ [cmd] ∧
      cmd.slot = sl ∧ cmd.words = ByteMap.read n.slots (64 * sl) 64 ∧ cmd.finished = false ∧
      cmd.status = BitVec.ofNat 8 (nbValidate s.mem (s.part p).allocs c (nbFields cmd.words)) ∧
      (NMap.get {} (t.mem.nbuAt c).slotStat sl).busy = true ∧ (NMap.get {} (t.mem.nbuAt c).slotStat sl).done = false ∧
      (t.mem.nbuAt c).dbDrops = n.dbDrops ∧ t.mem.dram = s.mem.dram) ∧
  (∀ (s : State) (c : Nat) (cmd : NbCmd) (rest : List NbCmd), let n := s.mem.nbuAt c
    n.queue = cmd :: rest → cmd.finished = true ∨ cmd.status ≠ 0 →
    ∃ t, exec (.nearBankCommandComplete c) s = .next t ∧
      t.mem.nbuAt c = { n with
        queue := rest, done := n.done + 1
        slotStat := NMap.set {} n.slotStat cmd.slot {
          status := cmd.status, done := true, rowsDone := BitVec.ofNat 32 cmd.at_
          tag := BitVec.ofNat 64 (nbFields cmd.words).tag, busy := false } } ∧ t.mem.dram = s.mem.dram)

/-- What a command wrote: its result buffer's bytes or the bank's (R327, R328). -/
def Sys2Proof.Claims.nbOut (m : MemSys) (c : Nat) (f : NbFields) (a k : Nat) : Nat :=
  if f.toResult then ByteMap.readNat (m.nbuAt c).result a k else nbGet m a k

/-- A source range of a command with its result in the bank lies apart from it (R330); a result in the result buffer
overlaps none. -/
def Sys2Proof.Claims.nbApart (f : NbFields) (a n : Nat) : Prop :=
  f.toResult = true ∨ a + n ≤ f.destRange.1 ∨ f.destRange.1 + f.destRange.2 ≤ a

/-- A command of the opcode that stands at the front of a channel in near-bank mode, valid and not yet run. -/
def Sys2Proof.Claims.nbFront (s : State) (c opc : Nat) (cmd : NbCmd) (rest : List NbCmd) : Prop :=
  (s.mem.nbuAt c).nb = true ∧ (s.mem.nbuAt c).queue = cmd :: rest ∧ cmd.finished = false ∧ cmd.status = 0 ∧
  (nbFields cmd.words).opc = opc ∧ (nbFields cmd.words).bad = false

/-- The command has run over all of `rows`; bytes of the bank outside its destination, the slices and all else are as
before. -/
def Sys2Proof.Claims.nbRan (s t : State) (c : Nat) (cmd : NbCmd) (rest : List NbCmd) (rows : Nat) : Prop :=
  let f := nbFields cmd.words
  (t.mem.nbuAt c).queue = { cmd with finished := true, at_ := rows, status := 0 } :: rest ∧
  (∀ a, (f.toResult = true ∧ f.opc ≠ 3) ∨ a < f.destRange.1 ∨ f.destRange.1 + f.destRange.2 ≤ a →
    ByteMap.get t.mem.dram a = ByteMap.get s.mem.dram a) ∧
  t.mem.lines = s.mem.lines ∧ t.cl = s.cl ∧ ∀ d, d ≠ c → t.mem.nbuAt d = s.mem.nbuAt d

/-- Whether element `a` of a table stands before element `b` in TOPK (R329): the larger first, the lower index among
equals. -/
def Sys2Proof.Claims.nbBefore (s : State) (f : NbFields) (a b : Nat) : Prop :=
  let v (i : Nat) : Nat := nbGet s.mem (f.table + i * f.es) f.es
  if a < b then nbRanks f (v a) (v b) = true else nbRanks f (v b) (v a) = false

/-- NBU_NOP, GATHER, GATHER_SUM, SCATTER_ADD, SELECT, TOPK, EWISE and NBU_FILL (R327-R331): what each writes for every
element, in the bank or in the result buffer, and nothing else. -/
def Obligations.NearBankCommands : Prop :=
  ∀ (s : State) (c : Nat) (cmd : NbCmd) (rest : List NbCmd),
    let f := nbFields cmd.words
    let al := (s.part (s.mem.nbuAt c).owner.toNat).allocs
    let index (i : Nat) : Nat := nbGet s.mem (f.index + 4 * i) 4
    (Claims.nbFront s c 0x00 cmd rest →
      ∃ t, exec (.nbuNop c) s = .next t ∧ Claims.nbRan s t c cmd rest 0) ∧
    (Claims.nbFront s c 0x01 cmd rest → (∀ i < f.count, nbIndexStatus s.mem al c f (index i) = 0) → Claims.nbApart f f.table (f.rows * f.rowBytes) →
      ∃ t, exec (.gather c) s = .next t ∧ Claims.nbRan s t c cmd rest f.count ∧
        ∀ i < f.count, ∀ j < f.rowBytes,
          Claims.nbOut t.mem c f (f.dest + i * f.rowBytes + j) 1 = nbGet s.mem (f.table + index i * f.rowBytes + j) 1) ∧
    (Claims.nbFront s c 0x02 cmd rest → (∀ i < f.count, nbIndexStatus s.mem al c f (index i) = 0) →
      ∃ t, exec (.gatherSum c) s = .next t ∧ Claims.nbRan s t c cmd rest f.count ∧
        (f.fmt = 0x02 → ∀ e < f.rowBytes, Claims.nbOut t.mem c f (f.dest + 4 * e) 4 =
          wrapInt (((List.range f.count).map fun i => sextInt (nbGet s.mem (f.table + index i * f.rowBytes + e) 1) 8).sum) 32) ∧
        (f.fmt ≠ 0x02 → ∀ e < f.rowBytes / f.es, Claims.nbOut t.mem c f (f.dest + e * f.os) f.os =
          ((nbSpec f.ofmt).round .rne (specFp32.decode (nbSumElem s.mem al c f e f.count 0 0).1)).1 % 2 ^ (8 * f.os))) ∧
    (Claims.nbFront s c 0x03 cmd rest → (∀ i < f.count, nbIndexStatus s.mem al c f (index i) = 0) →
      (f.index + 4 * f.count ≤ f.table ∨ f.table + f.rows * f.rowBytes ≤ f.index) →
      (f.weights + f.count * f.rowBytes ≤ f.table ∨ f.table + f.rows * f.rowBytes ≤ f.weights) →
      ∃ t, exec (.scatterAdd c) s = .next t ∧ Claims.nbRan s t c cmd rest f.count ∧
        ∀ r < f.rows, ∀ e < f.rowBytes / f.es, nbGet t.mem (f.table + r * f.rowBytes + e * f.es) f.es =
          ((List.range f.count).filter fun i => index i = r).foldl (fun x i =>
            nbEwise { f with param := 0 } x (nbGet s.mem (f.weights + i * f.rowBytes + e * f.es) f.es))
            (nbGet s.mem (f.table + r * f.rowBytes + e * f.es) f.es)) ∧
    (Claims.nbFront s c 0x04 cmd rest →
      ∃ t, exec (.select c) s = .next t ∧ Claims.nbRan s t c cmd rest f.count ∧
        ∀ e < f.count, Claims.nbOut t.mem c f (f.dest + e * f.es) f.es =
          if nbSelect f (nbGet s.mem (f.table + e * f.es) f.es) then nbGet s.mem (f.table + e * f.es) f.es
          else nbGet s.mem (f.index + e * f.es) f.es) ∧
    (Claims.nbFront s c 0x05 cmd rest → f.k ≤ f.count →
      ∃ t, exec (.topk c) s = .next t ∧ Claims.nbRan s t c cmd rest f.count ∧
        let pick (j : Nat) : Nat := Claims.nbOut t.mem c f (f.dest + 4 * j) 4
        (∀ j < f.k, pick j < f.count ∧
          Claims.nbOut t.mem c f (f.dest + 4 * f.k + j * f.es) f.es = nbGet s.mem (f.table + pick j * f.es) f.es) ∧
        (∀ j < f.k, ∀ j' < j, pick j' ≠ pick j ∧ Claims.nbBefore s f (pick j') (pick j)) ∧
        ∀ i < f.count, (∀ j < f.k, pick j ≠ i) → ∀ j < f.k, Claims.nbBefore s f (pick j) i) ∧
    (Claims.nbFront s c 0x06 cmd rest →
      ∃ t, exec (.ewise c) s = .next t ∧ Claims.nbRan s t c cmd rest f.count ∧
        ∀ e < f.count, Claims.nbOut t.mem c f (f.dest + e * f.es) f.es =
          nbEwise f (nbGet s.mem (f.table + e * f.es) f.es) (nbGet s.mem (f.index + e * f.es) f.es)) ∧
    (Claims.nbFront s c 0x07 cmd rest →
      ∃ t, exec (.nbuFill c) s = .next t ∧ Claims.nbRan s t c cmd rest f.count ∧
        ∀ e < f.count, Claims.nbOut t.mem c f (f.dest + e * f.es) f.es = nbScalar f)

/-! ### The host port (R174, R182, R334-R339, R519, R520, R554-R558, R563) -/

/-- The block serves its BARs (R486). -/
def Sys2Proof.Claims.serving (s : State) (f : Nat) : Prop := s.rst.vddAux = true ∧ s.up = true ∧ s.fnOff f = false

/-- A BAR0 access of a function to a register it may see, in a running domain (R432, R554, R557). -/
def Sys2Proof.Claims.bar0 (s : State) (f off size : Nat) (r : Reg) (w : Nat) : Prop :=
  Claims.serving s f ∧ f ≤ 64 ∧ bar0Ok off size = true ∧ regAt s off = some (r, w) ∧ regSeen s f r = true ∧ regStopped s r = false

/-- CAPTURING_READ, LIVE_BITS_READ, OBS_PEEK_DATA_READ, REGISTER_WRITE and BAR0_ACCESS_UNSUPPORTED (R10, R12, R336, R337, R499,
R500, R504, R519, R520, R554, R557): a read of the low word of a wide register answers with it, captures the rest and clears the RC
fields; the rest is then read as captured; a live read answers with the bits as they stand; a peek changes nothing; a backup
register holds what was written; a write of ones clears W1C bits; what a virtual function may not see reads 0; an access of another
size, or where BARs are not served, is refused and counted; BAR2 reads 0; the vendor-specific capability of the configuration space
reads as R500 lays it out. -/
def Obligations.RegisterAccess : Prop :=
  (∀ (s : State) (f off size : Nat) (r : Reg), Claims.bar0 s f off size r 0 → off % 8 = 0 → 1 < (regWords s r).length →
    (∀ w, r ≠ .retained w) →
    ∃ t, exec (.capturingRead f off size) s = .next t ∧
      t.out = s.out ++ [.completion f (.data (leBytes ((regWords s r).getD 0 0).toNat size))] ∧
      (∀ w, captured t f r w = some ((regWords s r).getD w 0)) ∧
      t.mem.dram = s.mem.dram ∧ t.mem.lines = s.mem.lines ∧ t.parts = s.parts ∧ t.queues = s.queues) ∧
  (∀ (s : State) (f off size w : Nat) (r : Reg) (x : BitVec 64), Claims.bar0 s f off size r w → 0 < w →
    1 < (regWords s r).length → captured s f r w = some x → (∀ i, r ≠ .peek i) → (∀ k, r ≠ .retained k) →
    ∃ t, exec (.liveBitsRead f off size) s = .next t ∧
      t = { s with out := s.out ++ [.completion f (.data (leBytes (x.toNat / 2 ^ (8 * (off % 8))) size))] }) ∧
  (∀ (s : State) (f off size : Nat) (r : Reg), Claims.bar0 s f off size r 0 → (regWords s r).length = 1 → rcFields r = [] →
    (∀ k, r ≠ .retained k) →
    exec (.liveBitsRead f off size) s = .next { s with
      freeCtr := s.freeCtr + 1
      out := s.out ++ [.completion f (.data (leBytes (((regWords s r).getD 0 0).toNat / 2 ^ (8 * (off % 8))) size))] }) ∧
  (∀ (s : State) (port : Nat), Claims.serving s 0 → port < 4 →
    exec (.obsPeekDataRead 0 port 8 0) s = .next { s with
      freeCtr := s.freeCtr + 1
      out := s.out ++ [.completion 0 (.data (leBytes (peekWord s (NMap.get 0 s.mem.obs.peek port).toNat).toNat 8))] }) ∧
  (∀ (s : State) (n : Nat) (v : BitVec 64), Claims.serving s 0 → n < 16 → regStopped s (.backup n) = false →
    ∃ t, exec (.registerWrite 0 (0x40100 + 8 * n) 8 v) s = .next t ∧ NMap.get 0 t.rst.backup n = v ∧
      (∀ k, k ≠ n → NMap.get 0 t.rst.backup k = NMap.get 0 s.rst.backup k) ∧
      t = { s with rst := { s.rst with backup := NMap.set 0 s.rst.backup n v } }) ∧
  (∀ (s : State) (v : BitVec 64), Claims.serving s 0 → regStopped s .event = false →
    exec (.registerWrite 0 0x20208 8 v) s = .next { s with evt := { s.evt with lostParts := s.evt.lostParts &&& ~~~v } }) ∧
  (∀ (s : State) (f off size w : Nat) (r : Reg), Claims.serving s f → 1 ≤ f → f ≤ 64 → bar0Ok off size = true →
    regAt s off = some (r, w) → vfSees s f r = false →
    (∀ v, exec (.registerWrite f off size v) s = .next s) ∧
    exec (.liveBitsRead f off size) s = .next { s with out := s.out ++ [.completion f (.data (List.replicate size 0))] }) ∧
  (∀ (s : State) (f off size : Nat) (kind : BarAccess), Claims.serving s f → f ≤ 64 →
    let refused (posted : Bool) : State := { s with
      host := { s.host with
        urSent := min 0xFFFF (s.host.urSent + 1), cfg := NMap.set {} s.host.cfg f { s.pcie f with aerUr := true } }
      out := s.out ++ (if posted then [] else [.completion f .ur]) }
    exec (.bar0AccessUnsupported f off size ⟨.atomic, 0⟩) s = .next (refused false) ∧
    (bar0Ok off size = false → kind = .read ∨ kind = .write →
      exec (.bar0AccessUnsupported f off size ⟨kind, 0⟩) s = .next (refused (kind = .write))) ∧
    exec (.bar0AccessUnsupported f off size ⟨.atomic, 2⟩) s = .next (refused false) ∧
    exec (.bar0AccessUnsupported f off size ⟨.read, 2⟩) s =
      .next { s with out := s.out ++ [.completion f (.data (List.replicate size 0))] } ∧
    exec (.bar0AccessUnsupported f off size ⟨.write, 2⟩) s = .next s) ∧
  (∀ (s : State) (k bar : Nat), Claims.serving s 0 → k < 2 →
    exec (.bar0AccessUnsupported 0 (8 + 4 * k) 4 ⟨.vsecRead, bar⟩) s = .next { s with
      out := s.out ++ [.completion 0 (.data (leBytes ((rstStatus s.rst).toNat / 2 ^ (32 * k)) 4))] })

/-- The access that reaches the host port alone, with the tokens it needs, is served at once (R182, R292). -/
def Sys2Proof.Claims.bar4Free (s : State) (f : Nat) : Prop :=
  Claims.serving s f ∧ f ≤ 64 ∧ s.host.bar4 = [] ∧ hasTokens s hostRequester (partOpt (bar4Part f)) 1 = true

/-- BAR4_READ, BAR4_WRITE, BAR4_ATOMICOP and POISONED_WRITE_TLP (R174, R182, R280, R336, R556): the bytes at the device
address of the offset are read, written, or replaced by the operation's new value with the old one returned; a read behind
an access that may not go yet waits for it; a write with EP set is dropped and counted. -/
def Obligations.HostMemoryAccess : Prop :=
  (∀ (s : State) (f off n a : Nat), Claims.bar4Free s f → bar4Addr s f off n = some a → Claims.outerAccess s a n false →
    ∃ t, exec (.bar4Read f off n) s = .next t ∧ t.mem.dram = s.mem.dram ∧ (∀ k, t.mem.lineAt k = s.mem.lineAt k ∨ k = a / 128) ∧
      t.out = s.out ++ [.completion f (.data
        (leBytes (((s.mem.lineAt (a / 128)).sec (a % 128 / 32)).data.toNat / 2 ^ (8 * (a % 32))) n))]) ∧
  (∀ (s : State) (f off a : Nat) (bs : List Byte), Claims.bar4Free s f → bar4Addr s f off bs.length = some a →
    Claims.outerAccess s a bs.length true →
    ∃ t, exec (.bar4Write f off bs) s = .next t ∧ (uncachedRead t.mem t.time (t.ways 64) a bs.length).2.1 = bs ∧
      (∀ r ∈ t.mem.resvs, r.addr / 32 ≠ a / 32) ∧ t.mem.dram = s.mem.dram ∧ t.out = s.out ∧
      (∀ k, k ≠ a / 128 → t.mem.lineAt k = s.mem.lineAt k)) ∧
  (∀ (s : State) (f off a size : Nat) (op : PcieAtomic) (x y : BitVec 64) (sop : SliceOp), Claims.bar4Free s f →
    pcieSliceOp op size x y = some sop → off % size = 0 → a % size = 0 → bar4Addr s f off size = some a →
    Claims.outerAccess s a size true →
    let old := ((s.mem.lineAt (a / 128)).sec (a % 128 / 32)).data.toNat / 2 ^ (8 * (a % 32)) % 2 ^ (8 * size)
    ∃ t, exec (.bar4Atomicop f off op size x y) s = .next t ∧
      t.out = s.out ++ [.completion f (.data (leBytes old size))] ∧
      (uncachedRead t.mem t.time (t.ways 64) a size).2.1 = leBytes (sliceOpApply sop old) size ∧
      ∀ r ∈ t.mem.resvs, r.addr / 32 ≠ a / 32) ∧
  (∀ (s : State) (f off n a : Nat) (x : Bar4Req) (xs : List Bar4Req), Claims.serving s f → f ≤ 64 → bar4Addr s f off n = some a →
    s.host.bar4 = x :: xs → bar4MayGo s x = false →
    ∃ t, exec (.bar4Read f off n) s = .next t ∧ t.host.bar4 = s.host.bar4 ++ [⟨f, a, .read n⟩] ∧ t.out = s.out ∧ t.mem = s.mem) ∧
  (∀ (s : State) (f bar : Nat), Claims.serving s f → f ≤ 64 → (bar = 0 ∨ bar = 2 ∨ bar = 4) →
    exec (.poisonedWriteTlp f bar) s = .next { s with host := { s.host with epReceived := satAdd s.host.epReceived 1 0xFFFF } })

/-- FUNCTION_LEVEL_RESET and HOT_RESET (R338, R339, R353, R355): a function's reset closes its queues with no further reply, gives its
configuration space its reset values and turns its BARs off; at its end its queue configuration is clear, the function
is on again, and its partition has no context left where no outcome has to be written; after a hot reset every function's
configuration space is as at reset, no queue is open, no reply waits and no context runs. -/
def Obligations.HostResets : Prop :=
  (∀ (s : State) (v : Nat), s.up = true → 1 ≤ v → v ≤ 64 →
    ∃ t, exec (.functionLevelReset v) s = .next t ∧ t.fnOff v = true ∧ t.pcie v = { msix := (s.pcie v).msix } ∧
      (∀ q < 16, (s.queue v q).state ≠ 0 → (t.queue v q).replies = [] ∧ (t.queue v q).enable = false ∧
        ((∀ c ∈ (s.queue v q).cmds, c.started = false) → (t.queue v q).state = 0)) ∧
      NMap.get none t.host.captures v = none ∧ t.mem = s.mem ∧ t.parts = s.parts ∧ t.ctxs = s.ctxs) ∧
  (∀ (s : State) (v : Nat), 1 ≤ v → v ≤ 64 →
    let t := flrEnd s v
    (∀ q < 16, t.queue v q = {}) ∧ t.pcie v = {} ∧ v ∉ t.host.flr ∧ t.mem.dram = s.mem.dram ∧
    ((∀ e ∈ s.queues, e.2.replies = []) → (∀ r ∈ partCmds s (v - 1) none, (s.queue r.f r.q).replying = false) →
      (∀ k, (t.ctx k).live = true → (t.ctx k).part ≠ v - 1) ∧
      ((s.part (v - 1)).st ≠ .absent →
        (t.part (v - 1)).st = .idle ∧ (t.part (v - 1)).notes = []))) ∧
  (∀ (s : State), s.up = true → (∀ e ∈ s.ctxs, e.2.live = true → e.2.part < 64) →
    (∀ e ∈ s.queues, e.2.state = 0 → e.2.replies = []) →
    ∃ t, exec .hotReset s = .next t ∧ (∀ e ∈ t.queues, e.2.state ≠ 1 ∧ e.2.state ≠ 2 ∧ e.2.replies = []) ∧
      (∀ f, t.pcie f = {}) ∧ (∀ p, t.runningCtxs p = []) ∧ t.mem.dram = s.mem.dram)

/-- HOST_WINDOW_COMPLETION and COMPLETION_TIMEOUT (R563, R337, R345): the data of a scalar load goes into its register; the 64 bytes
of an entry become the queue's next command; a failed answer, and a timeout 50 ms after the read went out, are counted and leave a
bus error of the group, or a queue in ERROR. -/
def Obligations.HostAnswers : Prop :=
  (∀ (s : State) (id f : Nat) (a n : Nat) (g : Grp) (sd : Nat) (pc : BitVec 48) (sent : BitVec 64) (bs : List Byte),
    s.hostReads = [⟨id, f, [(a, n)], .scalar g sd pc, sent⟩] → bs.length = n →
    exec (.hostWindowCompletion id (.data bs)) s =
      .next ({ s with hostReads := [] }.setGroup g ((s.group g).setS sd (BitVec.ofNat 32 (leNat bs))))) ∧
  (∀ (s : State) (id f q a : Nat) (sent : BitVec 64) (bs : List Byte), s.hostReads = [⟨id, f, [(a, 64)], .entry f q, sent⟩] → bs.length = 64 → q < 16 →
    ∃ t c, exec (.hostWindowCompletion id (.data bs)) s = .next (settleReplies t) ∧ (t.queue f q).cmds = (s.queue f q).cmds ++ [c] ∧
      c.bytes = bs ∧ c.seq = s.seqNext ∧ c.started = false ∧ (t.queue f q).fetching = false ∧ t.hostReads = []) ∧
  (∀ (s : State) (id f off a n : Nat) (g : Grp) (sd : Nat) (pc : BitVec 48) (sent : BitVec 64),
    s.hostReads = [⟨id, f, [(a, n)], .scalar g sd pc, sent⟩] →
    (s.group g).live = true →
    let p := ((s.cluster g.cl).block (s.group g).bslot).part
    ∃ t x, exec (.hostWindowCompletion id (.failed off)) s = .next t ∧ t.hostReads = [] ∧
      t.host.readErr = satAdd s.host.readErr 1 0xFFFF ∧ (t.part p).notes = (s.part p).notes ++ [x] ∧ x.cls = 5 ∧ x.pc = pc ∧
      x.cluster = g.cl ∧ x.core = g.core ∧ x.slot = g.slot) ∧
  (∀ (s : State) (id f q a : Nat) (sent : BitVec 64), s.hostReads = [⟨id, f, [(a, 64)], .entry f q, sent⟩] → q < 16 →
    1000 * (s.pcie f).cplTimeoutUs ≤ (s.time - sent).toNat →
    ∃ t, exec (.completionTimeout id) s = .next (settleReplies t) ∧ (t.queue f q).state = 2 ∧ (t.queue f q).openErr = 4 ∧ t.hostReads = [] ∧
      t.host.readErr = satAdd s.host.readErr 1 0xFFFF)

/-! ### Queues (R340-R347) -/

/-- QUEUE_OPEN, QUEUE_CLOSE, SQ_TAIL, CQ_HEAD, COMMAND_FETCH and STATUS_REPLY (R340-R347): an open is BUSY until its outcome comes,
which the model gives at the next tick (notes/assumptions/9.md): a sound one leaves the queue OPEN and empty, a refused one keeps
its reason; a close without open commands closes it at once; doorbells take in-range indices and a wrong one leads to ERROR; a
fetched entry is the next command; a reply goes to the ring's next place with the phase of the round. -/
def Obligations.QueueSteps : Prop :=
  (∀ (s : State) (f q : Nat) (v : BitVec 64), s.up = true → s.fnOff f = false → f < 65 → q < 16 → (s.queue f q).state = 0 →
    let x : Queue := { s.queue f q with
      sqLog2 := v.extractLsb' 1 5, cqLog2 := v.extractLsb' 6 5, vec := v.extractLsb' 11 6, verMin := v.extractLsb' 17 4
      verMax := v.extractLsb' 21 4 }
    exec (.queueOpen f q v) s = .next (s.setQueue f q {
      x with enable := true, state := 3, opening := true, closingOpen := false, cmds := [], replies := [] })) ∧
  (∀ (s : State) (f q : Nat), NMap.wf {} s.queues = true → q < 16 → (s.queue f q).opening = true →
    let x := s.queue f q
    (openCheck x f = 0 → (endOpens s).queue f q = {
      sqBase := x.sqBase, cqBase := x.cqBase, sqLog2 := x.sqLog2, cqLog2 := x.cqLog2, vec := x.vec, verMin := x.verMin
      verMax := x.verMax, enable := true, state := 1, version := 1 }) ∧
    (openCheck x f ≠ 0 → (endOpens s).queue f q = {
      x with enable := false, state := 0, opening := false, openErr := BitVec.ofNat 4 (openCheck x f) })) ∧
  (∀ (s : State) (f q : Nat), s.up = true → s.fnOff f = false → (s.queue f q).state = 1 →
    (s.queue f q).opening = false → (∀ c ∈ (s.queue f q).cmds, c.started = false) →
    (s.queue f q).replies = [] →
    ∃ t, exec (.queueClose f q) s = .next (settleReplies t) ∧ (t.queue f q).state = 0 ∧ (t.queue f q).enable = false ∧
      (t.queue f q).cmds = [] ∧ (∀ h ∈ t.hostReads, h.kind ≠ .entry f q) ∧ t.mem = s.mem) ∧
  (∀ (s : State) (f q : Nat) (val : BitVec 32), s.up = true → s.fnOff f = false → (s.queue f q).state = 1 →
    (val.toNat % 2 ^ 16 < 2 ^ (s.queue f q).sqLog2.toNat →
      exec (.sqTail f q val) s = .next (s.setQueue f q { s.queue f q with sqTail := val.setWidth 16 })) ∧
    (2 ^ (s.queue f q).sqLog2.toNat ≤ val.toNat % 2 ^ 16 →
      ∃ t, exec (.sqTail f q val) s = .next (settleReplies t) ∧ (t.queue f q).state = 2 ∧ (t.queue f q).openErr = 5 ∧ (t.queue f q).replies = [])) ∧
  (∀ (s : State) (f q : Nat) (val : BitVec 32), s.up = true → s.fnOff f = false → (s.queue f q).state = 1 →
    let x := s.queue f q
    let n := 2 ^ x.cqLog2.toNat
    let i := val.toNat % 2 ^ 16
    i < n → (i + n - x.cqHead.toNat) % n ≤ (x.cqTail.toNat + n - x.cqHead.toNat) % n →
    exec (.cqHead f q val) s = .next (s.setQueue f q { x with cqHead := val.setWidth 16 })) ∧
  (∀ (s : State) (f q : Nat) (bs : List Byte), s.up = true → journalFull s = false → (∀ e ∈ s.queues, e.2.fetching = false) →
    nextQueue s = some (16 * f + q) → q < 16 → bs.length = 64 →
    let x := s.queue f q
    ∃ t c, exec (.commandFetch (some (.data bs))) s = .next (settleReplies t) ∧ (t.queue f q).cmds = x.cmds ++ [c] ∧ c.bytes = bs ∧
      c.seq = s.seqNext ∧ c.prev = x.lastSeq ∧ t.seqNext = s.seqNext + 1 ∧ t.lastServed = 16 * f + q ∧
      (t.queue f q).sqHead.toNat = (x.sqHead.toNat + 1) % 2 ^ x.sqLog2.toNat % 2 ^ 16 ∧
      t.out = s.out ++ [.hostRead s.hrNext f [(x.sqBase.toNat + 64 * x.sqHead.toNat, 64)]] ∧
      t.mem = s.mem) ∧
  (∀ (s : State) (f q : Nat) (r : Reply) (rest : List Reply), (s.queue f q).state = 1 → (s.queue f q).replies = r :: rest →
    (s.queue f q).ringFull = false → s.rope.journal = [] →
    let x := s.queue f q
    let tail := (x.cqTail.toNat + 1) % 2 ^ x.cqLog2.toNat
    ∃ t, exec (.statusReply f q) s = .next (settleReplies t) ∧
      t.queue f q = { x with
        replies := rest, cqTail := BitVec.ofNat 16 tail, phase := if tail = 0 then !x.phase else x.phase } ∧
      t.out = s.out ++ [.hostWrite f (x.cqBase.toNat + 32 * x.cqTail.toNat) (replyBytes x f q r)] ++
        (if r.irq then [.msix f x.vec.toNat] else []) ∧
      (replyBytes x f q r).length = 32 ∧ t.mem.dram = s.mem.dram)

/-! ### Host commands (R346-R359) -/

/-- The command `c` stands alone in an OPEN queue of a serving device, not started; the one before it did not fail, no
journal holds it, and no configuration command goes ahead of it (R342, R346, R347, R403). -/
structure Sys2Proof.Claims.Waiting (s : State) (f q : Nat) (c : Cmd) : Prop where
  up : s.up = true
  isOpen : (s.queue f q).state = 1
  only : (s.queue f q).cmds = [c]
  fresh : c.started = false
  before : c.prevFailed = false ∧ c.prev ≠ some c.seq
  unjournaled : ∀ e ∈ s.rope.journal, e.cmd ≠ ⟨f, q, c.seq⟩
  turn : configWaits s c = false
  calm : c.partN f < 64 → s.eventOpen (c.partN f) = false

/-- Nothing in the packet itself speaks against it: opcode known, allowed to the function, no reserved bit set, a
partition named where one is needed, and that partition present (R346, R352). -/
def Sys2Proof.Claims.sound_ (s : State) (f : Nat) (c : Cmd) (pfOnly needPart : Bool) (params : List (Nat × Nat × Nat)) : Prop :=
  generalRefusals f c { sel := fun _ => true, pfOnly := pfOnly, needPart := needPart, params := params } = [] ∧
  (c.partN f < 64 → (s.part (c.partN f)).st ≠ .absent)

/-- The command has completed with a status and a result, and its reply waits behind the earlier ones (R346). -/
def Sys2Proof.Claims.replied (s t : State) (f q : Nat) (c : Cmd) (status : Nat) (lo hi : BitVec 64) : Prop :=
  (t.queue f q).cmds = [] ∧ t.cfgBusy = none ∧
  ∃ r, (t.queue f q).replies = (s.queue f q).replies ++ [r] ∧ r.status = status ∧ r.opcode = BitVec.ofNat 8 c.opcode ∧
    r.tag = BitVec.ofNat 32 (c.field 4 4) ∧ r.lo = lo ∧ r.hi = hi ∧ r.irq = c.irq ∧ r.seq = c.seq

/-- The command has started and goes on. -/
def Sys2Proof.Claims.underway (s t : State) (f q : Nat) (c : Cmd) : Prop :=
  (t.queue f q).cmds = [{ c with started := true, startTime := s.time }] ∧ (t.queue f q).replies = (s.queue f q).replies

/-- Memory is as it was: stack DRAM, the lines of slices and caches, every cluster. -/
def Sys2Proof.Claims.quiet (s t : State) : Prop :=
  t.mem.dram = s.mem.dram ∧ t.mem.lines = s.mem.lines ∧ t.mem.l1 = s.mem.l1 ∧ t.cl = s.cl

/-- NOP, QUERY and the three modes of TIME_SYNC (R346, R350, R428): NOP succeeds and a reserved opcode is BAD_OPCODE; QUERY
answers with the state of its partition and the time of its last fault; TIME_SYNC answers with the master time base,
which STEP moves and SLEW sets out to move; a PF's command sent by a virtual function is NOT_PERMITTED. -/
def Obligations.BasicCommands : Prop :=
  (∀ (s : State) (f q : Nat) (c : Cmd), Claims.Waiting s f q c → c.opcode = 0 → Claims.sound_ s f c false false [] →
    ∃ t, exec (.nopCommand f q) s = .next t ∧ Claims.replied s t f q c 0 0 0 ∧ Claims.quiet s t) ∧
  (∀ (s : State) (f q : Nat) (c : Cmd), Claims.Waiting s f q c → knownOp c.opcode = false →
    ∃ t, exec (.nopCommand f q) s = .next t ∧ Claims.replied s t f q c 4 0 0 ∧ Claims.quiet s t) ∧
  (∀ (s : State) (f q : Nat) (c : Cmd), Claims.Waiting s f q c → c.opcode = 1 → Claims.sound_ s f c false true [] → c.partN f < 64 →
    let x := s.part (c.partN f)
    ∃ t, exec (.query f q) s = .next t ∧ Claims.quiet s t ∧
      Claims.replied s t f q c 0
        (BitVec.ofNat 64 (partCode x.st + 2 ^ 8 * (s.runningCtxs (c.partN f)).length + 2 ^ 16 * schedBits x)) x.lastFault) ∧
  (∀ (s : State) (q : Nat) (c : Cmd), Claims.Waiting s 0 q c → c.opcode = 2 →
    Claims.sound_ s 0 c true false [(8, 0, 8), (16, 0, 64)] →
    (c.arg 8 1 = 0 → c.sarg 16 = 0 →
      ∃ t, exec (.timeSyncRead 0 q) s = .next t ∧ Claims.replied s t 0 q c 0 s.clk.master s.clk.master ∧ t.clk = s.clk) ∧
    (c.arg 8 1 = 1 → (0 ≤ c.sarg 16 ∨ ∀ e ∈ s.parts, e.2.active = false) →
      ∃ t, exec (.timeSyncStep 0 q) s = .next t ∧ t.clk.master = s.clk.master + BitVec.ofInt 64 (c.sarg 16) ∧
        Claims.replied s t 0 q c 0 s.clk.master t.clk.master ∧ t.clk.tsLeft = 0) ∧
    (c.arg 8 1 = 2 → -1000000 ≤ c.sarg 16 → c.sarg 16 ≤ 1000000 →
      ∃ t, exec (.timeSyncSlew 0 q) s = .next t ∧ Claims.replied s t 0 q c 0 s.clk.master s.clk.master ∧
        t.clk = { s.clk with tsLeft := c.sarg 16, tsCount := 0 })) ∧
  (∀ (s : State) (f q : Nat) (c : Cmd), Claims.Waiting s f q c → f ≠ 0 → c.opcode = 2 → c.arg 8 1 = 0 →
    ∃ t, exec (.timeSyncRead f q) s = .next t ∧ Claims.replied s t f q c 5 0 0 ∧ t.clk = s.clk)

/-- The work of partition p has ended and what it used is released (R355 steps 1 and 2): every command of it but the reset's own
has its outcome ABORTED, and step 3 waits for those outcomes to be written. -/
def Sys2Proof.Claims.resets (s t : State) (p : Nat) (e : ResetEnd) : Prop :=
  (t.part p).reset = some e ∧ (t.part p).notes = [] ∧ (t.part p).freezing = none ∧
  (t.part p).st = (if (s.part p).st = .running then .frozen else (s.part p).st) ∧
  (t.part p).f0 = (s.part p).f0 ∧ (t.part p).f1 = (s.part p).f1 ∧
  (∀ r ∈ partCmds s p e.cmd, (∀ x ∈ (t.queue r.f r.q).cmds, x.seq ≠ r.seq) ∧ r ∈ (t.part p).awaits ∧
    ((s.queue r.f r.q).replying = true → ∃ x ∈ (t.queue r.f r.q).replies, x.seq = r.seq ∧ x.status = 3)) ∧
  (∀ k, (t.ctx k).live = true → (t.ctx k).part = p → (t.ctx k).ended = true) ∧
  (∀ k, (s.part p).hasCluster k = true → (t.cluster k).groups = [] ∧ (t.cluster k).blocks = []) ∧
  t.mem.dram = s.mem.dram ∧ t.mem.lines = s.mem.lines

/-- LAUNCH, FREEZE, FREEZE_DEADLINE, PART_RESET (R62, R178, R351, R353-R355): a context is made as the packet says, its
partition runs, and a PLACED context's blocks are offered to the clusters by turns; a freeze with no reservation left
replies at once, else at its deadline of 10 µs with the number broken; a reset ends the partition's work with ABORTED and, once
those outcomes are written, replies with the partition IDLE. -/
def Obligations.PartitionRuns : Prop :=
  (∀ (s : State) (f q : Nat) (c : Cmd), Claims.Waiting s f q c → c.opcode = 0x10 →
    Claims.sound_ s f c false true [
      (8, 0, 48), (16, 0, 48), (24, 0, 16), (26, 0, 5), (27, 0, 4), (28, 0, 7), (32, 0, 16), (34, 0, 16), (36, 0, 16)] →
    let p := c.partN f
    let x := { launchCtx ⟨f, q, c.seq⟩ p c with offered := s.offerNext }
    p < 64 → (s.runningCtxs p).length < 16 → launchRefusals s p c = [] →
    ∃ t, exec (.launch f q) s = .next t ∧ Claims.underway s t f q c ∧ t.ctx s.ctxNext = x ∧ t.ctxNext = s.ctxNext + 1 ∧
      (t.part p).st = .running ∧ t.mem.dram = s.mem.dram ∧ t.mem.lines = s.mem.lines ∧
      (x.placed = false → t.cl = s.cl) ∧
      (∀ k, (t.cluster k).groups = (s.cluster k).groups ∧ (t.cluster k).blocks = (s.cluster k).blocks)) ∧
  (∀ (total n size : Nat), 0 < size → n < size →
    ∀ b, b ∈ placedBlocks total n size ↔ b < total ∧ b % size = n) ∧
  (∀ (s : State) (f q : Nat) (c : Cmd), Claims.Waiting s f q c → c.opcode = 0x16 → Claims.sound_ s f c false true [] →
    let p := c.partN f
    p < 64 →
    (((s.part p).st = .running ∨ (s.part p).st = .idle) → partResvs s p = 0 →
      ∃ t, exec (.freeze f q) s = .next t ∧ (t.part p).st = .frozen ∧ (t.part p).schedRunning = false ∧
        (t.part p).freezeStamp = s.time ∧ Claims.replied s t f q c 0 0 s.time ∧ t.mem.dram = s.mem.dram ∧ t.ctxs = s.ctxs) ∧
    (((s.part p).st = .running ∨ (s.part p).st = .idle) → 0 < partResvs s p →
      ∃ t, exec (.freeze f q) s = .next t ∧ (t.part p).st = .frozen ∧ (t.part p).freezing = some ⟨f, q, c.seq⟩ ∧
        Claims.underway s t f q c ∧ t.mem.resvs = s.mem.resvs) ∧
    ((s.part p).st = .frozen →
      ∃ t, exec (.freeze f q) s = .next t ∧ (t.part p).st = .frozen ∧
        Claims.replied s t f q c 0 0 (s.part p).freezeStamp)) ∧
  (∀ (s : State) (p f q : Nat) (c : Cmd), (s.part p).freezing = some ⟨f, q, c.seq⟩ → (s.queue f q).cmds = [c] →
    (s.queue f q).state = 1 → c.opcode = 0x16 → s.cfgBusy = some ⟨f, q, c.seq⟩ →
    (partResvs s p ≠ 0 → (s.time - c.startTime).toNat < 10000 → exec (.freezeDeadline p) s = .next s) ∧
    (partResvs s p = 0 ∨ 10000 ≤ (s.time - c.startTime).toNat →
      ∃ t, exec (.freezeDeadline p) s = .next t ∧ (t.part p).freezing = none ∧ (t.part p).freezeStamp = s.time ∧
        (∀ r ∈ t.mem.resvs, (s.part p).hasCluster r.grp.cl = false) ∧
        Claims.replied s t f q c 0 (BitVec.ofNat 64 (partResvs s p)) s.time)) ∧
  (∀ (s : State) (f q : Nat) (c : Cmd), Claims.Waiting s f q c → c.opcode = 0x17 → Claims.sound_ s f c false true [] →
    c.partN f < 64 → ((s.part (c.partN f)).st = .running → partResvs s (c.partN f) = 0) → NMap.wf {} s.queues = true →
    ∃ t, exec (.partReset f q) s = .next (settleReplies t) ∧ Claims.resets s t (c.partN f) { cmd := some ⟨f, q, c.seq⟩ } ∧
      (t.part (c.partN f)).allocs = (s.part (c.partN f)).allocs) ∧
  (∀ (s : State) (p : Nat) (r : CmdRef), (s.part p).reset = some { cmd := some r } →
    (∀ x ∈ (s.part p).awaits, replyWaits s x = false) → (s.queue r.f r.q).replying = true →
    (∃ c ∈ (s.queue r.f r.q).cmds, c.seq = r.seq) →
    let t := settleReplies s
    t.part p = { s.part p with st := .idle, reset := none, awaits := [] } ∧
    (∃ x ∈ (t.queue r.f r.q).replies, x.seq = r.seq ∧ x.status = 0) ∧
    (∀ k, (t.ctx k).live = true → (t.ctx k).ended = true → replyWaits s (t.ctx k).cmd = true))

/-- PART_CREATE, PART_SHARES, PART_DESTROY, SCHED_LOAD, SCHED_START, SCHED_STOP (R206, R210, R276, R288, R293, R350, R356): a
partition is made IDLE with the rectangles that the packet gives; its shares are set; one destroyed ends its work and is ABSENT once
its outcomes are written; an image of a schedule is read, or refused; a schedule loaded is armed for its start time in every router
of the region, and stopped. -/
def Obligations.PartitionSetUp : Prop :=
  (∀ (s : State) (q : Nat) (c : Cmd), Claims.Waiting s 0 q c → c.opcode = 0x20 →
    generalRefusals 0 c { sel := fun _ => true, pfOnly := true, needPart := true, params := [(8, 0, 2), (9, 0, 64)] ++ shareParams } = [] →
    let p := c.partN 0
    p < 64 → createRefusals s p c = [] →
    ∃ t, exec (.partCreate 0 q) s = .next t ∧ Claims.replied s t 0 q c 0 0 0 ∧ Claims.quiet s t ∧
      t.part p = {
        st := .idle, f0 := (createRects c).1, f1 := (createRects c).2, faultRec := (s.part p).faultRec
        lastFault := (s.part p).lastFault } ∧
      NMap.get {} t.mem.partq p =
        ⟨BitVec.ofNat 16 (c.arg 36 2), BitVec.ofNat 16 (c.arg 38 2), c.arg 40 2⟩ ∧
      (∀ k < 64, k ≠ 0 → k ≠ 32 → bitOf (c.arg 24 8) k = true → slotOwner t k = p) ∧
      (NMapTok t p).rate = BitVec.ofNat 16 (c.arg 32 2) ∧ (NMapTok t p).burst = BitVec.ofNat 16 (c.arg 34 2) ∧
      (NMapTok t p).tokens = 0 ∧ (∀ k, k ≠ p → t.part k = s.part k)) ∧
  (∀ (s : State) (q : Nat) (c : Cmd), Claims.Waiting s 0 q c → c.opcode = 0x22 → Claims.sound_ s 0 c true true shareParams →
    let p := c.partN 0
    p < 64 → sharesBad s p (sharesOf c) = [] →
    ∃ t, exec (.partShares 0 q) s = .next t ∧ Claims.replied s t 0 q c 0 0 0 ∧ Claims.quiet s t ∧ t.parts = s.parts ∧
      NMap.get {} t.mem.partq p = ⟨BitVec.ofNat 16 (c.arg 36 2), BitVec.ofNat 16 (c.arg 38 2), c.arg 40 2⟩ ∧
      (∀ k < 64, k ≠ 0 → k ≠ 32 → (slotOwner t k = p ↔ bitOf (c.arg 24 8) k = true)) ∧
      (NMapTok t p).tokens = (NMapTok s p).tokens) ∧
  (∀ (s : State) (q : Nat) (c : Cmd), Claims.Waiting s 0 q c → c.opcode = 0x21 → Claims.sound_ s 0 c true true [] →
    c.partN 0 < 64 → ((s.part (c.partN 0)).st = .running → partResvs s (c.partN 0) = 0) → NMap.wf {} s.queues = true →
    ∃ t, exec (.partDestroy 0 q) s = .next (settleReplies t) ∧
      Claims.resets s t (c.partN 0) { cmd := some ⟨0, q, c.seq⟩, destroy := true }) ∧
  (∀ (s : State) (p : Nat) (r : CmdRef), (s.part p).reset = some { cmd := some r, destroy := true } →
    (∀ x ∈ (s.part p).awaits, replyWaits s x = false) → (s.queue r.f r.q).replying = true →
    (∃ c ∈ (s.queue r.f r.q).cmds, c.seq = r.seq) →
    let t := settleReplies s
    t.part p = { faultRec := (s.part p).faultRec, lastFault := (s.part p).lastFault } ∧ NMap.get {} t.mem.partq p = {} ∧
    (∀ j ∈ t.lnk.jobs, j.part ≠ some p) ∧ (∀ ln, (t.mem.lineAt ln).anchored ≠ some p) ∧
    ∃ x ∈ (t.queue r.f r.q).replies, x.seq = r.seq ∧ x.status = 0) ∧
  (∀ (s : State) (f q : Nat) (c : Cmd), Claims.Waiting s f q c → c.opcode = 0x18 →
    Claims.sound_ s f c false true [(8, 0, 64), (16, 0, 32), (20, 0, 10)] →
    let p := c.partN f
    p < 64 → (s.part p).scheduling = false → (s.part p).st ≠ .frozen →
    (c.arg 16 4 = 0 → spanHeld s (c.arg 8 8) 0 false = false →
      ∃ t, exec (.schedLoad f q) s = .next t ∧ Claims.replied s t f q c 0 0 0 ∧
        (t.part p).sched = some ([], c.arg 20 2 % 1024) ∧ Claims.quiet s t ∧
        ∀ k, (s.part p).region.contains (siteGathKey k) = true → (t.router k).routes = []) ∧
    (c.arg 16 4 ≠ 0 → rangeOf (c.arg 8 8) = .hostWin → dataAllowed s p (c.arg 8 8) (16 * c.arg 16 4) = true →
      ∃ t, exec (.schedLoad f q) s = .next t ∧ Claims.underway s t f q c ∧
        t.out = s.out ++ [.hostRead s.hrNext (p + 1) [(c.arg 8 8 - hostBase, 16 * c.arg 16 4)]] ∧ Claims.quiet s t)) ∧
  (∀ (s : State) (f q : Nat) (c : Cmd), Claims.Waiting s f q c → c.opcode = 0x19 → Claims.sound_ s f c false true [(8, 0, 64)] →
    let p := c.partN f
    p < 64 → (s.part p).sched.isSome = true → (s.part p).scheduling = false → (s.part p).st ≠ .frozen →
    ∃ t n, exec (.schedStart f q) s = .next t ∧ (t.part p).schedArmed = true ∧
      (∀ k ∈ (s.part p).region, (t.gath k).start = BitVec.ofNat 64 (c.arg 8 8) ∧
        (t.gath k).periodM1 = BitVec.ofNat 10 (((s.part p).sched.map Prod.snd).getD 0)) ∧
      Claims.replied s t f q c 0 (BitVec.ofNat 64 (max (c.arg 8 8) s.clk.master.toNat + n)) 0 ∧ Claims.quiet s t) ∧
  (∀ (s : State) (f q : Nat) (c : Cmd), Claims.Waiting s f q c → c.opcode = 0x1A → Claims.sound_ s f c false true [] →
    let p := c.partN f
    p < 64 → (s.part p).st ≠ .frozen →
    ∃ t, exec (.schedStop f q) s = .next t ∧ (t.part p).schedRunning = false ∧ (t.part p).schedArmed = false ∧
      (t.part p).sched = (s.part p).sched ∧ Claims.replied s t f q c 0 s.time 0 ∧ Claims.quiet s t ∧
      ∀ k, (s.part p).region.contains (siteGathKey k) = true → (t.router k).fl = [])

/-- COPY, CODE_WRITE, FILL, ANCHOR, UNANCHOR (R84, R290, R291, R349, R350) where the partition's regulators have tokens: inside one
sector the destination reads as the source did, or as the pattern; code writes empty the instruction caches; an anchored range's
lines stand anchored, or the reply names the first that found no way; unanchored lines are ordinary. -/
def Obligations.MemoryCommands : Prop :=
  (∀ (s : State) (f q : Nat) (c : Cmd), Claims.Waiting s f q c → c.opcode = 0x13 → Claims.sound_ s f c false false [(8, 0, 192)] →
    let p := c.partN f
    let a := c.arg 8 8
    let n := c.arg 16 8
    hasTokens s cmdRequester (partOpt p) 1 = true → (p < 64 → (s.part p).st ≠ .frozen) → rangeRefusal s p a n = [] → Claims.outerAccess s a n true →
    ∃ t, exec (.fill f q) s = .next t ∧ Claims.replied s t f q c 0 0 0 ∧ t.mem.dram = s.mem.dram ∧
      (uncachedRead t.mem t.time 0xFFFF a n).2.1 =
        (List.range n).map (fun i => BitVec.ofNat 8 (c.arg 24 8 / 2 ^ (8 * (i % 8)))) ∧
      (∀ k, k ≠ a / 128 → t.mem.lineAt k = s.mem.lineAt k) ∧ t.cl = s.cl) ∧
  (∀ (s : State) (f q : Nat) (c : Cmd), Claims.Waiting s f q c → c.opcode = 0x12 → Claims.sound_ s f c false false [(8, 0, 192)] →
    let p := c.partN f
    let n := c.arg 24 8
    hasTokens s cmdRequester (partOpt p) 2 = true → copyRefusals s p c = [] → Claims.outerAccess s (c.arg 8 8) n false →
    Claims.outerAccess s (c.arg 16 8) n true →
    ∃ t, exec (.copy f q) s = .next t ∧ Claims.replied s t f q c 0 0 0 ∧ t.mem.dram = s.mem.dram ∧
      (uncachedRead t.mem t.time 0xFFFF (c.arg 16 8) n).2.1 = (uncachedRead s.mem s.time 0xFFFF (c.arg 8 8) n).2.1 ∧ t.cl = s.cl) ∧
  (∀ (s : State) (f q : Nat) (c : Cmd), Claims.Waiting s f q c → c.opcode = 0x12 → Claims.sound_ s f c false false [(8, 0, 192)] →
    let p := c.partN f
    copyRefusals s p c = [] → rangeOf (c.arg 8 8) = .hostWin →
    ∃ t, exec (.copy f q) s = .next t ∧ Claims.underway s t f q c ∧ Claims.quiet s t ∧
      t.out = s.out ++ [.hostRead s.hrNext (hostFn p) [(c.arg 8 8 - hostBase, c.arg 24 8)]]) ∧
  (∀ (s : State) (f q : Nat) (c : Cmd), Claims.Waiting s f q c → c.opcode = 0x11 → Claims.sound_ s f c false true [(8, 0, 192)] →
    let p := c.partN f
    let n := c.arg 24 8
    p < 64 → hasTokens s cmdRequester (partOpt p) 2 = true → codeRefusals s p c = [] → Claims.outerAccess s (c.arg 8 8) n false →
    Claims.outerAccess s (c.arg 16 8) n true → (c.arg 8 8 + n ≤ c.arg 16 8 ∨ c.arg 16 8 + n ≤ c.arg 8 8) →
    ∃ t, exec (.codeWrite f q) s = .next t ∧ Claims.replied s t f q c 0 0 0 ∧ t.mem.dram = s.mem.dram ∧
      (uncachedRead t.mem t.time 0xFFFF (c.arg 16 8) n).2.1 = (uncachedRead s.mem s.time 0xFFFF (c.arg 8 8) n).2.1 ∧
      ∀ k, (s.part p).hasCluster k = true → (t.cluster k).icache = []) ∧
  (∀ (s : State) (f q : Nat) (c : Cmd), Claims.Waiting s f q c → c.opcode = 0x14 → Claims.sound_ s f c false true [(8, 0, 128)] →
    let p := c.partN f
    let a := c.arg 8 8
    let n := c.arg 16 8
    p < 64 → s.mem.txns = [] → anchorAllowed s p c = [] →
    ((lineRange a n).any fun ln => isNbRaw s.mem (ln * 128)) = false →
    (∀ k, (s.mem.lineAt k).tagBad = false ∧ (s.mem.lineAt k).dirBad = false) →
    ∃ t, exec (.anchor f q) s = .next t ∧
      ((Claims.replied s t f q c 0 (BitVec.ofNat 64 (a + n)) 0 ∧ ∀ ln ∈ lineRange a n, (t.mem.lineAt ln).anchored.isSome = true) ∨
       ∃ ln ∈ lineRange a n, Claims.replied s t f q c 0x0C (BitVec.ofNat 64 (ln * 128)) 0)) ∧
  (∀ (s : State) (f q : Nat) (c : Cmd), Claims.Waiting s f q c → c.opcode = 0x15 → Claims.sound_ s f c false true [(8, 0, 128)] →
    let p := c.partN f
    p < 64 → anchorAllowed s p c = [] →
    ∃ t, exec (.unanchor f q) s = .next t ∧ Claims.replied s t f q c 0 0 0 ∧ t.mem.dram = s.mem.dram ∧
      ∀ ln, rangeOf (ln * 128) = .dram → spansMeet (c.arg 8 8) (c.arg 16 8) (ln * 128) 128 = true →
        (t.mem.lineAt ln).anchored ≠ some p)

/-- ALLOC_SET, REGION_SET, RAW_SET, ANCHOR_WAYS_SET, REMAP, SCRUB_SET, STACK_MARGIN (R217, R218, R248, R274, R287, R307, R311, R312,
R318): the entry, mask or register named holds what the packet gives, and the lines that it concerns have left the slices; a raw
entry's change goes on after the command has started and its reply comes at the end, which the model gives at the next tick
(notes/assumptions/32.md). -/
def Obligations.ConfigurationCommands : Prop :=
  (∀ (s : State) (q : Nat) (c : Cmd), Claims.Waiting s 0 q c → c.opcode = 0x23 →
    Claims.sound_ s 0 c true true [(8, 0, 4), (9, 0, 2), (16, 0, 128)] →
    let p := c.partN 0
    p < 64 → s.mem.txns = [] → (∀ x ∈ s.host.bar4, x.f ≠ p + 1) → NMap.wf {} s.cl = true → allocRefusals s p c = [] →
    ∃ t, exec (.allocSet 0 q) s = .next t ∧ Claims.replied s t 0 q c 0 0 0 ∧
      (∀ k, t.cluster k = { s.cluster k with
        allocBad := if (s.part p).hasCluster k then (s.cluster k).allocBad.filter (· ≠ c.arg 8 1 % 16) else (s.cluster k).allocBad }) ∧
      NMap.get {} (t.part p).allocs (c.arg 8 1 % 16) = allocOf c ∧
      (∀ e, e ≠ c.arg 8 1 % 16 → NMap.get {} (t.part p).allocs e = NMap.get {} (s.part p).allocs e) ∧
      (∀ k, k ≠ p → t.part k = s.part k) ∧ (t.part p).st = (s.part p).st) ∧
  (∀ (s : State) (q : Nat) (c : Cmd), Claims.Waiting s 0 q c → c.opcode = 0x24 →
    Claims.sound_ s 0 c true false [(8, 0, 6), (9, 0, 4), (10, 0, 8), (11, 0, 3), (16, 0, 128)] →
    let x := regionOfCmd c
    s.mem.txns = [] → regionRefusals s (c.partN 0) c = [] →
    ∃ t, exec (.regionSet 0 q) s = .next t ∧ Claims.replied s t 0 q c 0 0 0 ∧
      NMap.get {} t.mem.regions (c.arg 8 1 % 64) = (if x.valid then x else {}) ∧
      (x.valid = true → linesIn t.mem x.base x.size = []) ∧
      (∀ e, e ≠ c.arg 8 1 % 64 → NMap.get {} t.mem.regions e = NMap.get {} s.mem.regions e) ∧ t.cl = s.cl) ∧
  (∀ (s : State) (q : Nat) (c : Cmd), Claims.Waiting s 0 q c → c.opcode = 0x25 →
    Claims.sound_ s 0 c true false [(8, 0, 4), (9, 0, 1), (16, 0, 128)] → rawRefusals s (c.partN 0) c = [] →
    ∃ t, exec (.rawSet 0 q) s = .next t ∧ Claims.underway s t 0 q c ∧ Claims.quiet s t ∧ t.mem.raws = s.mem.raws ∧
      t.mem.rawWork = some ⟨⟨0, q, c.seq⟩, c.arg 8 1 % 16, rawOfCmd c⟩ ∧ t.cfgBusy = some ⟨0, q, c.seq⟩) ∧
  (∀ (s : State) (w : RawWork) (c : Cmd), s.mem.rawWork = some w → (s.queue w.cmd.f w.cmd.q).cmds = [c] → c.seq = w.cmd.seq →
    (s.queue w.cmd.f w.cmd.q).state = 1 → s.cfgBusy = some w.cmd →
    let t := endRaw s
    Claims.replied s t w.cmd.f w.cmd.q c 0 0 0 ∧ Claims.quiet s t ∧ t.mem.rawWork = none ∧
    NMap.get {} t.mem.raws w.entry = w.new ∧
    (∀ e, e ≠ w.entry → NMap.get {} t.mem.raws e = NMap.get {} s.mem.raws e)) ∧
  (∀ (s : State) (q : Nat) (c : Cmd), Claims.Waiting s 0 q c → c.opcode = 0x26 → Claims.sound_ s 0 c true false [(8, 0, 4)] →
    s.mem.txns = [] → s.noContext = true →
    (∀ ln, (s.mem.lineAt ln).anchored = none ∧ (s.mem.lineAt ln).trace = false) → s.mem.obs.size = 0 →
    ∃ t, exec (.anchorWaysSet 0 q) s = .next t ∧ Claims.replied s t 0 q c 0 0 0 ∧ t.mem.anchorWays = c.arg 8 1 % 16 ∧
      linesInWays t.mem (16 - c.arg 8 1 % 16) (16 - s.mem.anchorWays) = [] ∧ t.cl = s.cl) ∧
  (∀ (s : State) (q k : Nat) (c : Cmd), Claims.Waiting s 0 q c → c.opcode = 0x27 →
    Claims.sound_ s 0 c true false [(8, 0, 8), (9, 0, 8), (10, 0, 1)] → s.mem.txns = [] →
    let fo := (remapHome c).1
    let home := (remapHome c).2
    let g := siteGathKey (siteCode fo 0 home)
    remapRefusals s (c.partN 0) c = [] → spareOf s g = some k → (s.gath g).renameOf home = none →
    (∃ j < 41, ((s.gath g).entry j).valid = false) →
    ∃ t, exec (.remap 0 q) s = .next t ∧
      Claims.replied s t 0 q c 0 (BitVec.ofNat 64 (siteCode fo 0 (spareIdx (g % 48) k))) 0 ∧
      (t.gath g).siteOf home = spareIdx (g % 48) k ∧ (t.gath g).used = (s.gath g).used ++ [k] ∧
      ((t.gath g).fenced home = true ∨ home ∈ (t.gath g).sealed) ∧ (t.folio fo).dead.contains home = false ∧
      (t.folio fo).sparesUsed = (s.folio fo).sparesUsed + 1) ∧
  (∀ (s : State) (q : Nat) (c : Cmd), Claims.Waiting s 0 q c → c.opcode = 0x28 → Claims.sound_ s 0 c true false [(8, 0, 2)] →
    tokensBusy s { scrub := true } = false →
    ∃ t, exec (.scrubSet 0 q) s = .next t ∧ Claims.replied s t 0 q c 0 0 0 ∧ Claims.quiet s t ∧
      t.mem.slcScrubEn = bitOf (c.arg 8 1) 0 ∧ t.mem.mstScrubEn = bitOf (c.arg 8 1) 1) ∧
  (∀ (s : State) (q ch : Nat) (m : MarginRead) (c : Cmd), Claims.Waiting s 0 q c → c.opcode = 0x29 →
    Claims.sound_ s 0 c true false [(8, 0, 4)] → tokensBusy s (marginHold c none) = false →
    (bitOf (c.arg 8 1) 3 = true → s.noContext = true) → ch < 32 →
    ∃ t, exec (.stackMargin 0 q [(ch, m)]) s = .next t ∧ Claims.replied s t 0 q c 0 0 0 ∧ Claims.quiet s t ∧
      let w := (NMap.get 0 t.mem.mstMargin (32 * (c.arg 8 1 % 8) + ch)).toNat
      w % 64 = m.rdEarly.toNat ∧ w / 2 ^ 6 % 64 = m.rdLate.toNat ∧ w / 2 ^ 12 % 64 = m.rdVlo.toNat ∧
      w / 2 ^ 18 % 64 = m.rdVhi.toNat ∧ w / 2 ^ 48 % 128 = m.worstPin.toNat ∧ w / 2 ^ 55 % 2 = 1 ∧
      (bitOf (c.arg 8 1) 3 = true → w / 2 ^ 24 % 64 = m.wrEarly.toNat ∧ w / 2 ^ 56 % 2 = 1 ∧
        w / 2 ^ 57 % 8 = m.vqLo.toNat ∧ w / 2 ^ 60 % 8 = m.vqHi.toNat))

/-! ### Links and Rope Transport (R360-R395) -/

/-- A job's frames can be sealed on a link: it has a key in its active slot, whose counter has not run out (R369-R371). -/
def Sys2Proof.Claims.keyed (s : State) (l : Nat) (id : BitVec 32) : Prop :=
  ∃ j k, s.job id = some j ∧ j.key j.active = some k ∧ NMap.get 0 (s.link l).txCtr (2 * id.toNat + b2n j.active) < ctrEnd

/-- One ACK, CNP, HELLO or ECHO went out on a link, and nothing else. -/
def Sys2Proof.Claims.sentCtl (s t : State) (l : Nat) (ty : BitVec 4) (reply : Bool) (psn : BitVec 32) (payload : List Byte) : Prop :=
  ∃ fr, t.out = s.out ++ [.frame l fr] ∧ fr.ftype = ty ∧ fr.flags.getLsbD 2 = reply ∧ fr.jobId = 0 ∧ fr.psn = psn ∧
    fr.payload = payload ∧ fr.srcId = (s.link l).localMac ∧ fr.len = BitVec.ofNat 16 payload.length ∧ fr.resv = 0

/-- One reliable frame went out again on a link: the same job, PSN and payload, with RETX set and the next TX_CTR (R376). -/
def Sys2Proof.Claims.sentAgain (s t : State) (l : Nat) (fr : Frame) : Prop :=
  ∃ x j, t.out = s.out ++ [.frame l x] ∧ s.job fr.jobId = some j ∧ x.ftype = fr.ftype ∧ x.flags.getLsbD 1 = true ∧ x.jobId = fr.jobId ∧
    x.psn = fr.psn ∧ x.payload = fr.payload ∧ x.collSeq = fr.collSeq ∧ x.step = fr.step ∧ x.offset = fr.offset ∧
    x.txCtr = BitVec.ofNat 48 (NMap.get 0 (s.link l).txCtr (2 * fr.jobId.toNat + b2n j.active)) ∧
    (t.link l).errs = (s.link l).errs.modify 6 fun n => satAdd n 1 0xFFFF

/-- The command that a link's wires work for stands alone in its queue, started. -/
def Sys2Proof.Claims.linkWorks (s : State) (l f q : Nat) (c : Cmd) (w : LinkWork) : Prop :=
  (s.link l).work = some (⟨f, q, c.seq⟩, w) ∧ (s.queue f q).cmds = [c] ∧ (s.queue f q).state = 1 ∧ s.cfgBusy = some ⟨f, q, c.seq⟩

/-- LINK_CONFIG, LINK_TRAIN, LINK_DOWN, LINK_SWEEP (R362-R366, R381-R383): a link holds the configuration given, goes DOWN
unqualified where its PHY changes and to PHY_UP for any other change; training shows TRAINING, then where asked QUALIFYING,
then negotiation under the fabric key, and each failure leaves it FAILED with its cause; a sweep shows SWEEPING and leaves
its lanes' registers. -/
def Obligations.LinkCommands : Prop :=
  (∀ (s : State) (q : Nat) (c : Cmd), Claims.Waiting s 0 q c → c.opcode = 0x40 →
    Claims.sound_ s 0 c true false [(8, 0, 8), (9, 0, 3), (10, 0, 48), (16, 0, 128), (32, 0, 128), (48, 0, 16), (50, 0, 48)] →
    let l := c.link
    let lk := s.link l
    l < 64 → c.arg 9 1 / 2 % 4 ≠ 3 → linkUsed s l = false → tokensBusy s (linkHold c none) = false →
    ∃ t, exec (.linkConfig 0 q) s = .next t ∧ Claims.replied s t 0 q c 0 0 0 ∧ Claims.quiet s t ∧
      (t.link l).configured = true ∧ (t.link l).phy = bitOf (c.arg 9 1) 0 ∧ (t.link l).encap = BitVec.ofNat 2 (c.arg 9 1 / 2) ∧
      (t.link l).peerMac = BitVec.ofNat 48 (c.arg 10 6) ∧ (t.link l).localMac = BitVec.ofNat 48 (c.arg 50 6) ∧
      (t.link l).localIp = BitVec.ofNat 128 (c.arg 16 16) ∧ (t.link l).peerIp = BitVec.ofNat 128 (c.arg 32 16) ∧
      (t.link l).udpPort = BitVec.ofNat 16 (c.arg 48 2) ∧
      (lk.phy ≠ bitOf (c.arg 9 1) 0 → (t.link l).st = 0 ∧ (t.link l).qualified = false) ∧
      (lk.phy = bitOf (c.arg 9 1) 0 → (t.link l).qualified = lk.qualified ∧
        (configured lk c ≠ { lk with configured := true } → (t.link l).st = 3) ∧
        (configured lk c = { lk with configured := true } → t.link l = { lk with configured := true })) ∧
      ∀ k, k ≠ l → t.link k = s.link k) ∧
  (∀ (s : State) (q : Nat) (c : Cmd) (w : TrainResult), Claims.Waiting s 0 q c → c.opcode = 0x41 →
    Claims.sound_ s 0 c true false [(8, 0, 8), (9, 0, 1)] →
    let l := c.link
    let qualify := bitOf (c.arg 9 1) 0
    l < 64 → tokensBusy s (linkHold c none) = false → (s.link l).configured = true → (qualify = true ∨ (s.link l).qualified = true) →
    ∃ t, exec (.linkTrain 0 q w) s = .next t ∧ Claims.underway s t 0 q c ∧ Claims.quiet s t ∧ t.out = s.out ∧
      (t.link l).st = 1 ∧ (t.link l).work = some (⟨0, q, c.seq⟩, .train qualify w) ∧ ∀ k, k ≠ l → t.link k = s.link k) ∧
  (∀ (s : State) (l f q : Nat) (c : Cmd) (qualify : Bool) (w : TrainResult), Claims.linkWorks s l f q c (.train qualify w) →
    let t := nextLink s l
    let pass := w.locked && w.laneErrors.all fun e => decide (e * 100000 < laneBits)
    let fails (cause : BitVec 3) : Prop := (t.link l).st = 7 ∧ (t.link l).failCause = cause ∧ Claims.replied s t f q c 0x15 0 0
    let goesOn : Prop := (s.job 0 = none → fails 6) ∧
      (Claims.keyed s l 0 → (t.link l).st = 4 ∧ (t.link l).negStart = s.time ∧ (t.link l).train = some ⟨f, q, c.seq⟩ ∧
        (t.queue f q).cmds = [c] ∧ Claims.sentCtl s t l tHello false 0 [1, 1, 0x00, 0x10, BitVec.ofNat 8 l, 0, 0, 0])
    Claims.quiet s t ∧ (∀ k, k ≠ l → t.link k = s.link k) ∧
    ((s.link l).st = 1 → (w.trained = false → fails 1) ∧
      (w.trained = true → qualify = true → (t.link l).st = 2 ∧ (t.link l).work = (s.link l).work) ∧
      (w.trained = true → qualify = false → goesOn)) ∧
    ((s.link l).st = 2 → (t.link l).qualified = pass ∧ (w.locked = false → fails 4) ∧
      (w.locked = true → pass = false → fails 3) ∧ (pass = true → goesOn))) ∧
  (∀ (s : State) (q : Nat) (c : Cmd), Claims.Waiting s 0 q c → c.opcode = 0x42 → Claims.sound_ s 0 c true false [(8, 0, 8)] →
    let l := c.link
    l < 64 → tokensBusy s (linkHold c none) = false →
    ∃ t, exec (.linkDown 0 q) s = .next t ∧ Claims.replied s t 0 q c 0 0 0 ∧ Claims.quiet s t ∧ (t.link l).st = 0 ∧
      ((s.link l).rope = false → (t.link l).txq = [] ∧ (t.link l).unacked = []) ∧ (∀ k, k ≠ l → t.link k = s.link k) ∧
      ∀ k, (s.link l).st = 5 → (s.engine k).busy = true → (s.engine k).ends = none → (s.engine k).linkMask.getLsbD l = true →
        (t.engine k).ends = some 0x15) ∧
  (∀ (s : State) (q : Nat) (locked : Bool) (lanes : List SweepLane) (c : Cmd), Claims.Waiting s 0 q c → c.opcode = 0x43 →
    Claims.sound_ s 0 c true false [(8, 0, 8)] →
    let l := c.link
    l < 64 → tokensBusy s (linkHold c none) = false → ((s.link l).st = 3 ∨ (s.link l).st = 5) → linkUsed s l = false →
    ∃ t, exec (.linkSweep 0 q locked lanes) s = .next t ∧ Claims.underway s t 0 q c ∧ Claims.quiet s t ∧ (t.link l).st = 6 ∧
      (t.link l).work = some (⟨0, q, c.seq⟩, .sweep locked lanes) ∧
      ∀ x ∈ (t.link l).sweep, x.points = 0 ∧ x.complete = false ∧ x.aborted = false) ∧
  (∀ (s : State) (l f q : Nat) (c : Cmd) (locked : Bool) (a b d e : SweepLane),
    Claims.linkWorks s l f q c (.sweep locked [a, b, d, e]) → (s.link l).st = 6 →
    let t := nextLink s l
    Claims.quiet s t ∧ (t.link l).work = none ∧
    (t.link l).sweep = [a, b, d, e].map (fun x => {
      tEarly := x.tEarly, tLate := x.tLate, vLo := x.vLo, vHi := x.vHi, points := if locked then 512 else min x.points 512
      complete := locked, aborted := !locked }) ∧
    (locked = true → (t.link l).st = 3 ∧ Claims.replied s t f q c 0 0 0) ∧
    (locked = false → (t.link l).st = 0 ∧ (t.link l).qualified = false ∧ (t.link l).failCause = 4 ∧ Claims.replied s t f q c 0x15 0 0))

/-- KEY_SET, COLLECTIVE, COLLECTIVE_COMPLETE (R369-R371, R387, R388, R394, R395): a key installed is its job's active one with
its counters at 0 on every link, and one cleared is gone, the job with its last; a collective takes an engine and
reads its images; an engine that is done, or that ended early, replies and is free, its conditions ORed. -/
def Obligations.KeysAndCollectives : Prop :=
  (∀ (s : State) (q : Nat) (c : Cmd), Claims.Waiting s 0 q c → c.opcode = 0x44 →
    Claims.sound_ s 0 c true false [(8, 0, 32), (12, 0, 2), (16, 0, 256)] →
    let id := BitVec.ofNat 32 (c.arg 8 4)
    let slot := bitOf (c.arg 12 1) 0
    keyRefusals s (c.partN 0) c = [] →
    (bitOf (c.arg 12 1) 1 = true → NMap.wf {} s.lnk.links = true →
      (∀ l, (s.link l).txq = [] ∧ (s.link l).ctlq = [] ∧ ∀ x ∈ (s.link l).unacked, x.again = false) →
      ∃ t j, exec (.keySet 0 q) s = .next t ∧ Claims.replied s t 0 q c 0 0 0 ∧ Claims.quiet s t ∧ t.out = s.out ∧
        t.job id = some j ∧ j.key slot = some (BitVec.ofNat 256 (c.arg 16 32)) ∧ j.active = slot ∧
        j.key (!slot) = (s.job id).bind (fun x => x.key !slot) ∧ (∀ i, i ≠ id → t.job i = s.job i) ∧
        (∀ l, NMap.get 0 (t.link l).txCtr (2 * id.toNat + b2n slot) = 0) ∧
        ∀ l k, k ≠ 2 * id.toNat + b2n slot → NMap.get 0 (t.link l).txCtr k = NMap.get 0 (s.link l).txCtr k) ∧
    (bitOf (c.arg 12 1) 1 = false →
      ∃ t, exec (.keySet 0 q) s = .next t ∧ Claims.replied s t 0 q c 0 0 0 ∧ Claims.quiet s t ∧ t.lnk.links = s.lnk.links ∧
        (∀ j, t.job id = some j → j.key slot = none) ∧ (∀ i, i ≠ id → t.job i = s.job i) ∧
        ∀ j, s.job id = some j → j.key (!slot) = none → id ≠ 0 → (∀ e ∈ s.lnk.engines, e.2.busy = true → e.2.job ≠ id) →
          t.job id = none)) ∧
  (∀ (s : State) (f q k : Nat) (c : Cmd), Claims.Waiting s f q c → c.opcode = 0x48 →
    Claims.sound_ s f c false true [(8, 0, 8), (12, 0, 32), (16, 0, 64), (24, 0, 64), (32, 0, 64), (40, 0, 32)] →
    let p := c.partN f
    p < 64 → freeEngine s = some k → collectiveReady s p c = true → collectiveRefusals s p c = [] →
    rangeOf (c.arg 16 8) = .hostWin → rangeOf (c.arg 24 8) = .hostWin →
    ∃ t, exec (.collective f q) s = .next t ∧ Claims.underway s t f q c ∧ Claims.quiet s t ∧
      t.out = s.out ++ [.hostRead s.hrNext (p + 1) [(c.arg 16 8 - hostBase, 128), (c.arg 24 8 - hostBase, 128)]] ∧
      t.engine k = {
        busy := true, cmd := ⟨f, q, c.seq⟩, part := p, op := c.arg 8 1, job := BitVec.ofNat 32 (c.arg 12 4), root := c.arg 40 4
        linkMask := BitVec.ofNat 64 (c.arg 32 8), handle := BitVec.ofNat 16 (c.field 4 2) } ∧
      ∀ j, j ≠ k → t.engine j = s.engine j) ∧
  (∀ (s : State) (k f q : Nat) (c : Cmd),
    let e := s.engine k
    e.busy = true → e.cmd = ⟨f, q, c.seq⟩ → (s.queue f q).cmds = [c] → (s.queue f q).state = 1 → s.cfgBusy = none →
    (∀ st, e.ends = some st →
      ∃ t, exec (.collectiveComplete k) s = .next t ∧ Claims.replied s t f q c st 0 0 ∧ Claims.quiet s t ∧ (t.engine k).busy = false ∧
        NMap.get 0 t.lnk.collFlags e.part = NMap.get 0 s.lnk.collFlags e.part ||| BitVec.ofNat 8 (e.flags.toNat + 128 * b2n e.dup)) ∧
    (e.ends = none → collDone s k = true →
      ∃ t, exec (.collectiveComplete k) s = .next t ∧ Claims.replied s t f q c (if e.dup then 0x06 else 0) 0 0 ∧ Claims.quiet s t ∧
        (t.engine k).busy = false ∧
        NMap.get 0 t.lnk.collFlags e.part = NMap.get 0 s.lnk.collFlags e.part ||| BitVec.ofNat 8 (e.flags.toNat + 128 * b2n e.dup)))

/-- A frame of a type that a READY link accepts (R372), not marked CE. -/
def Sys2Proof.Claims.received (s : State) (l : Nat) (fr : Frame) (ty : BitVec 4) : Prop :=
  (s.link l).st = 5 ∧ rxCheck s l fr = none ∧ fr.ftype = ty ∧ markedCe (s.link l) fr.outer = false

/-- A frame that the receive window takes in order, with no acknowledgement due yet (R375). -/
def Sys2Proof.Claims.inOrder (s : State) (l : Nat) (fr : Frame) : Prop :=
  (s.link l).got = [] ∧ fr.psn = (s.link l).cum ∧ (s.link l).sinceAck < 15

/-- DATA, START, ACK, CNP, HELLO, ECHO (R372-R380, R389): a frame that fails a check is counted there and discarded; the
window takes a new frame once, keeps its place and acknowledges gaps and repeats; elements go to their collective, a
START makes its sender a neighbour; an ACK frees what it names, samples the round trip and has missing frames sent
again; a CNP lowers the rate; a HELLO opens or fails the session; an ECHO is answered, or measures. -/
def Obligations.FramesReceived : Prop :=
  (∀ (s : State) (l k : Nat) (fr : Frame), (s.link l).listens = true → rxCheck s l fr = some k →
    exec (.data l fr) s = .next (countErr s l k) ∧ exec (.start l fr) s = .next (countErr s l k) ∧
    exec (.ack l fr) s = .next (countErr s l k) ∧ exec (.cnp l fr) s = .next (countErr s l k) ∧
    exec (.hello l fr) s = .next (countErr s l k) ∧ exec (.echo l fr) s = .next (countErr s l k)) ∧
  (∀ (s : State) (l : Nat) (fr : Frame), Claims.received s l fr tData → fr.jobId ≠ 0 → engineOf s fr.jobId fr.collSeq = none →
    let lk := s.link l
    let d := (fr.psn - lk.cum).toNat
    (Claims.inOrder s l fr →
      ∃ t, exec (.data l fr) s = .next t ∧ (t.link l).cum = lk.cum + 1 ∧ (t.link l).got = [] ∧ (t.link l).sinceAck = lk.sinceAck + 1 ∧
        t.out = s.out ∧ t.lnk.engines = s.lnk.engines ∧ Claims.quiet s t) ∧
    (0 < d → d < 256 → fr.psn ∉ lk.got → lk.cum ∉ lk.got → Claims.keyed s l 0 →
      ∃ t, exec (.data l fr) s = .next t ∧ (t.link l).cum = lk.cum ∧ (t.link l).got = fr.psn :: lk.got ∧ (t.link l).sinceAck = 0 ∧
        Claims.sentCtl s t l tAck false lk.cum (ackBitmap (t.link l)) ∧ Claims.quiet s t) ∧
    (2 ^ 32 - 256 ≤ d → Claims.keyed s l 0 →
      ∃ t, exec (.data l fr) s = .next t ∧ (t.link l).cum = lk.cum ∧ (t.link l).got = lk.got ∧
        (t.link l).errs = lk.errs.modify 5 (fun n => satAdd n 1 0xFFFF) ∧
        Claims.sentCtl s t l tAck false lk.cum (ackBitmap lk) ∧ Claims.quiet s t)) ∧
  (∀ (s : State) (l k kr : Nat) (r : Ring) (fr : Frame), Claims.received s l fr tData → fr.jobId ≠ 0 →
    engineOf s fr.jobId fr.collSeq = some k → Claims.inOrder s l fr →
    let e := s.engine k
    let w := e.itemBits (e.listAt fr.step.toNat true).2
    let items := ((e.listAt fr.step.toNat true).1.drop (fr.offset.toNat * 8 / w)).take (fr.payload.length * 8 / w)
    e.ends = none → e.stage = 2 → 2 ≤ e.op → e.linkMask.getLsbD l = true → e.ringOf fr.step.toNat = some (kr, r) →
    (∀ p ∈ e.peers, p.link = l → p.dim = r.g ∧ p.plus = false) →
    ∃ t, exec (.data l fr) s = .next t ∧ (t.link l).cum = (s.link l).cum + 1 ∧
      ∀ i < items.length, NMap.get none (t.engine k).have_ (items.getD i 0) = some (leNat fr.payload / 2 ^ (i * w) % 2 ^ w)) ∧
  (∀ (s : State) (l : Nat) (fr : Frame), Claims.received s l fr tStart → Claims.inOrder s l fr →
    (engineOf s fr.jobId fr.collSeq = none → instEnded s fr.jobId fr.collSeq = false → (s.link l).early.length < 16 →
      ∃ t, exec (.start l fr) s = .next t ∧ (t.link l).early = (s.link l).early ++ [fr] ∧ (t.link l).cum = (s.link l).cum + 1 ∧
        t.lnk.engines = s.lnk.engines ∧ Claims.quiet s t) ∧
    (∀ k, engineOf s fr.jobId fr.collSeq = some k →
      let e := s.engine k
      let sd := BitVec.ofNat 512 (leNat (fr.payload.take 64))
      let dd := BitVec.ofNat 512 (leNat ((fr.payload.drop 64).take 64))
      e.ends = none → e.linkMask.getLsbD l = true → (∀ p ∈ e.peers, p.link ≠ l) →
      (fr.payload.length ≠ 136 ∨ sansCoord sd ≠ sansCoord e.srcD ∨ sansCoord dd ≠ sansCoord e.dstD →
        ∃ t, exec (.start l fr) s = .next t ∧ (t.engine k).ends = some 0x13) ∧
      (∀ x, fr.payload.length = 136 → sansCoord sd = sansCoord e.srcD → sansCoord dd = sansCoord e.dstD →
        leNat ((fr.payload.drop 128).take 1) = e.op → leNat ((fr.payload.drop 132).take 4) = e.root →
        peerOf e.sd (dImg sd) l = some x →
        ∃ t, exec (.start l fr) s = .next t ∧ (t.engine k).peers = e.peers ++ [x] ∧ (t.link l).cum = (s.link l).cum + 1))) ∧
  (∀ (s : State) (l : Nat) (fr : Frame), Claims.received s l fr tAck → (s.link l).txq = [] → (s.link l).ctlq = [] →
    ((∀ b ∈ fr.payload.take 32, b = 0) → (∀ x ∈ (s.link l).unacked, x.again = false) →
      ∃ t, exec (.ack l fr) s = .next t ∧
        (t.link l).unacked = (s.link l).unacked.filter (fun x => decide ((x.fr.psn - fr.psn).toNat < 2 ^ 31)) ∧
        (∀ x, (s.link l).unacked = [x] → x.sends = 1 → 2 ^ 31 ≤ (x.fr.psn - fr.psn).toNat →
          (t.link l).srtt = some ((7 * (s.link l).srtt.getD 20000 + (s.time - x.sentAt).toNat) / 8)) ∧
        (t.link l).rate = (s.link l).rate ∧ t.out = s.out ∧ Claims.quiet s t) ∧
    (∀ x, let d := (x.fr.psn - fr.psn).toNat
      let bm := leNat (fr.payload.take 32)
      (s.link l).unacked = [x] → d < 256 → bitOf bm d = false → 3 ≤ popCount (bm >>> (d + 1)) 256 → x.sends = 1 →
      Claims.keyed s l x.fr.jobId → jobPart s x.fr.jobId = txPart x →
      (∀ u, (s.link l).lastCut = some u → 20000 ≤ (s.time - u).toNat) →
      ∃ t, exec (.ack l fr) s = .next t ∧ Claims.sentAgain s t l x.fr ∧ (t.link l).rate = max 1000 ((s.link l).rate * 7 / 8) ∧
        Claims.quiet s t)) ∧
  (∀ (s : State) (l : Nat) (fr : Frame), Claims.received s l fr tCnp →
    ∃ t, exec (.cnp l fr) s = .next t ∧ t.out = s.out ∧ Claims.quiet s t ∧
      ((∀ u, (s.link l).lastCut = some u → 20000 ≤ (s.time - u).toNat) →
        (t.link l).rate = max 1000 ((s.link l).rate * 7 / 8) ∧ (t.link l).lastCut = some s.time) ∧
      (∀ u, (s.link l).lastCut = some u → (s.time - u).toNat < 20000 → t.link l = s.link l)) ∧
  (∀ (s : State) (l : Nat) (fr : Frame), rxCheck s l fr = none → fr.ftype = tHello → markedCe (s.link l) fr.outer = false →
    let lo := fr.payload.getD 0 0
    let hi := fr.payload.getD 1 0
    ((s.link l).st = 4 → fr.flags.getLsbD 2 = true → lo ≤ 1 → 1 ≤ hi → (s.link l).rope = false → (s.link l).train = none →
      ∃ t, exec (.hello l fr) s = .next t ∧ (t.link l).st = 5 ∧ (t.link l).version = 1 ∧ (t.link l).rate = payloadRate s ∧
        (t.link l).psn = 0 ∧ (t.link l).cum = 0 ∧ (t.link l).got = [] ∧ (t.link l).unacked = [] ∧ (t.link l).txq = [] ∧ Claims.quiet s t) ∧
    ((s.link l).st = 4 → hi = 0 ∨ 1 < lo →
      ∃ t, exec (.hello l fr) s = .next t ∧ (t.link l).st = 7 ∧ (t.link l).failCause = 2 ∧ Claims.quiet s t) ∧
    ((s.link l).st = 5 → fr.flags.getLsbD 2 = false →
      ∃ t, exec (.hello l fr) s = .next t ∧ (t.link l).st = 7 ∧ (t.link l).failCause = 4 ∧ Claims.quiet s t)) ∧
  (∀ (s : State) (l : Nat) (fr : Frame), Claims.received s l fr tEcho →
    (fr.flags.getLsbD 2 = false → Claims.keyed s l 0 →
      ∃ t, exec (.echo l fr) s = .next t ∧ Claims.quiet s t ∧
        Claims.sentCtl s t l tEcho true 0 (fr.payload.take 8 ++ leBytes s.time.toNat 8 ++ leBytes s.time.toNat 8)) ∧
    (fr.flags.getLsbD 2 = true →
      let t1 : Int := leNat (fr.payload.take 8)
      let t2 : Int := leNat ((fr.payload.drop 8).take 8)
      let t3 : Int := leNat ((fr.payload.drop 16).take 8)
      let t4 : Int := s.time.toNat
      ∃ t, exec (.echo l fr) s = .next t ∧ t.out = s.out ∧ Claims.quiet s t ∧
        t.link l = { s.link l with
          rtt := BitVec.ofInt 24 ((t4 - t1) - (t3 - t2)), offset := BitVec.ofInt 32 (((t2 - t1) + (t3 - t4)) / 2), timeValid := true }))

/-! ### The roped pair (R396-R420) -/

/-- ROPE_FORM, ROPE_MIRROR, ROPE_FAILOVER, ROPE_DISSOLVE (R398, R402, R412, R416): a form sets out with its epoch and role, or is
refused with its reason; a mirror entry holds what the packet gives; a failover takes the epoch and shows FAILOVER, then discards
what is not complete and leaves the pair UNPAIRED with the last complete mirror epoch as its result; a dissolve leaves it UNPAIRED. -/
def Obligations.RopeCommands : Prop :=
  (∀ (s : State) (q : Nat) (c : Cmd), Claims.Waiting s 0 q c → c.opcode = 0x50 → Claims.sound_ s 0 c true false [(8, 0, 1), (16, 0, 64)] →
    let epoch := BitVec.ofNat 64 (c.arg 16 8)
    let second := bitOf (c.arg 8 1) 0
    (epoch.toNat < s.rope.epoch.toNat →
      ∃ t, exec (.ropeForm 0 q) s = .next t ∧ Claims.replied s t 0 q c 0x14 0 0 ∧ t.rope.st = s.rope.st ∧ t.rope.epoch = s.rope.epoch ∧
        Claims.quiet s t) ∧
    (s.rope.epoch.toNat ≤ epoch.toNat → s.rope.st ≠ 0 →
      ∃ t, exec (.ropeForm 0 q) s = .next t ∧ Claims.replied s t 0 q c 0x15 0 0 ∧ t.rope = { s.rope with refusal := 5 } ∧ Claims.quiet s t) ∧
    (s.rope.epoch.toNat ≤ epoch.toNat → s.rope.st = 0 → (∃ l ∈ ropeLinks, (s.link l).st ≠ 5) →
      ∃ t, exec (.ropeForm 0 q) s = .next t ∧ Claims.replied s t 0 q c 0x15 0 0 ∧ t.rope = { s.rope with refusal := 1 } ∧ Claims.quiet s t) ∧
    (s.rope.epoch.toNat ≤ epoch.toNat → s.rope.st = 0 → (∀ l ∈ ropeLinks, (s.link l).st = 5) →
      (second = true → ∀ p ∈ s.parts, ∀ a ∈ p.2.allocs, a.2.typ ≠ 0 → spansMeet a.2.base a.2.size stagingStart stagingSize = false) →
      ∃ t, exec (.ropeForm 0 q) s = .next t ∧ Claims.underway s t 0 q c ∧ t.rope.st = 1 ∧ t.rope.epoch = epoch ∧ t.rope.second = second ∧
        t.rope.cmd = some ⟨0, q, c.seq⟩ ∧ t.rope.formStart = s.time ∧ (∀ l ∈ ropeLinks, (t.link l).rope = true) ∧ Claims.quiet s t)) ∧
  (∀ (s : State) (q : Nat) (bad : Bool) (c : Cmd), Claims.Waiting s 0 q c → c.opcode = 0x51 →
    Claims.sound_ s 0 c true false [(8, 0, 4), (9, 0, 1), (16, 0, 128)] → mirrorRefusals bad s (c.partN 0) c = [] →
    ∃ t, exec (.ropeMirror 0 q bad) s = .next t ∧ Claims.replied s t 0 q c 0 0 0 ∧ Claims.quiet s t ∧ t.rope = s.rope ∧
      NMap.get {} t.mem.mirrors (c.arg 8 1 % 16) =
        (if bitOf (c.arg 9 1) 0 then { base2m := c.arg 16 8 / 0x200000, size2m := c.arg 24 8 / 0x200000, valid := true } else {}) ∧
      ∀ e, e ≠ c.arg 8 1 % 16 → NMap.get {} t.mem.mirrors e = NMap.get {} s.mem.mirrors e) ∧
  (∀ (s : State) (q : Nat) (c : Cmd), Claims.Waiting s 0 q c → c.opcode = 0x52 → Claims.sound_ s 0 c true false [(16, 0, 64)] →
    s.rope.st = 3 → s.rope.epoch.toNat < c.arg 16 8 →
    ∃ t, exec (.ropeFailover 0 q) s = .next t ∧ Claims.underway s t 0 q c ∧ Claims.quiet s t ∧ t.rope.st = 4 ∧
      t.rope.cmd = some ⟨0, q, c.seq⟩ ∧ t.rope.epoch = BitVec.ofNat 64 (c.arg 16 8) ∧ (∀ l ∈ ropeLinks, (t.link l).rope = false) ∧
      (∀ x ∈ t.rope.placed, x.1 ≤ lastWhole s) ∧ lastWhole t = lastWhole s) ∧
  (∀ (s : State) (f q : Nat) (c : Cmd), s.rope.st = 4 → s.rope.cmd = some ⟨f, q, c.seq⟩ → (s.queue f q).cmds = [c] →
    (s.queue f q).state = 1 → s.cfgBusy = some ⟨f, q, c.seq⟩ →
    let t := endFailover s
    Claims.replied s t f q c 0 (BitVec.ofNat 64 (lastWhole s)) 0 ∧ t.rope.st = 0 ∧ t.rope.epoch = s.rope.epoch ∧ t.rope.cmd = none ∧
    t.rope.placed = [] ∧ t.rope.stagedState = [] ∧ t.rope.apply = none ∧ t.rope.jFirst = journalFirst s (lastWhole s) ∧
    ∀ p < 64, (t.part p).st = if bitOf (ByteMap.readNat t.rope.image (512 * p) 1) 0 then .idle else .absent) ∧
  (∀ (s : State) (q : Nat) (c : Cmd), Claims.Waiting s 0 q c → c.opcode = 0x53 → Claims.sound_ s 0 c true false [] →
    s.rope.st = 2 ∨ s.rope.st = 3 →
    ∃ t, exec (.ropeDissolve 0 q) s = .next t ∧ Claims.replied s t 0 q c 0 0 0 ∧ t.rope.st = 0 ∧ t.rope.epoch = s.rope.epoch ∧
      t.rope.journal = [] ∧ (∀ l ∈ ropeLinks, (t.link l).rope = false) ∧ t.mem.dirty = [] ∧ Claims.quiet s t)

/-- A record that a device of a pair takes: on a rope link, well formed, of the epoch held (R400). -/
def Sys2Proof.Claims.taken (s : State) (r : RopeRec) : Prop :=
  (s.link r.link).rope = true ∧ r.resvOk = true ∧ r.epoch = s.rope.epoch

/-- The same state with the rope registers that `f` gives. -/
def Sys2Proof.Claims.withRope (s : State) (f : Rope → Rope) : State := { s with rope := f s.rope }

/-- The rope records (R398-R401, R403, R408-R411, R416): of another epoch, or with no pair, they are only counted; a FORM of
the other role makes the pair; pages and state bytes are staged; the END that makes an epoch whole acknowledges it; an ACK
closes it on the leader; a JOURNAL record takes its slot; a BEAT is only heard; a DISSOLVE unpairs. -/
def Obligations.RopeRecords : Prop :=
  (∀ (s : State) (r : RopeRec), (s.link r.link).rope = true → r.resvOk = true → s.rope.st = 0 ∨ s.rope.st = 4 ∨ r.epoch ≠ s.rope.epoch →
    let t := Claims.withRope s fun x => { x with stale := satAdd x.stale 1 0xFFFF }
    exec (.page r) s = .next t ∧ exec (.journal r) s = .next t ∧ exec (.state r) s = .next t ∧ exec (.endRecord r) s = .next t ∧
    exec (.ropeAck r) s = .next t ∧ exec (.beat r) s = .next t ∧ exec (.dissolve r) s = .next t) ∧
  (∀ (s : State) (r : RopeRec), (s.link r.link).rope = false →
    exec (.form r) s = .next (countErr s r.link 2) ∧ exec (.page r) s = .next (countErr s r.link 2)) ∧
  (∀ (s : State) (r : RopeRec) (f q : Nat) (c : Cmd), s.rope.st = 1 → s.rope.cmd = some ⟨f, q, c.seq⟩ → (s.queue f q).cmds = [c] →
    (s.queue f q).state = 1 → s.cfgBusy = some ⟨f, q, c.seq⟩ →
    (Claims.taken s r → r.arg.getLsbD 0 ≠ s.rope.second →
      ∃ t, exec (.form r) s = .next t ∧ t.rope.st = (if s.rope.second then 3 else 2) ∧ t.rope.open_ = 1 ∧ t.rope.done = 0 ∧
        t.rope.jNext = 0 ∧ t.mem.mirrors = [] ∧ Claims.replied s t f q c 0 0 0 ∧ Claims.quiet s t) ∧
    (Claims.taken s r → r.arg.getLsbD 0 = s.rope.second →
      ∃ t, exec (.form r) s = .next t ∧ t.rope.st = 0 ∧ t.rope.refusal = 3 ∧ Claims.replied s t f q c 0x15 0 0 ∧ Claims.quiet s t) ∧
    ((s.link r.link).rope = true → r.resvOk = true → s.rope.epoch.toNat < r.epoch.toNat →
      ∃ t, exec (.form r) s = .next t ∧ t.rope.st = 0 ∧ Claims.replied s t f q c 0x14 0 0 ∧ Claims.quiet s t) ∧
    (1000000000 ≤ (s.time - s.rope.formStart).toNat →
      ∃ t, exec .formTimer s = .next t ∧ t.rope.st = 0 ∧ t.rope.refusal = 2 ∧ Claims.replied s t f q c 0x15 0 0)) ∧
  (∀ (s : State) (r : RopeRec), Claims.taken s r → s.rope.st = 3 → s.rope.done < r.mepoch.toNat →
    let e := r.mepoch.toNat
    (NMap.get none s.rope.endCount (s.rope.done + 1) = none → (∀ x ∈ s.rope.placed, x.1 = e → x.2.2.1 ≠ r.seq.toNat) →
      exec (.page r) s = .next {
        (Claims.withRope s fun x => { x with
          lastHeard := s.time, placed := x.placed ++ [(e, 2, r.seq.toNat, r.arg.toNat)] }) with
        mem := uncachedWrite s.mem s.time (s.ways 64) (stagingBase e + 2048 * r.seq.toNat) r.data } ∧
      exec (.state r) s = .next (Claims.withRope s fun x => { x with
        lastHeard := s.time, stagedState := x.stagedState ++ [(e, r.arg.toNat, r.data)]
        placed := x.placed ++ [(e, 4, r.seq.toNat, r.arg.toNat)] })) ∧
    (e = s.rope.done + 1 → s.rope.apply = none → (∀ n < r.arg.toNat, ∃ x ∈ s.rope.placed, x.1 = e ∧ x.2.2.1 = n) →
      exec (.endRecord r) s = .next (ropeSend (Claims.withRope s fun x => { x with
        lastHeard := s.time, endCount := NMap.set none x.endCount e (some r.arg.toNat), done := e, open_ := e + 1, apply := some e }) 6 e 0 e []))) ∧
  (∀ (s : State) (r : RopeRec), Claims.taken s r → s.rope.st = 3 →
    NMap.get none s.rope.windowIdx (r.arg.toNat % 131072) ≠ some r.arg.toNat →
    exec (.journal r) s = .next (Claims.withRope s fun x => { x with
      lastHeard := s.time, window := NMap.set [] x.window (r.arg.toNat % 131072) r.data
      windowIdx := NMap.set none x.windowIdx (r.arg.toNat % 131072) (some r.arg.toNat), jNext := max x.jNext (r.arg.toNat + 1) })) ∧
  (∀ (s : State) (r : RopeRec), Claims.taken s r → s.rope.st = 2 → s.rope.awaiting = true → r.arg.toNat + 1 = s.rope.open_ →
    ∃ t, exec (.ropeAck r) s = .next t ∧ t.rope.done = r.arg.toNat ∧ t.rope.awaiting = false ∧ t.rope.ackOverdue = false ∧
      t.rope.journal = s.rope.journal.filter (fun j => match j.doneEpoch with | some x => decide (r.arg.toNat < x) | none => true) ∧ Claims.quiet s t) ∧
  (∀ (s : State) (r : RopeRec), Claims.taken s r → s.rope.st = 2 ∨ s.rope.st = 3 →
    exec (.beat r) s = .next (Claims.withRope s fun x => { x with lastHeard := s.time }) ∧
    ∃ t, exec (.dissolve r) s = .next t ∧ t.rope.st = 0 ∧ t.rope.epoch = s.rope.epoch ∧ t.mem.dirty = [] ∧
      (∀ l ∈ ropeLinks, (t.link l).rope = false) ∧ Claims.quiet s t)

/-- The links' and the pair's own events (R364, R365, R373-R378, R380, R398, R399, R401, R405-R409, R411): an acknowledgement 2 µs
after the first unacknowledged frame; a timeout, once R376's time has passed, halves the rate and sends again, and the eighth in a
row fails the link; 20 µs without a decrease raise the rate by 2 GB/s; HELLO and ECHO every millisecond; a lane above 1e-5 sets the
alarm; loss of PHY lock fails the link. FORM every millisecond while forming and BEAT after 100 µs of silence; a cut opens the next
epoch and clears the dirty bits of what it copies; an apply empties the staging of its epoch; an ACK 10 ms late is noted; what a
link that left READY still held goes out on the others. -/
def Obligations.LinkAndRopeEvents : Prop :=
  (∀ (s : State) (l : Nat), (s.link l).st = 5 → 0 < (s.link l).sinceAck →
    (2000 ≤ (s.time - (s.link l).ackSince).toNat → Claims.keyed s l 0 →
      ∃ t, exec (.ackTimer l) s = .next t ∧ (t.link l).sinceAck = 0 ∧ Claims.quiet s t ∧
        Claims.sentCtl s t l tAck false (s.link l).cum (ackBitmap (s.link l))) ∧
    ((s.time - (s.link l).ackSince).toNat < 2000 → exec (.ackTimer l) s = .next s)) ∧
  (∀ (s : State) (l : Nat) (psn : BitVec 32) (x : TxFrame), (s.link l).st = 5 → (s.link l).unacked = [x] → x.fr.psn = psn → x.again = false →
    let first := match (s.link l).srtt with
      | none => 100000
      | some r => max 20000 (2 * r + 10000)
    min 10000000 (first * 2 ^ x.timeouts) ≤ (s.time - x.sentAt).toNat →
    (7 ≤ x.timeouts →
      ∃ t, exec (.retransmissionTimeout l psn) s = .next t ∧ (t.link l).st = 7 ∧ (t.link l).failCause = 5 ∧ Claims.quiet s t) ∧
    (x.timeouts < 7 → Claims.keyed s l x.fr.jobId → jobPart s x.fr.jobId = txPart x →
      ∃ t, exec (.retransmissionTimeout l psn) s = .next t ∧ Claims.sentAgain s t l x.fr ∧
        (t.link l).rate = max 1000 ((s.link l).rate / 2) ∧ (t.link l).lastRate = s.time ∧
        (t.link l).unacked = [{ x with timeouts := x.timeouts + 1, again := false, sentAt := s.time, sends := x.sends + 1 }] ∧ Claims.quiet s t)) ∧
  (∀ (s : State) (l : Nat), (s.link l).st = 5 →
    exec (.rateIncrease l) s = .next (if 20000 ≤ (s.time - (s.link l).lastRate).toNat then
      s.setLink l { s.link l with rate := min (100000 * coreClk s / 36) ((s.link l).rate + 2000), lastRate := s.time } else s)) ∧
  (∀ (s : State) (l : Nat), (s.link l).st = 4 →
    (1000000000 ≤ (s.time - (s.link l).negStart).toNat →
      ∃ t, exec (.helloTimer l) s = .next t ∧ (t.link l).st = 7 ∧ (t.link l).failCause = 4 ∧ Claims.quiet s t) ∧
    ((s.time - (s.link l).negStart).toNat < 1000000000 → 1000000 ≤ (s.time - (s.link l).helloAt).toNat → Claims.keyed s l 0 →
      ∃ t, exec (.helloTimer l) s = .next t ∧ (t.link l).st = 4 ∧ Claims.quiet s t ∧
        Claims.sentCtl s t l tHello (s.link l).helloSeen.isSome 0 [1, 1, 0x00, 0x10, BitVec.ofNat 8 l, 0, 0, 0])) ∧
  (∀ (s : State) (l : Nat), (s.link l).st = 5 → 1000000 ≤ (s.time - (s.link l).echoAt).toNat → Claims.keyed s l 0 →
    ∃ t, exec (.echoTimer l) s = .next t ∧ Claims.sentCtl s t l tEcho false 0 (leBytes s.time.toNat 8) ∧ Claims.quiet s t) ∧
  (∀ (s : State) (l : Nat) (lanes : List (Nat × Nat)), (s.link l).st = 3 ∨ (s.link l).st = 4 ∨ (s.link l).st = 5 →
    exec (.berEstimate l lanes) s = .next (if ∃ x ∈ lanes, x.2 < 100000 * x.1 then s.setLink l { s.link l with berAlarm := true } else s)) ∧
  (∀ (s : State) (l : Nat), (s.link l).st = 3 ∨ (s.link l).st = 4 ∨ (s.link l).st = 5 →
    ∃ t, exec (.lossOfPhyLock l) s = .next t ∧ (t.link l).st = 7 ∧ (t.link l).failCause = 7 ∧ Claims.quiet s t ∧
      ∀ k, k ≠ l → t.link k = s.link k) ∧
  (∀ (s : State), s.rope.st = 1 → (s.time - s.rope.formStart).toNat < 1000000000 →
    exec .formTimer s = .next (if 1000000 ≤ (s.time - s.rope.formAt).toNat then
      ropeSendAll (Claims.withRope s fun x => { x with formAt := s.time }) 1 (b2n s.rope.second) else s)) ∧
  (∀ (s : State) (l : Nat), s.rope.st = 2 ∨ s.rope.st = 3 → (s.link l).rope = true →
    exec (.beatTimer l) s = .next (if 100000 ≤ (s.time - (s.link l).lastTx).toNat then ropeSendOn s l 7 0 0 0 [] else s)) ∧
  (∀ (s : State), s.rope.st = 2 → s.rope.awaiting = false → ownedPages s.mem = [] →
    1000000 ≤ (s.time - s.rope.cutAt).toNat ∨ ropeLimit ≤ s.mem.syncedDirty →
    ∃ t, exec .cut s = .next t ∧ t.rope.open_ = s.rope.open_ + 1 ∧ t.rope.awaiting = true ∧ t.rope.cutAt = s.time ∧
      t.rope.done = s.rope.done ∧ t.cl = s.cl ∧ ∀ p ∈ copySet s.mem, ∀ e ∈ t.mem.dirty, e.1 ≠ p) ∧
  (∀ (s : State) (e : Nat), s.rope.st = 3 → s.rope.apply = some e → NMap.get none s.rope.endCount (s.rope.done + 1) = none →
    ∃ t, exec .epochApply s = .next t ∧ t.rope.apply = none ∧ t.rope.done = s.rope.done ∧
      t.rope.placed = s.rope.placed.filter (fun x => x.1 ≠ e) ∧ t.rope.stagedState = s.rope.stagedState.filter (fun x => x.1 ≠ e) ∧
      t.mem.mirrors = mirrorsOfImage t.rope.image ∧ t.cl = s.cl) ∧
  (∀ (s : State), s.rope.st = 2 → s.rope.awaiting = true →
    exec .ackOverdue s = .next (if 10000000 ≤ (s.time - s.rope.cutAt).toNat then
      Claims.withRope s fun x => { x with ackOverdue := true } else s)) ∧
  (∀ (s : State) (l : Nat), (s.link l).rope = true → (s.link l).st ≠ 5 → (∃ k ∈ ropeLinks, (s.link k).st = 5) →
    ∃ t, exec (.ropeResend l) s = .next t ∧ (t.link l).unacked = [] ∧ (t.link l).txq = [] ∧
      t.rope.resent = satAdd s.rope.resent (s.link l).unacked.length 0xFFFF ∧ Claims.quiet s t)

/-! ### Clocks, regulators, power and heat (R421-R480) -/

/-- A domain sets out for a new target from its present setpoint (R444). -/
def Sys2Proof.Claims.headed (s : State) (d v : Nat) (who : VIssuer) : Dom :=
  let x := s.dom d
  { x with vset := v, vnow := presentSet s x, slewAt := s.rst.sup, slewing := decide (presentSet s x ≠ v), held := none, issuer := who }

/-- What a domain tells when its target is replaced: the issuer of one in force or held, with the present setpoint (R444). -/
def Sys2Proof.Claims.superseded (s : State) (d : Nat) : List Out :=
  let x := s.dom d
  if x.slewing = true ∨ x.held.isSome = true then [.voltage x.issuer d .superseded (presentSet s x)] else []

/-- CLOCK_SET, POWER_SET, SLEW_COMPLETE, VOLTAGE_COMMAND, FAST_STEP, TIME_BASE_CORRECTION, CROSSING_TIMEOUT (R424-R428, R432,
R438, R439, R444, R459): a clock is applied within the variant's ceiling; on a rise the supplies go first, on a fall the PLL, by
50 MHz a microsecond, and the reply comes at the end; limits are clamped; a domain's target follows its command within its range
and, against its array, in order, and its issuer is told what became of it; the fast step follows its requests; a replica that is
behind takes the master's time; an access that hangs ends in an error. When a PLL step falls due between commands is the model's
choice (notes/assumptions/2.md). -/
def Obligations.ClocksAndSupplies : Prop :=
  (∀ (s : State) (q : Nat) (c : Cmd), Claims.Waiting s 0 q c → c.opcode = 0x30 → Claims.sound_ s 0 c true false [(8, 0, 16)] →
    let v := c.arg 8 2
    let a := min v s.variant.ceil
    let target := min a (min s.pwr.ceil s.pwr.thmCeil)
    (v < 12 → ∃ t, exec (.clockSet 0 q) s = .next t ∧ Claims.replied s t 0 q c 0x06 0 0 ∧ t.clk = s.clk ∧ t.pwr = s.pwr) ∧
    (12 ≤ v → s.clk.cmd = none → s.pwr.alert = 0 →
      ∃ t, exec (.clockSet 0 q) s = .next t ∧ t.clk.applied = a ∧ t.clk.target = target ∧ t.clk.now = s.clk.now ∧ Claims.quiet s t ∧
        (s.clk.now ≠ target → Claims.underway s t 0 q c ∧ t.clk.cmd.map Prod.fst = some ⟨0, q, c.seq⟩) ∧
        (s.clk.now < target → t.clk.stage = if suppliesSettled t then 3 else 1) ∧
        (target < s.clk.now → t.clk.stage = 4 ∧ t.clk.slewAt = s.time) ∧
        (s.clk.now = target → suppliesSettled t = true → t.clk.stage = 0 ∧ Claims.replied s t 0 q c 0 (BitVec.ofNat 64 a) 0))) ∧
  (∀ (s : State), (s.clk.stage = 3 → s.clk.now < s.clk.target) → (s.clk.stage = 4 → s.clk.target < s.clk.now) →
    (s.since s.clk.slewAt 1000 = false ∨ (s.clk.stage ≠ 3 ∧ s.clk.stage ≠ 4) → pllStep s = s) ∧
    (s.since s.clk.slewAt 1000 = true → s.clk.stage = 3 → (pllStep s).clk.now = s.clk.now + 1) ∧
    (s.since s.clk.slewAt 1000 = true → s.clk.stage = 4 → (pllStep s).clk.now = s.clk.now - 1) ∧
    (∀ f q c det, s.since s.clk.slewAt 1000 = true → s.clk.stage = 3 → s.clk.now + 1 = s.clk.target →
      s.clk.cmd = some (⟨f, q, c.seq⟩, det) → (s.queue f q).cmds = [c] → (s.queue f q).state = 1 → s.cfgBusy = some ⟨f, q, c.seq⟩ →
      (pllStep s).clk.stage = 0 ∧ Claims.replied s (pllStep s) f q c 0 (BitVec.ofNat 64 s.clk.applied) 0)) ∧
  (∀ (s : State) (q : Nat) (c : Cmd), Claims.Waiting s 0 q c → c.opcode = 0x31 →
    Claims.sound_ s 0 c true false [(8, 0, 16), (10, 0, 16)] →
    let sust := max 50 (min (c.arg 8 2) s.variant.sustCap)
    let fast := max sust (max 50 (min (c.arg 10 2) s.variant.fastCap))
    ∃ t, exec (.powerSet 0 q) s = .next t ∧ Claims.replied s t 0 q c 0 (BitVec.ofNat 64 (sust + fast * 65536)) 0 ∧ Claims.quiet s t ∧
      t.pwr = { s.pwr with sust := sust, fast := fast, pphase := t.pwr.pphase, phaseMoved := t.pwr.phaseMoved } ∧ t.clk = s.clk) ∧
  (∀ (s : State) (d : Nat), (s.dom d).st = 2 → (s.dom d).slewing = true → s.pwr.alert ≠ 2 →
    let x := s.dom d
    (s.clk.stage = 0 →
      ∃ t, exec (.slewComplete d) s = .next t ∧ (t.dom d).vnow = x.vset ∧ (t.dom d).slewing = false ∧ t.clk = s.clk ∧
        .voltage x.issuer d .complete x.vset ∈ t.out ∧ (logicOf d = none → ∀ k, k ≠ d → t.dom k = s.dom k) ∧
        (∀ l v, logicOf d = some l → (s.dom l).st = 2 → (s.dom l).held = some v → (t.dom l).vset = v ∧ (t.dom l).held = none) ∧
        Claims.quiet s t) ∧
    (s.clk.stage = 1 → s.clk.now < s.clk.target → suppliesSettled (domDone s d) = true →
      ∃ t, exec (.slewComplete d) s = .next t ∧ t.clk.stage = 3 ∧ t.clk.slewAt = s.time ∧ t.clk.now = s.clk.now ∧ Claims.quiet s t) ∧
    (∀ f q c det, s.clk.stage = 2 → s.clk.cmd = some (⟨f, q, c.seq⟩, det) → (s.queue f q).cmds = [c] → (s.queue f q).state = 1 →
      s.cfgBusy = some ⟨f, q, c.seq⟩ → suppliesSettled (domDone s d) = true →
      ∃ t, exec (.slewComplete d) s = .next t ∧ t.clk.now = s.clk.now ∧ t.clk.stage = 0 ∧
        Claims.replied s t f q c 0 (BitVec.ofNat 64 s.clk.applied) 0 ∧ Claims.quiet s t)) ∧
  (∀ (s : State) (d : Nat) (code : BitVec 9) (who : VIssuer), d < 10 → s.pwr.alert ≠ 2 →
    let x := s.dom d
    let v := clampCode d (if who = .coldStart then code.toNat else max code.toNat (curve (domKind d) (coreClk s)))
    let goes (d v : Nat) : Prop := ∃ t, exec (.voltageCommand d code who) s = .next t ∧ t.dom d = Claims.headed s d v who ∧
      (∀ k, k ≠ d → t.dom k = s.dom k) ∧ t.clk = s.clk ∧ Claims.quiet s t ∧
      t.out = s.out ++ Claims.superseded s d ++ (if presentSet s x = v then [.voltage who d .complete v] else [])
    (s.clk.stage = 0 →
      (x.st = 0 ∨ x.st = 4 → exec (.voltageCommand d code who) s = .next (s.send (.voltage who d .refused v))) ∧
      (x.st = 1 ∨ x.st = 3 → ∃ t, exec (.voltageCommand d code who) s = .next t ∧ t.dom d = { x with held := some v, issuer := who } ∧
        (∀ k, k ≠ d → t.dom k = s.dom k) ∧ t.clk = s.clk ∧ Claims.quiet s t ∧ t.out = s.out ++ Claims.superseded s d) ∧
      (∀ l, x.st = 2 → logicOf d = some l → goes d (max v (max (s.dom l).vset (s.dom l).goal))) ∧
      (∀ a, x.st = 2 → arrayOf d = some a → ((s.dom a).st = 0 ∨ (s.dom a).st = 4 ∨ v ≤ (s.dom a).goal) → goes d v) ∧
      (∀ a, x.st = 2 → arrayOf d = some a → (s.dom a).st = 2 → (s.dom a).goal < v → presentSet s (s.dom a) ≠ v →
        ∃ t, exec (.voltageCommand d code who) s = .next t ∧ t.dom a = Claims.headed s a v who ∧
          t.dom d = { x with held := some v, issuer := who } ∧ (∀ k, k ≠ d → k ≠ a → t.dom k = s.dom k) ∧ t.clk = s.clk ∧
          Claims.quiet s t ∧ t.out = s.out ++ Claims.superseded s a ++ Claims.superseded s d)) ∧
    (∀ f q c det, s.clk.stage = 1 → x.slewing = true → who ≠ .clockSet → s.clk.cmd = some (⟨f, q, c.seq⟩, det) →
      (s.queue f q).cmds = [c] → (s.queue f q).state = 1 → s.cfgBusy = some ⟨f, q, c.seq⟩ →
      ∃ t, exec (.voltageCommand d code who) s = .next t ∧ t.clk.stage = 0 ∧ t.clk.target = s.clk.now ∧ t.clk.now = s.clk.now ∧
        Claims.replied s t f q c 0 (BitVec.ofNat 64 s.clk.now) 0)) ∧
  (∀ (s : State), s.clk.pllLock = true →
    (∃ t, exec (.fastStep .regAlert (decide (s.pwr.alert ≠ 0))) s = .next t ∧ t.clk.fastReg = decide (s.pwr.alert ≠ 0) ∧
      t.clk.fast = (t.clk.fastReg || s.clk.fastTemp) ∧ t.clk.now = s.clk.now ∧ Claims.quiet s t) ∧
    (420 ≤ s.thm.tmax → ∃ t, exec (.fastStep .temperature true) s = .next t ∧ t.clk.fastTemp = true ∧ t.clk.fast = true ∧
      t.clk.now = s.clk.now ∧ Claims.quiet s t) ∧
    (s.thm.tmax ≤ 408 → 1000000 ≤ (s.time - s.thm.fastHot).toNat →
      ∃ t, exec (.fastStep .temperature false) s = .next t ∧ t.clk.fastTemp = false ∧ t.clk.fast = s.clk.fastReg ∧ Claims.quiet s t)) ∧
  (∀ (s : State), s.clk.tbLock = true →
    exec .timeBaseCorrection s = .next { s with time := if s.time < s.clk.master then s.clk.master else s.time }) ∧
  (∀ (s : State) (a : HangAccess), s.up = true → a.domain ∉ s.clk.stopped →
    ∃ t, exec (.crossingTimeout a) s = .next t ∧ t.clk.stopped = s.clk.stopped ++ [a.domain] ∧
      t.clk.hangs = satAdd s.clk.hangs 1 0xFFFF ∧ t.clk.hangValid = true ∧ t.clk.hangWrite = a.write ∧
      t.clk.hangDomain = BitVec.ofNat 9 a.domain ∧ t.clk.hangTime = s.time ∧ t.mem = s.mem ∧
      (a.requester = 1 → a.write = false → t.clk.hangOffset = a.offset ∧
        t.out = s.out ++ [.completion 0 (.data (List.replicate 8 0xFF))]) ∧
      (a.requester = 2 → t.host.urSent = satAdd s.host.urSent 1 0xFFFF ∧
        t.out = s.out ++ (if a.write then [] else [.completion 0 .ur])))

/-- SHORT_DETECTED, RETRY_WAIT_EXPIRY, IN_SERVICE_SHORT, DROOP_SAMPLE, BOND_WINDOW, TELEMETRY_POLL, PMB_ALERT_N, RAIL_LOSS
(R440-R450): an abort waits for its retry, the fourth and a short in service fail the domain and lose its folio; the lowest
good reading is held and counted below the curve; ten windows above the limit flag a bond; a rail holds what its poll read;
losing one takes its links, the device or everything. -/
def Obligations.RegulatorsAndRails : Prop :=
  (∀ (s : State) (d : Nat), (s.dom d).st = 1 → (s.dom d).attempts < 3 →
    exec (.shortDetected d) s =
      .next (s.setDom d { s.dom d with st := 3, attempts := (s.dom d).attempts + 1, slewAt := s.rst.sup })) ∧
  (∀ (s : State) (d : Nat), d < 8 →
    ((s.dom d).st = 1 → (s.dom d).attempts = 3 →
      ∃ t, exec (.shortDetected d) s = .next t ∧ (t.dom d).st = 4 ∧ (t.dom d).failCause = 1 ∧ (t.dom d).attempts = 4 ∧
        (t.folio (domFolio d)).inService = false ∧ (t.folio (domFolio d)).outCause = 3) ∧
    ((s.dom d).st = 2 →
      ∃ t, exec (.inServiceShort d) s = .next t ∧ (t.dom d).st = 4 ∧ (t.dom d).failCause = 2 ∧
        (t.folio (domFolio d)).inService = false ∧ (t.folio (domFolio d)).outCause = 3)) ∧
  (∀ (s : State) (d : Nat), d = 8 ∨ d = 9 → s.up = true → (s.dom d).st = 2 →
    ∃ t, exec (.inServiceShort d) s = .next t ∧ t.rst.wait = .dead ∧ t.up = false ∧ t.parts = [] ∧ t.queues = [] ∧ t.cl = []) ∧
  (∀ (s : State) (d : Nat), (s.dom d).st = 3 →
    exec (.retryWaitExpiry d) s = .next (if s.rst.since (s.dom d).slewAt 1000000 = true ∧ (s.rail 0).st = 1 then
      s.setDom d { s.dom d with st := 1, vnow := 0, slewAt := s.rst.sup } else s)) ∧
  (∀ (s : State) (d n : Nat) (v : BitVec 9), (s.dom d).st = 2 → n ∉ (s.dom d).suspects →
    let x := s.dom d
    (120 ≤ v.toNat → v.toNat ≤ 440 → 4 * x.suspects.length < domSensors d →
      ∃ t, exec (.droopSample d [(n, v)] []) s = .next t ∧ (∀ k, k ≠ d → t.dom k = s.dom k) ∧ Claims.quiet s t ∧
        (x.vheld = false ∨ v < x.vmin → (t.dom d).vmin = v ∧ (t.dom d).vminSensor = BitVec.ofNat 12 n ∧ (t.dom d).vminTime = s.time) ∧
        (x.vheld = true → x.vmin ≤ v → (t.dom d).vmin = x.vmin ∧ (t.dom d).vminSensor = x.vminSensor) ∧
        (v.toNat < curve (domKind d) (coreClk s) → (t.dom d).droops = if x.drooping then x.droops else satAdd x.droops 1 0xFFFF) ∧
        (curve (domKind d) (coreClk s) ≤ v.toNat → (t.dom d).droops = x.droops ∧ (t.dom d).drooping = false)) ∧
    (v.toNat < 120 ∨ 440 < v.toNat → 4 * (x.suspects.length + 1) < domSensors d →
      ∃ t, exec (.droopSample d [(n, v)] []) s = .next t ∧ (t.dom d).suspects = x.suspects ++ [n] ∧ (t.dom d).vmin = x.vmin ∧
        t.evt.sensor = true ∧ Claims.quiet s t)) ∧
  (∀ (s : State) (d n meas exp : Nat), (s.dom d).st = 2 → s.up = true →
    let over_ := max 60 exp + 4 * exp < 4 * meas
    (NMap.get 0 s.pwr.bondRuns n < 9 →
      exec (.bondWindow d false [(n, meas, exp)]) s = .next (s.setPwr { s.pwr with
        bondRuns := NMap.set 0 s.pwr.bondRuns n (if over_ then NMap.get 0 s.pwr.bondRuns n + 1 else 0) })) ∧
    (9 ≤ NMap.get 0 s.pwr.bondRuns n → over_ → n ∉ s.pwr.bondFlags →
      ∃ t, exec (.bondWindow d false [(n, meas, exp)]) s = .next t ∧ t.pwr.bondFlags = s.pwr.bondFlags ++ [n] ∧ t.pwr.bondValid = true ∧
        t.pwr.bondDomain = BitVec.ofNat 4 d ∧ t.pwr.bondSensor = BitVec.ofNat 12 n ∧
        t.pwr.bondExcess = BitVec.ofNat 8 (min 255 (meas - exp)) ∧ t.pwr.bondTime = s.time ∧ t.evt.bond = true)) ∧
  (∀ (s : State) (x : RailRead), polling s = true → x.rail < 8 →
    let r := s.rail x.rail
    (x.present = false → exec (.telemetryPoll [x]) s = .next (s.setRail x.rail { r with st := 0, absent := true })) ∧
    (x.present = true → x.ok = false →
      exec (.telemetryPoll [x]) s = .next (s.setRail x.rail { r with nacks := satAdd r.nacks x.fails 255, absent := false, st := 3 })) ∧
    (x.present = true → x.ok = true → exec (.telemetryPoll [x]) s = .next (s.setRail x.rail { r with
      nacks := satAdd r.nacks x.fails 255, absent := false, vout := x.vout, iout := x.iout
      st := if x.isOn then 1 else if r.st = 2 then 2 else 0 }))) ∧
  (∀ (s : State) (r : Nat) (w : BitVec 16), polling s = true → r < 8 →
    exec (.pmbAlertN r w false) s =
      .next ((s.setRail r { s.rail r with status := if r = 1 ∨ r = 3 then 0 else w }).send (.pmbClear r))) ∧
  (∀ (s : State) (r : Nat), s.up = true →
    (r = 0 → ∃ t, exec (.railLoss r) s = .next t ∧ t.rst.wait = .powerFail ∧ t.up = false) ∧
    (r = 1 ∨ r = 2 → ∃ t, exec (.railLoss r) s = .next t ∧ (t.rail r).st = 2 ∧ (∀ l < 64, (t.link l).st = 7 ∧ (t.link l).failCause = 7) ∧
      Claims.quiet s t) ∧
    (3 ≤ r → r < 8 → ∃ t, exec (.railLoss r) s = .next t ∧ t.rst.wait = .dead ∧ t.up = false ∧ t.parts = [] ∧ t.queues = []))

/-- POWER_MEASUREMENT, SUSTAINED_UPDATE, HOLD_LEVEL_STEP, FAST_LIMITER_STEP, POWER_CEILING_LOWER, POWER_CEILING_RAISE, REG_ALERT_N,
REG_ALERT_RELEASE (R456-R468): P and its fast average each microsecond; limits, sustained average, cap and budgets each millisecond,
and limits that cannot be met; levels by one step towards their budgets; the power ceiling by one step once a level has stood high
for 10 ms or all low for 100 ms, with the clock's target behind it; the alert's fast step and levels, and 100 µs later its release. -/
def Obligations.PowerLimits : Prop :=
  (∀ (s : State) (ma : Nat), belayRuns s = true →
    let w := s.pwr
    let p := ma * (s.rail 0).vout.toNat + ((List.range 7).map fun i => (s.rail (i + 1)).vout.toNat * (s.rail (i + 1)).iout.toNat * 100).sum
    ∃ t, exec (.powerMeasurement ma) s = .next t ∧ t.pwr.p = p ∧ t.pwr.started = true ∧ t.pwr.msSum = w.msSum + p ∧
      t.pwr.msCount = w.msCount + 1 ∧ (w.started = true → t.pwr.aFast = w.aFast + ((p : Int) - w.aFast) / 5000 ∧ t.pwr.aSust = w.aSust) ∧
      (w.started = false → t.pwr.aFast = p ∧ t.pwr.aSust = p) ∧ t.pwr.levels = w.levels ∧ t.clk = s.clk ∧ Claims.quiet s t) ∧
  (∀ (s : State) (m : PowerSplit), belayRuns s = true → s.pwr.started = true →
    let w := s.pwr
    let ms : Int := if w.msCount = 0 then w.p else w.msSum / w.msCount
    ∃ t, exec (.sustainedUpdate m) s = .next t ∧ Claims.quiet s t ∧ t.pwr.sustNow = w.sust ∧ t.pwr.fastNow = w.fast ∧
      t.pwr.msSum = 0 ∧ t.pwr.msCount = 0 ∧ t.pwr.aSust = w.aSust + (ms - w.aSust) / 1000 ∧
      t.pwr.pS = min ((w.sust : Int) * 10000000 + 4 * ((w.sust : Int) * 10000000 - t.pwr.aSust)) (fastCapUw t.pwr) ∧
      ((∀ p, (s.part p).st = .absent) → 0 < capUw t.pwr - m.fixedW * 1000000 →
        ∀ k < 13, NMap.get 0 t.pwr.budgets k = capUw t.pwr - m.fixedW * 1000000) ∧
      (capUw t.pwr - m.fixedW * 1000000 ≤ 0 → t.pwr.unmet = true ∧ t.pwr.ceil = 12 ∧ ∀ k < 13, pwrLevel t.pwr k = 15)) ∧
  (∀ (s : State) (measured : List Nat), belayRuns s = true → s.pwr.alert = 0 → s.pwr.unmet = false → s.pwr.budgets ≠ [] →
    (s.pwr.p : Int) ≤ fastCapUw s.pwr →
    ∃ t, exec (.holdLevelStep measured) s = .next t ∧ t.clk = s.clk ∧ Claims.quiet s t ∧ ∀ k < 13,
      let b := NMap.get 0 s.pwr.budgets k
      let x : Int := (measured.getD k 0 : Int) * 1000
      let h := pwrLevel s.pwr k
      pwrLevel t.pwr k = if b < x then min 15 (h + 1) else if 16 * x < 15 * b then h - 1 else h) ∧
  (∀ (s : State), belayRuns s = true → s.pwr.started = true → fastCapUw s.pwr < (s.pwr.p : Int) →
    ∃ t, exec .fastLimiterStep s = .next t ∧ t.clk = s.clk ∧ Claims.quiet s t ∧ ∀ k < 13, pwrLevel t.pwr k = min 15 (pwrLevel s.pwr k + 1)) ∧
  (∀ (s : State), belayRuns s = true →
    ((∃ d < 4, 12 ≤ pwrLevel s.pwr d ∧ s.since (NMap.get 0 s.pwr.lfHigh d) 10000000 = true) → s.since s.pwr.ceilAt 10000000 = true →
      12 < s.pwr.ceil →
      ∃ t, exec .powerCeilingLower s = .next t ∧ t.pwr.ceil = s.pwr.ceil - 1 ∧
        t.clk.target = min s.clk.applied (min t.pwr.ceil s.pwr.thmCeil) ∧ t.clk.applied = s.clk.applied ∧ Claims.quiet s t) ∧
    ((∀ d < 4, pwrLevel s.pwr d ≤ 4) → s.since s.pwr.lfHot 100000000 = true → s.since s.pwr.ceilAt 100000000 = true →
      s.pwr.ceil < s.clk.applied →
      ∃ t, exec .powerCeilingRaise s = .next t ∧ t.pwr.ceil = s.pwr.ceil + 1 ∧
        t.clk.target = min s.clk.applied (min t.pwr.ceil s.pwr.thmCeil) ∧ t.clk.applied = s.clk.applied ∧ Claims.quiet s t)) ∧
  (∀ (s : State) (ns : Nat), belayRuns s = true →
    (100 ≤ ns → ∃ t, exec (.regAlertN ns) s = .next t ∧ t.pwr.alert = 1 ∧ t.pwr.alerts = satAdd s.pwr.alerts 1 0xFFFF ∧
      (∀ k < 13, pwrLevel t.pwr k = 15) ∧ t.clk.fast = true ∧ t.clk.fastReg = true ∧ t.clk.now = s.clk.now ∧ Claims.quiet s t) ∧
    (ns < 100 → ∃ t, exec (.regAlertN ns) s = .next t ∧ (t.pwr.alert = 1 ∨ t = { s with freeCtr := s.freeCtr + 1 }))) ∧
  (∀ (s : State), s.pwr.alert = 1 → s.since s.pwr.alertAt 100000 = true →
    ∃ t, exec .regAlertRelease s = .next t ∧ Claims.quiet s t ∧
      ((t.pwr.alert = 2 ∧ suppliesSettled t = false ∧ t.clk = s.clk) ∨ (t.pwr.alert = 0 ∧ t.clk.fastReg = false)))

/-- THERMAL_SAMPLE, THERMAL_CEILING_LOWER, THERMAL_CEILING_RAISE, TRIP_DIODE_SAMPLE, TRIP_RESTART (R469-R475): readings are held,
one out of range marks its sensor, Tmax is the highest governing value and its lowest-numbered sensor; above 90 °C an area is in the
highest band; 105 °C takes the fast step and 115 °C trips; the thermal ceiling moves by one step after its time; a hot diode trips;
diodes cool for 10 s let the device start again. -/
def Obligations.Temperatures : Prop :=
  (∀ (s : State) (n : Nat) (v : Int) (mw : List Nat), s.clk.pllLock = true → s.rst.pwrEn = true → n < 468 →
    ∃ t, exec (.thermalSample [(n, v)] [] mw) s = .next t ∧ (t.sensor n).reading = v ∧
      (v < -160 ∨ 600 < v → (t.sensor n).suspect = true) ∧ t.thm.tmaxSensor < 468 ∧
      (t.sensor t.thm.tmaxSensor).govern = t.thm.tmax ∧ (∀ k < 468, (t.sensor k).govern ≤ t.thm.tmax) ∧
      (∀ k < t.thm.tmaxSensor, (t.sensor k).govern < t.thm.tmax) ∧
      (420 ≤ t.thm.tmax → t.thm.tmax < 460 → t.clk.fastTemp = true ∧ t.clk.fast = true) ∧
      (∀ k < 72, (∃ m ∈ areaSensors k, 360 < (t.sensor m).govern) → (NMap.get {} t.thm.bands k).band = 3) ∧
      (t.thm.tmax < 460 → Claims.quiet s t) ∧
      (460 ≤ t.thm.tmax → s.thm.tripped = false → t.thm.tripped = true ∧ t.thm.tripSource = 0 ∧
        t.thm.tripSensor = BitVec.ofNat 9 t.thm.tmaxSensor ∧ t.rst.pwrEn = false ∧ t.rst.wait = .trip)) ∧
  (∀ (s : State), belayRuns s = true →
    (400 ≤ s.thm.tmax → s.since s.pwr.thmAt 1000000 = true → 12 < s.pwr.thmCeil →
      ∃ t, exec .thermalCeilingLower s = .next t ∧ t.pwr.thmCeil = s.pwr.thmCeil - 1 ∧
        t.clk.target = min s.clk.applied (min s.pwr.ceil t.pwr.thmCeil) ∧ Claims.quiet s t) ∧
    (s.thm.tmax ≤ 388 → s.since s.pwr.thmAt 10000000 = true → s.pwr.thmCeil < s.clk.applied →
      ∃ t, exec .thermalCeilingRaise s = .next t ∧ t.pwr.thmCeil = s.pwr.thmCeil + 1 ∧
        t.clk.target = min s.clk.applied (min s.pwr.ceil t.pwr.thmCeil) ∧ Claims.quiet s t)) ∧
  (∀ (s : State) (k : Nat) (v : Int), s.rst.vddAux = true → k < 16 →
    (v < 460 → exec (.tripDiodeSample [(k, v)]) s = .next (s.setThm { s.thm with
      diodes := NMap.set 0 s.thm.diodes k v, diodeHot := if 340 ≤ v then s.rst.sup else s.thm.diodeHot })) ∧
    (460 ≤ v → s.rst.pwrEn = true → s.thm.tripped = false →
      ∃ t, exec (.tripDiodeSample [(k, v)]) s = .next t ∧ t.thm.tripped = true ∧ t.thm.trips = satAdd s.thm.trips 1 255 ∧
        t.thm.tripSource = 1 ∧ t.thm.tripSensor = BitVec.ofNat 9 k ∧ t.thm.tripTime = s.time ∧ t.rst.pwrEn = false ∧
        t.rst.wait = .trip ∧ t.parts = [] ∧ t.queues = [])) ∧
  (∀ (s : State), s.thm.tripped = true → s.rst.wait = .trip → (∀ k < 16, NMap.get 0 s.thm.diodes k < 340) →
    s.rst.since s.thm.diodeHot 10000000000 = true →
    ∃ t, exec .tripRestart s = .next t ∧ t.thm.tripped = false ∧ t.thm.trips = s.thm.trips ∧ t.rst.pwrEn = true ∧
      t.rst.wait = .none_ ∧ t.rst.entry = 2 ∧ t.rst.ready = false ∧ t.rst.step = if s.rst.baseCamp then 0xB else 0)

/-! ### Reset, start and the colophon (R481-R499, R508, R512, R516, R543) -/

/-- A start has failed for a cause: the device waits with the cause, the step and one more failed start kept (R491, R492). -/
def Sys2Proof.Claims.startFailed (s t : State) (cause : Nat) : Prop :=
  t.rst.wait = .failed ∧ t.rst.step = 0xA ∧ t.rst.lastCause = BitVec.ofNat 4 cause ∧ t.rst.lastFailStep = s.rst.step ∧
  t.rst.failedStarts = (if s.rst.failedStarts = 3 then 3 else s.rst.failedStarts + 1) ∧ t.rst.ready = s.rst.ready ∧
  t.parts = [] ∧ t.queues = [] ∧ t.cl = [] ∧ t.pending = s.pending

/-- A power failure: what is left is the flash (R516). -/
def Sys2Proof.Claims.powerLost (s t : State) : Prop :=
  t.rst.wait = .powerFail ∧ t.up = false ∧ t.parts = [] ∧ t.queues = [] ∧ t.cl = [] ∧ t.mem = {} ∧ t.rope = {} ∧ t.thm = {} ∧
  t.rst.cfg0 = s.rst.cfg0 ∧ t.rst.cfg1 = s.rst.cfg1 ∧ t.rst.fwA = s.rst.fwA ∧ t.rst.fwB = s.rst.fwB ∧ t.pending = s.pending

/-- POWER_ON, RST_N, COLD_START, COLD_START_STEP_COMPLETE, STEP_DEADLINE, FAILED_START_RETRY, EXIT_BASE_CAMP, BASE_CAMP_EXIT (R24,
R26, R481-R486, R489-R495): the management controller boots the image named, the other, or its ROM; RST_N from 1 µs on clears the
device and leaves it at its gate, in base camp mode resets the configuration space only, and below 100 ns does nothing; a start goes
step by step, each failure kept with its cause; a vertical group past repair takes its folio out; the third failed start in a row is
base camp; READY ends it. -/
def Obligations.ResetAndStart : Prop :=
  (∀ (s : State), s.rst.vddAux = false →
    let a := s.rst.cfg.activeMgt
    ((s.rst.mgt a).boots = true ∨ (s.rst.mgt !a).boots = true →
      ∃ t, exec .powerOn s = .next t ∧ t.rst.vddAux = true ∧ t.rst.mgtUp = true ∧ t.rst.mgtRom = false ∧ t.rst.pwrEn = true ∧
        t.rst.mgtImage = (if (s.rst.mgt a).boots then a else !a) ∧ t.rst.step = 0 ∧ t.rst.entry = 0 ∧ t.rst.wait = .none_ ∧
        t.clk.mgtLock = true ∧ t.clp.scanDone = true) ∧
    ((s.rst.mgt a).boots = false → (s.rst.mgt !a).boots = false →
      ∃ t, exec .powerOn s = .next t ∧ t.rst.mgtRom = true ∧ t.rst.baseCamp = true ∧ t.rst.step = 0xB ∧ t.rst.pwrEn = false)) ∧
  (∀ (s : State) (ns : Nat) (high : Bool), tapTests s.tap = false →
    (ns < 100 → exec (.rstN ns high) s = .next { s.setRst { s.rst with rstLow := !high } with tapHigh := false }) ∧
    (1000 ≤ ns → s.rst.rstLow = false → rstTakes s.rst = true →
      ∃ t, exec (.rstN ns high) s = .next t ∧ t.rst.step = 1 ∧ t.rst.entry = 1 ∧ t.rst.ready = false ∧ t.rst.wait = .none_ ∧
        t.rst.rstLow = !high ∧ t.rst.failedStarts = s.rst.failedStarts ∧ t.rope.epoch = s.rope.epoch ∧ t.clp = s.clp ∧
        t.mem = {} ∧ t.parts = [] ∧ t.queues = [] ∧ t.cl = [] ∧ t.pwr = Pwr.fresh s.variant ∧ t.thm.trips = s.thm.trips ∧
        t.pending = s.pending) ∧
    (1000 ≤ ns → s.rst.rstLow = false → s.camp = true →
      ∃ t, exec (.rstN ns high) s = .next t ∧ t.host.cfg = [] ∧ t.rst = { s.rst with rstLow := !high })) ∧
  (∀ (s : State), s.rst.vddAux = true → s.rst.mgtUp = true → s.rst.mgtRom = false → s.rst.pwrEn = true → s.rst.wait = .none_ →
    s.rst.ready = false → s.rst.baseCamp = false →
    (s.rst.step = 0 ∨ s.rst.step = 1 → (s.rst.step = 0 → railsOn s = true) → s.rst.rstLow = false →
      (s.rst.step = 1 → s.rst.entry = 1 → s.rst.since s.rst.mark 1000000 = true) →
      ∃ t, exec .coldStart s = .next t ∧ t.rst.step = 2 ∧ t.rst.selftestRemaps = 0 ∧ t.rst.linksQualified = 0 ∧ t.clp.bootSeq = 0 ∧
        t.mem = s.mem) ∧
    (s.rst.step = 0 → railsOn s = true → s.rst.rstLow = true → exec .coldStart s =
      .next (s.setRst { recordStep s.rst false with step := 1, mark := s.rst.sup, stepNs := 0 })) ∧
    (s.rst.step = 0 → railsOn s = false →
      (s.rst.since s.rst.mark 100000000 = false → exec .coldStart s = .next s) ∧
      (s.rst.since s.rst.mark 100000000 = true →
        ∃ t, exec .coldStart s = .next t ∧ Claims.startFailed s t 1 ∧ t.rst.pwrEn = false))) ∧
  (∀ (s : State) (r : StartResult), s.rst.starting = true →
    (s.rst.step = 2 → r.fusesOk = false → ∃ t, exec (.coldStartStepComplete r) s = .next t ∧ Claims.startFailed s t 2) ∧
    (s.rst.step = 2 → r.fusesOk = true → (s.rail 0).st = 1 →
      ∃ t, exec (.coldStartStepComplete r) s = .next t ∧ t.rst.step = 3 ∧ ∀ d, d = 8 ∨ d = 9 → (t.dom d).st = 1 ∧
        (t.dom d).vset = curve (domKind d) s.variant.ceil) ∧
    (s.rst.step = 3 → r.failedDomains = [] → (s.dom 8).st = 1 → (s.dom 9).st = 1 → startsSettled s r [8, 9] = true → (s.rail 0).st = 1 →
      ∃ t, exec (.coldStartStepComplete r) s = .next t ∧ t.rst.step = 4 ∧ (t.dom 8).st = 2 ∧ (t.dom 9).st = 2 ∧ t.clk.pllLock = true ∧
        t.clk.tbLock = true ∧ t.clk.now = s.variant.ceil ∧ t.clk.master = 0 ∧ t.time = 0 ∧ ∀ d < 8, (t.dom d).st = 1) ∧
    (s.rst.step = 4 → r.failedDomains = [] → (∀ d < 8, (s.dom d).st = 1) → startsSettled s r (List.range 8) = true → bothLost s = false →
      ∃ t, exec (.coldStartStepComplete r) s = .next t ∧ t.rst.step = 5 ∧ ∀ d < 8, (t.dom d).st = 2) ∧
    (s.rst.step = 5 → s.fuseRenames = [] → bothLost s = false →
      (r.bondFaults = [] → ∃ t, exec (.coldStartStepComplete r) s = .next t ∧ t.rst.step = 6 ∧ ∀ f < 2,
        (t.folio f).outCause = (s.folio f).outCause ∧ (t.folio f).inService = decide ((s.folio f).outCause = 0) ∧ (t.folio f).bonds = 0) ∧
      (∀ b, r.bondFaults = [b] → b.folio < 2 → b.index < bondGroups b.cls → b.cls = .leafSpine → 2 ≤ b.failed →
        (s.folio 0).outCause = 0 → (s.folio 1).outCause = 0 →
        ∃ t, exec (.coldStartStepComplete r) s = .next t ∧ t.rst.step = 6 ∧ (t.folio b.folio).outCause = 1 ∧
          (t.folio b.folio).inService = false ∧ (t.folio (1 - b.folio)).inService = true)) ∧
    (s.rst.step = 6 →
      (r.sramFail = true → ∃ t, exec (.coldStartStepComplete r) s = .next t ∧ Claims.startFailed s t 5) ∧
      (r.sramFail = false → r.stackFail = true → ∃ t, exec (.coldStartStepComplete r) s = .next t ∧ Claims.startFailed s t 6) ∧
      (r.sramFail = false → r.stackFail = false →
        ∃ t, exec (.coldStartStepComplete r) s = .next t ∧ t.rst.step = 7 ∧ t.mem.dram = [] ∧ t.mem.lines = [] ∧ t.mem.l1 = [] ∧ t.cl = [])) ∧
    (s.rst.step = 7 → bothLost s = false → r.fwCrcOk = (false, false) →
      ∃ t, exec (.coldStartStepComplete r) s = .next t ∧ Claims.startFailed s t 7) ∧
    (s.rst.step = 8 → r.linkResults = [] →
      ∃ t, exec (.coldStartStepComplete r) s = .next t ∧ t.rst.step = 9 ∧ t.rst.linksQualified = 0 ∧
        ∀ l < 64, (t.link l).st = 0 ∧ (t.link l).qualified = false) ∧
    (s.rst.step = 9 →
      ∃ t, exec (.coldStartStepComplete r) s = .next t ∧ t.rst.ready = true ∧ t.up = true ∧ t.rst.failedStarts = 0 ∧
        t.rst.cfg.activeFw = s.rst.fwImage ∧ t.mem = s.mem)) ∧
  (∀ (s : State), s.rst.starting = true →
    (s.rst.stepNs < 1000 * deadlineOf s.rst.step.toNat → exec .stepDeadline s = .next s) ∧
    (1000 * deadlineOf s.rst.step.toNat ≤ s.rst.stepNs → ∃ t, exec .stepDeadline s = .next t ∧ Claims.startFailed s t 8)) ∧
  (∀ (s : State), s.rst.wait = .failed → s.rst.since s.rst.mark 1000000000 = true →
    (s.rst.failedStarts = 3 → ∃ t, exec .failedStartRetry s = .next t ∧ t.rst.baseCamp = true ∧ t.rst.step = 0xB ∧ t.rst.wait = .none_) ∧
    (s.rst.failedStarts ≠ 3 → s.rst.rstLow = false →
      ∃ t, exec .failedStartRetry s = .next t ∧ t.rst.entry = 3 ∧ t.rst.wait = .none_ ∧ t.rst.failedStarts = s.rst.failedStarts ∧
        t.rst.step = if s.rst.lastCause = 1 then 0 else 2)) ∧
  (∀ (s : State), s.rst.baseCamp = true →
    exec .exitBaseCamp s = .next (s.setRst { s.rst with
      exitArmed := true, failedStarts := 2, baseCamp := false, wait := .baseExit, mark := s.rst.sup, stepNs := 0 })) ∧
  (∀ (s : State), s.rst.wait = .baseExit → s.rst.rstLow = false → s.rst.mgtRom = false → s.rst.mgtTrial = none →
    s.rst.since s.rst.mark 1000000000 = true →
    ∃ t, exec .baseCampExit s = .next t ∧ t.rst.entry = 4 ∧ t.rst.wait = .none_ ∧ t.rst.exitArmed = false ∧
      t.rst.step = if s.rst.lastCause = 1 then 0 else 2)

/-- PLDM_FIRMWARE_UPDATE, ACTIVATE_FIRMWARE, MGT_ALIVE_TIMEOUT, PWR_FAIL_N, POWER_FAIL_RESTART, REFCLK_LOSS, VDD_AUX_LOSS,
COLOPHON_COMMIT, COLOPHON_ERASE_DONE (R487, R493, R508, R512, R516, R543): an update goes into the image that is not active;
an activation names it, and an image that does not report alive gives way to the last; power failures leave the flash; a
committed record stands at the write pointer with the next sequence number. -/
def Obligations.ImagesAndPowerLoss : Prop :=
  (∀ (s : State) (img : FwImage), s.rst.vddAux = true → s.rst.mgtUp = true → s.rst.mgtTrial = none →
    let r := s.rst
    (∃ t, exec (.pldmFirmwareUpdate .fw img) s = .next t ∧ t.rst.newFw = some (!r.cfg.activeFw) ∧
      t.rst.fw (!r.cfg.activeFw) = { crcOk := img.crcOk, alive := img.alive, build := img.build } ∧ t.rst.fw r.cfg.activeFw = r.fw r.cfg.activeFw ∧
      t.rst.mgtA = r.mgtA ∧ t.rst.mgtB = r.mgtB ∧ t.rst.cfg = r.cfg) ∧
    (∃ t, exec (.pldmFirmwareUpdate .mgt img) s = .next t ∧ t.rst.newMgt = some (!r.cfg.activeMgt) ∧
      t.rst.mgt (!r.cfg.activeMgt) = { crcOk := img.crcOk, alive := img.alive, build := img.build } ∧ t.rst.mgt r.cfg.activeMgt = r.mgt r.cfg.activeMgt ∧
      t.rst.fwA = r.fwA ∧ t.rst.fwB = r.fwB ∧ t.rst.cfg = r.cfg) ∧
    (img.crcOk = true → ∃ t, exec (.pldmFirmwareUpdate .config img) s = .next t ∧ t.rst.cfg.activeMgt = img.activeMgt ∧
      t.rst.cfg.activeFw = img.activeFw ∧ ∀ l < 64, NMap.get 0 t.rst.cfg.modes l = img.linkModes.getD l 0)) ∧
  (∀ (s : State) (b alive : Bool), s.rst.vddAux = true → s.rst.mgtUp = true → s.rst.mgtTrial = none → s.rst.baseCamp = false →
    (s.rst.newFw = some b →
      ∃ t, exec (.activateFirmware .fw alive) s = .next t ∧ t.rst.cfg.activeFw = b ∧ t.rst.newFw = none ∧
        t.rst.cfg.activeMgt = s.rst.cfg.activeMgt ∧ t.rst.fwA = s.rst.fwA ∧ t.rst.fwB = s.rst.fwB) ∧
    (s.rst.newMgt = some b → tokensBusy s { mgt := true, pmb := true } = false →
      ∃ t, exec (.activateFirmware .mgt alive) s = .next t ∧ t.rst.cfg.activeMgt = b ∧ t.rst.newMgt = none ∧
        (alive = true → (s.rst.mgt b).boots = true → t.rst.mgtTrial = none ∧ t.rst.mgtUp = true ∧ t.rst.mgtImage = b) ∧
        (alive = false → t.rst.mgtTrial = some (!b) ∧ t.rst.mgtUp = false))) ∧
  (∀ (s : State) (old : Bool), s.rst.mgtTrial = some old →
    (s.rst.since s.rst.mgtMark 150000000 = false → exec .mgtAliveTimeout s = .next s) ∧
    (s.rst.since s.rst.mgtMark 150000000 = true → ∃ t, exec .mgtAliveTimeout s = .next t ∧ t.rst.mgtTrial = none ∧ t.rst.mgtUp = true ∧ t.rst.mgtImage = old ∧
      t.rst.cfg.activeMgt = old)) ∧
  (∀ (s : State) (ns : Nat), s.rst.vddAux = true → s.rst.wait ≠ .powerFail →
    (ns < 200 → exec (.pwrFailN ns) s = .next s) ∧ (ns < 10000 → exec (.refclkLoss ns) s = .next s) ∧
    (1000 ≤ ns → ∃ t, exec (.pwrFailN ns) s = .next t ∧ Claims.powerLost s t) ∧
    (10000 ≤ ns → ∃ t, exec (.refclkLoss ns) s = .next t ∧ Claims.powerLost s t)) ∧
  (∀ (s : State), s.rst.wait = .powerFail → s.rst.since s.rst.mark 100000000 = true →
    (s.rst.mgtRom = false → exec .powerFailRestart s = .next (s.setRst { s.rst with
      wait := .none_, pwrEn := true, step := 0, entry := 0, mark := s.rst.sup, stepNs := 0 })) ∧
    (s.rst.mgtRom = true → exec .powerFailRestart s = .next (s.setRst { s.rst with wait := .none_, baseCamp := true, step := 0xB }))) ∧
  (∀ (s : State), ∃ t, exec .vddAuxLoss s = .next t ∧ t.rst.vddAux = false ∧ t.up = false ∧ t.mem = {} ∧ t.parts = [] ∧
    t.queues = [] ∧ t.rope = {} ∧ t.rst.cfg0 = s.rst.cfg0 ∧ t.rst.cfg1 = s.rst.cfg1 ∧ t.rst.fwA = s.rst.fwA ∧ t.rst.fwB = s.rst.fwB ∧
    t.pending = s.pending ∧ (s.clp.writing = none → t.clp.ring = s.clp.ring)) ∧
  (∀ (s : State) (r : ClpRec), s.rst.vddAux = true → s.clp.writing = some r → s.clp.waiting = [] →
    ∃ t, exec .colophonCommit s = .next t ∧ t.clp.block s.clp.ptr = .record { r with seq := s.clp.nextSeq } ∧
      t.clp.ptr = ringNext s.clp.ptr ∧ t.clp.nextSeq = s.clp.nextSeq + 1 ∧ t.clp.writing = none ∧
      t.clp.lastType = BitVec.ofNat 8 r.typ ∧ (∀ b, b ≠ s.clp.ptr → t.clp.block b = s.clp.block b) ∧
      t.clp.bootSeq = (if r.typ = 1 then s.clp.nextSeq else s.clp.bootSeq) ∧ t.mem = s.mem ∧ t.rst = s.rst) ∧
  (∀ (s : State) (b : Nat), s.clp.erasing = some b → s.clp.waiting = [] →
    ∃ t, exec .colophonEraseDone s = .next t ∧ t.clp.block b = .erased ∧ t.clp.nextSeq = s.clp.nextSeq ∧ t.clp.ptr = s.clp.ptr ∧
      (∀ k, k ≠ b → t.clp.block k = s.clp.block k) ∧ t.mem = s.mem ∧ t.rst = s.rst)

/-! ### Observation and boundary scan (R521-R532, R547-R549) -/

/-- OBS_CONFIG, CLP_READ, COUNTER_AGGREGATION, TRACE_RECORD, TAP_INSTRUCTION (R350, R513, R522, R528, R529, R531, R532, R547,
R548): an image from the host is read, and one of no possible length is refused; a block of the colophon goes to its
destination with its sequence number; counters take what was accumulated in a microsecond and the time is stamped, and an image
that waits is applied and completes; a record goes to its place in the trace where no request waits for admission; the TAP takes
its instruction, and what is scanned passes through the register that it selects. -/
def Obligations.Observation : Prop :=
  (∀ (s : State) (q : Nat) (c : Cmd), Claims.Waiting s 0 q c → c.opcode = 0x60 → Claims.sound_ s 0 c true false [(8, 0, 64), (16, 0, 32)] →
    let p := c.partN 0
    spanHeld s (c.arg 8 8) (c.arg 16 4) false = false →
    (obsLengthBad (c.arg 16 4) = true → ∃ t, exec (.obsConfig 0 q) s = .next t ∧ Claims.replied s t 0 q c 0x06 0 0 ∧ Claims.quiet s t) ∧
    (obsLengthBad (c.arg 16 4) = false → rangeOf (c.arg 8 8) = .hostWin → rangeRefusal s p (c.arg 8 8) (c.arg 16 4) = [] →
      ∃ t, exec (.obsConfig 0 q) s = .next t ∧ Claims.underway s t 0 q c ∧ Claims.quiet s t ∧
        t.out = s.out ++ [.hostRead s.hrNext (hostFn p) [(c.arg 8 8 - hostBase, c.arg 16 4)]] ∧
        (tokensBusy s { obs := true } = false → t.tok.holds = s.holds ++ [{ cmd := some ⟨0, q, c.seq⟩, obs := true }]))) ∧
  (∀ (s : State) (q : Nat) (c : Cmd) (r : ClpRec), Claims.Waiting s 0 q c → c.opcode = 0x61 →
    Claims.sound_ s 0 c true false [(8, 0, 32), (16, 0, 64)] →
    let p := c.partN 0
    c.arg 8 4 ≤ 16383 → rangeOf (c.arg 16 8) = .hostWin → rangeRefusal s p (c.arg 16 8) 4096 = [] →
    s.clp.block (c.arg 8 4) = .record r → s.clp.erasing ≠ some (c.arg 8 4) → (s.clp.writing = none ∨ s.clp.ptr ≠ c.arg 8 4) →
    ∃ t, exec (.clpRead 0 q) s = .next t ∧ Claims.quiet s t ∧
      t.out = s.out ++ [.hostWrite (hostFn p) (c.arg 16 8 - hostBase) (recBytes s.variant r)] ∧
      Claims.replied s t 0 q c 0 (BitVec.ofNat 64 (r.seq % 2 ^ 32)) 0) ∧
  (∀ (s : State), s.up = true → s.since s.mem.obs.snap 1000 = true → NMap.wf 0 s.mem.obs.acc = true → s.obsPending = none →
    ∃ t, exec .counterAggregation s = .next t ∧ t.mem.obs.snap = s.time ∧ t.mem.obs.acc = [] ∧ t.mem.obs.sel = s.mem.obs.sel ∧
      (∀ k, NMap.get 0 t.mem.obs.cnt k = NMap.get 0 s.mem.obs.cnt k + BitVec.ofNat 64 (NMap.get 0 s.mem.obs.acc k)) ∧ Claims.quiet s t) ∧
  (∀ (s : State) (q : Nat) (c : Cmd) (bs : List Byte), s.up = true → s.since s.mem.obs.snap 1000 = true → s.mem.txns = [] →
    s.obsPending = some (⟨0, q, c.seq⟩, bs) → (s.queue 0 q).cmds = [c] →
    (s.queue 0 q).state = 1 → s.cfgBusy = some ⟨0, q, c.seq⟩ → bitOf (obsImage bs).flags 1 = false → (∀ e ∈ s.mem.lines, e.2.trace = false) →
    ((obsImage bs).counters.map Prod.fst).Nodup →
    ∃ t, exec .counterAggregation s = .next t ∧ Claims.replied s t 0 q c 0 0 0 ∧ t.obsPending = none ∧ t.mem.obs.run = false ∧
      t.mem.obs.size = 0 ∧ t.mem.obs.filt = [] ∧ Claims.quiet s t ∧
      ∀ e ∈ (obsImage bs).counters, NMap.get 0 t.mem.obs.sel e.1 = BitVec.ofNat 64 e.2 ∧ NMap.get 0 t.mem.obs.cnt e.1 = 0) ∧
  (∀ (s : State) (e : Nat × Nat × BitVec 256), let o := s.mem.obs
    let a := traceBase + 32 * o.next
    s.up = true → o.run = true → o.buf = [e] → o.triggered = false → (s.sliceQ (homeSlice s.mem a)).waiting = [] →
    (s.mem.lineAt (a / 128)).present = true →
    ∃ t, exec .traceRecord s = .next t ∧ t.mem.obs.buf = [] ∧ ((t.mem.lineAt (a / 128)).sec (a % 128 / 32)).data = e.2.2 ∧
      t.mem.dram = s.mem.dram ∧
      (o.next + 1 ≠ o.size * 32768 → t.mem.obs.next = o.next + 1 ∧ t.mem.obs.run = true ∧ t.mem.obs.wrapped = o.wrapped) ∧
      (o.next + 1 = o.size * 32768 → o.wrap = true → t.mem.obs.next = 0 ∧ t.mem.obs.wrapped = true ∧ t.mem.obs.run = true) ∧
      (o.next + 1 = o.size * 32768 → o.wrap = false → t.mem.obs.run = false)) ∧
  (∀ (s : State) (x : TapScan), s.rst.vddAux = true → s.tapHigh = false →
    let captured := 4 * b2n s.rst.rstLow + 1
    let known := tapTests x.op = true ∨ x.op = 0x01 ∨ x.op = 0x02
    let taken : State := { s.send (.tdo 8 captured) with tap := if known then x.op else 0xFF }
    (x.tdi = [] → exec (.tapInstruction x) s =
      .next (if tapTests x.op = true ∧ s.rst.rstLow = true then taken.send (.scanLands x.op s.scanOut) else taken)) ∧
    (x.op = 0x01 → x.tdi = List.replicate 32 false → exec (.tapInstruction x) s = .next (taken.send (.tdo 32 0x10960875))) ∧
    (x.op = 0x02 → x.tdi ≠ [] →
      let through := scanShift (scanCapture s x.lands) x.tdi
      exec (.tapInstruction x) s = .next ({ taken with scan := through.1, scanOut := through.1 }.send (tdoOut through.2))) ∧
    (¬ known → x.tdi ≠ [] → exec (.tapInstruction x) s = .next (taken.send (tdoOut (scanShift 0#1 x.tdi).2)))) ∧
  (∀ (s : State) (lands : BitVec 1118), ∀ i < 1118, (scanCapture s lands).getLsbD i = scanCell s lands i)

/-! ### Steps, reset and what every step keeps -/

/-- No sequence that a tick carries on is under way: no open, Function Level Reset, link training or sweep, failover, entry to or exit
from near-bank mode, change of a raw entry, or move of the PLL. -/
structure Sys2Proof.Claims.Still (s : State) : Prop where
  opens : ∀ e ∈ s.queues, e.2.opening = false
  flrs : s.host.flr = []
  links : ∀ e ∈ s.lnk.links, e.2.work = none
  failover : s.rope.cmd = none
  units : ∀ e ∈ s.mem.nbu, e.2.busy = false
  raw : s.mem.rawWork = none
  pll : s.clk.stage ≠ 3 ∧ s.clk.stage ≠ 4

/-- A step takes the command at the front of the queue and carries it out on the state with the queue's rest; with an empty
queue 1 ns passes (the model's choice: notes/assumptions/2.md), which moves the supervisor's clock, what a start step has used of its
time, and the time base, and carries on what is under way; where nothing is, nothing else. -/
def Obligations.StepRunsFrontCommand : Prop :=
  (∀ (s : State) (c : Instr) (rest : List Instr), s.pending = c :: rest → step s = exec c { s with pending := rest }) ∧
  (∀ (s : State), s.pending = [] → Claims.Still s → ∃ clk time rst, step s = .next { s with clk := clk, time := time, rst := rst } ∧
    rst = { s.rst with sup := rst.sup, stepNs := rst.stepNs } ∧
    (s.rst.vddAux = false → rst = s.rst) ∧ (s.rst.vddAux = true → rst.sup = s.rst.sup + 1) ∧
    (s.rst.starting = true → s.pwr.alert = 0 → s.clk.fastTemp = false → rst.stepNs = s.rst.stepNs + 1) ∧
    (s.pwr.alert ≠ 0 ∨ s.clk.fastTemp = true ∨ s.rst.starting = false → rst.stepNs = s.rst.stepNs) ∧
    clk = { s.clk with master := clk.master, tsLeft := clk.tsLeft, tsCount := clk.tsCount } ∧
    (s.clk.tbLock = false → clk = s.clk ∧ time = s.time) ∧
    (s.clk.tbLock = true → (s.clk.tsLeft = 0 → clk.master = s.clk.master + 1) ∧ (s.clk.master < s.time → time = s.time) ∧
      (s.time ≤ s.clk.master → time = s.time + 1)))

/-- What holds of every state a run reaches: stack DRAM and its check codes in their canonical form, and no core clock above
the ceiling (R6, R423). -/
structure Sys2Proof.Claims.Inv (s : State) : Prop where
  dram : ByteMap.wf s.mem.dram = true
  ecc : NMap.wf 0 s.mem.dramEcc = true
  applied : s.clk.applied ≤ s.variant.ceil
  now : s.clk.now ≤ s.variant.ceil
  target : s.clk.target ≤ s.variant.ceil

/-- The state right after reset: no command waits, VDD_AUX is off, nothing is ready, every queue is closed, every partition
absent, every link down, the TAP holds IDCODE, and the invariant holds. -/
def Obligations.ResetState : Prop :=
  State.reset.pending = [] ∧ State.reset.rst.vddAux = false ∧ State.reset.rst.ready = false ∧ State.reset.up = false ∧
  (∀ f q, (State.reset.queue f q).state = 0) ∧ (∀ p, (State.reset.part p).st = .absent) ∧ (∀ l, (State.reset.link l).st = 0) ∧
  State.reset.tap = 0x01 ∧ State.reset.rope.st = 0 ∧ State.reset.out = [] ∧ Claims.Inv State.reset

/-- Every step keeps the invariant: from any state that meets it, whatever command stands in front, and through every tick. -/
def Obligations.StepKeepsInvariant : Prop :=
  ∀ s s' : State, Claims.Inv s → step s = .next s' → Claims.Inv s'

end
end

