-- ==== Sys2Proof/Laws/Map.lean ====
section
/-! SUPPORT. Finite maps and byte memories: a read after a write, and the canonical form kept by every operation. -/

namespace Sys2Proof

theorem NMap.get_drop {α : Type} (d : α) (m : NMap α) (k j : Nat) :
    NMap.get d (NMap.drop m k) j = if j = k then d else NMap.get d m j := by
  induction m with
  | nil => simp [NMap.drop, NMap.get]
  | cons e m ih =>
    obtain ⟨a, w⟩ := e
    by_cases h : a = k
    · subst h
      by_cases hj : j = a
      · subst hj; simpa [NMap.drop, NMap.get] using ih
      · have : ¬ a = j := fun x => hj x.symm
        simpa [NMap.drop, NMap.get, hj, this] using ih
    · by_cases hj : a = j
      · subst hj; simp [NMap.drop, NMap.get, h]
      · simpa [NMap.drop, NMap.get, h, hj] using ih

theorem NMap.get_put {α : Type} (d v : α) (k : Nat) (m : NMap α) (hm : ∀ e ∈ m, e.1 ≠ k) (j : Nat) :
    NMap.get d (NMap.put v k m) j = if j = k then v else NMap.get d m j := by
  induction m with
  | nil => by_cases h : j = k <;> simp [NMap.put, NMap.get, h, Ne.symm]
  | cons e m ih =>
    obtain ⟨a, w⟩ := e
    have ha : a ≠ k := hm (a, w) (by simp)
    have ih := ih fun e he => hm e (by simp [he])
    unfold NMap.put
    split
    · by_cases h : j = k
      · subst h; simp [NMap.get]
      · have h' : ¬ k = j := fun x => h x.symm
        simp [NMap.get, h, h']
    · by_cases h : a = j
      · subst h; simp [NMap.get, ha]
      · simp [NMap.get, h, ih]

theorem NMap.drop_keys {α : Type} (m : NMap α) (k : Nat) : ∀ e ∈ NMap.drop m k, e.1 ≠ k := by
  intro e he
  simp only [NMap.drop, List.mem_filter, decide_eq_true_eq] at he
  exact he.2

/-- A read after a write: the value written at its key, what stood there at every other. -/
theorem NMap.get_set {α : Type} [DecidableEq α] (d : α) (m : NMap α) (k : Nat) (v : α) (j : Nat) :
    NMap.get d (NMap.set d m k v) j = if j = k then v else NMap.get d m j := by
  unfold NMap.set
  split
  · rename_i h; subst h; exact NMap.get_drop v m k j
  · rw [NMap.get_put d v k _ (NMap.drop_keys m k), NMap.get_drop]
    by_cases h : j = k <;> simp [h]

@[simp] theorem NMap.get_set_same {α : Type} [DecidableEq α] (d : α) (m : NMap α) (k : Nat) (v : α) :
    NMap.get d (NMap.set d m k v) k = v := by simp [NMap.get_set]

theorem NMap.get_set_other {α : Type} [DecidableEq α] (d : α) (m : NMap α) {k j : Nat} (v : α) (h : j ≠ k) :
    NMap.get d (NMap.set d m k v) j = NMap.get d m j := by simp [NMap.get_set, h]

@[simp] theorem NMap.get_nil {α : Type} (d : α) (k : Nat) : NMap.get d [] k = d := rfl

/-- What holds of the default and of every value held, holds of any value read. -/
theorem NMap.get_all {α : Type} {P : α → Prop} (d : α) (m : NMap α) (k : Nat) (h0 : P d) (h : ∀ e ∈ m, P e.2) : P (NMap.get d m k) := by
  induction m with
  | nil => exact h0
  | cons e m ih =>
    unfold NMap.get
    split
    · exact h e List.mem_cons_self
    · exact ih fun x hx => h x (List.mem_cons_of_mem _ hx)

theorem NMap.drop_drop {α : Type} (m : NMap α) (k : Nat) : NMap.drop (NMap.drop m k) k = NMap.drop m k := by
  simp [NMap.drop, List.filter_filter]

theorem NMap.drop_put {α : Type} (v : α) (k : Nat) (m : NMap α) (hm : ∀ e ∈ m, e.1 ≠ k) :
    NMap.drop (NMap.put v k m) k = m := by
  have hself : NMap.drop m k = m := by
    rw [NMap.drop, List.filter_eq_self]; intro e he; simpa using hm e he
  induction m with
  | nil => simp [NMap.drop, NMap.put]
  | cons e m ih =>
    obtain ⟨a, b⟩ := e
    have ha : a ≠ k := hm (a, b) (by simp)
    have hm' : ∀ e ∈ m, e.1 ≠ k := fun e he => hm e (by simp [he])
    have hs' : NMap.drop m k = m := by
      rw [NMap.drop, List.filter_eq_self]; intro e he; simpa using hm' e he
    unfold NMap.put
    split
    · have : NMap.drop ((k, v) :: (a, b) :: m) k = NMap.drop ((a, b) :: m) k := by simp [NMap.drop]
      rw [this, hself]
    · have : NMap.drop ((a, b) :: NMap.put v k m) k = (a, b) :: NMap.drop (NMap.put v k m) k := by simp [NMap.drop, ha]
      rw [this, ih hm' hs']

/-- Of two writes to one key the later stands. -/
@[simp] theorem NMap.set_set {α : Type} [DecidableEq α] (d : α) (m : NMap α) (k : Nat) (v w : α) :
    NMap.set d (NMap.set d m k v) k w = NMap.set d m k w := by
  have h : NMap.drop (NMap.set d m k v) k = NMap.drop m k := by
    unfold NMap.set
    split
    · exact NMap.drop_drop m k
    · exact NMap.drop_put v k _ (NMap.drop_keys m k)
  generalize hx : NMap.set d m k v = x at h ⊢
  unfold NMap.set
  rw [h]

/-! #### The canonical form -/

/-- The canonical form from a lower bound on, as a proposition. -/
theorem NMap.wfFrom_cons {α : Type} [DecidableEq α] (d : α) (lo : Option Nat) (j : Nat) (w : α) (m : NMap α) :
    NMap.wfFrom d lo ((j, w) :: m) = true ↔
      (∀ l, lo = some l → l < j) ∧ w ≠ d ∧ NMap.wfFrom d (some j) m = true := by
  cases lo <;> simp [NMap.wfFrom, and_assoc]

theorem NMap.wfFrom_weaken {α : Type} [DecidableEq α] (d : α) (lo : Option Nat) (j : Nat) (m : NMap α)
    (h : NMap.wfFrom d (some j) m = true) (hl : ∀ l, lo = some l → l ≤ j) : NMap.wfFrom d lo m = true := by
  cases m with
  | nil => rfl
  | cons e m =>
    obtain ⟨k, w⟩ := e
    rw [NMap.wfFrom_cons] at h ⊢
    exact ⟨fun l hlo => Nat.lt_of_le_of_lt (hl l hlo) (h.1 j rfl), h.2⟩

theorem NMap.wfFrom_filter {α : Type} [DecidableEq α] (d : α) (p : Nat × α → Bool) (lo : Option Nat) (m : NMap α)
    (h : NMap.wfFrom d lo m = true) : NMap.wfFrom d lo (m.filter p) = true := by
  induction m generalizing lo with
  | nil => rfl
  | cons e m ih =>
    obtain ⟨j, w⟩ := e
    rw [NMap.wfFrom_cons] at h
    by_cases hp : p (j, w) = true
    · simp only [List.filter_cons, hp, if_true]
      rw [NMap.wfFrom_cons]
      exact ⟨h.1, h.2.1, ih (some j) h.2.2⟩
    · simp only [List.filter_cons, hp]
      exact NMap.wfFrom_weaken d lo j _ (ih (some j) h.2.2) fun l hl => Nat.le_of_lt (h.1 l hl)

theorem NMap.wfFrom_put {α : Type} [DecidableEq α] (d v : α) (hv : v ≠ d) (k : Nat) (lo : Option Nat) (m : NMap α)
    (h : NMap.wfFrom d lo m = true) (hk : ∀ e ∈ m, e.1 ≠ k) (hlo : ∀ l, lo = some l → l < k) :
    NMap.wfFrom d lo (NMap.put v k m) = true := by
  induction m generalizing lo with
  | nil =>
    rw [NMap.put, NMap.wfFrom_cons]
    exact ⟨hlo, hv, rfl⟩
  | cons e m ih =>
    obtain ⟨j, w⟩ := e
    have hj : j ≠ k := hk (j, w) (by simp)
    rw [NMap.wfFrom_cons] at h
    unfold NMap.put
    split
    · rename_i hlt
      rw [NMap.wfFrom_cons, NMap.wfFrom_cons]
      exact ⟨hlo, hv, fun l hl => by cases hl; exact hlt, h.2⟩
    · rename_i hge
      rw [NMap.wfFrom_cons]
      refine ⟨h.1, h.2.1, ih (some j) h.2.2 (fun e he => hk e (by simp [he])) ?_⟩
      intro l hl; cases hl; omega

/-- A write keeps the canonical form. -/
theorem NMap.wf_set {α : Type} [DecidableEq α] (d : α) (m : NMap α) (k : Nat) (v : α) (h : NMap.wf d m = true) :
    NMap.wf d (NMap.set d m k v) = true := by
  unfold NMap.set
  split
  · exact NMap.wfFrom_filter d _ none m h
  · rename_i hv
    exact NMap.wfFrom_put d v hv k none _ (NMap.wfFrom_filter d _ none m h) (NMap.drop_keys m k) (by simp)

theorem NMap.wfFrom_map {α : Type} [DecidableEq α] (d : α) (f : Nat → α → α) (lo : Option Nat) (m : NMap α)
    (h : NMap.wfFrom d lo m = true) : NMap.wfFrom d lo (NMap.mapVals d f m) = true := by
  induction m generalizing lo with
  | nil => rfl
  | cons e m ih =>
    obtain ⟨j, w⟩ := e
    rw [NMap.wfFrom_cons] at h
    by_cases hp : f j w = d
    · have : NMap.mapVals d f ((j, w) :: m) = NMap.mapVals d f m := by simp [NMap.mapVals, hp]
      rw [this]
      exact NMap.wfFrom_weaken d lo j _ (ih (some j) h.2.2) fun l hl => Nat.le_of_lt (h.1 l hl)
    · have : NMap.mapVals d f ((j, w) :: m) = (j, f j w) :: NMap.mapVals d f m := by simp [NMap.mapVals, hp]
      rw [this, NMap.wfFrom_cons]
      exact ⟨h.1, hp, ih (some j) h.2.2⟩

/-- Changing every entry keeps the canonical form. -/
theorem NMap.wf_mapVals {α : Type} [DecidableEq α] (d : α) (f : Nat → α → α) (m : NMap α) (h : NMap.wf d m = true) :
    NMap.wf d (NMap.mapVals d f m) = true := NMap.wfFrom_map d f none m h

/-! #### Byte memories -/

theorem ByteMap.get_set (m : ByteMap) (a : Nat) (b : Byte) (x : Nat) :
    ByteMap.get (ByteMap.set m a b) x = if x = a then b else ByteMap.get m x := NMap.get_set 0#8 m a b x

/-- A write leaves every byte outside it alone. -/
theorem ByteMap.get_write_other (m : ByteMap) (a : Nat) (bs : List Byte) (x : Nat) (h : x < a ∨ a + bs.length ≤ x) :
    ByteMap.get (ByteMap.write m a bs) x = ByteMap.get m x := by
  induction bs generalizing m a with
  | nil => rfl
  | cons b bs ih =>
    simp only [List.length_cons] at h
    rw [ByteMap.write, ih (ByteMap.set m a b) (a + 1) (by omega), ByteMap.get_set]
    have : x ≠ a := by omega
    simp [this]

/-- A byte read after a write is the byte written there. -/
theorem ByteMap.get_write (m : ByteMap) (a : Nat) (bs : List Byte) (i : Nat) (h : i < bs.length) :
    ByteMap.get (ByteMap.write m a bs) (a + i) = bs.getD i 0 := by
  induction bs generalizing m a i with
  | nil => simp at h
  | cons b bs ih =>
    simp only [List.length_cons] at h
    cases i with
    | zero =>
      rw [ByteMap.write, Nat.add_zero, ByteMap.get_write_other _ _ _ _ (by omega), ByteMap.get_set]
      simp
    | succ i =>
      rw [ByteMap.write]
      have e : a + (i + 1) = a + 1 + i := by omega
      rw [e, ih (ByteMap.set m a b) (a + 1) i (by omega)]
      simp

/-- Reading a run just written gives the bytes written. -/
theorem ByteMap.read_write (m : ByteMap) (a : Nat) (bs : List Byte) :
    ByteMap.read (ByteMap.write m a bs) a bs.length = bs := by
  have key : ∀ n, n ≤ bs.length → ∀ k, k + n = bs.length →
      ByteMap.read (ByteMap.write m a bs) (a + k) n = bs.drop k := by
    intro n
    induction n with
    | zero => intro _ k hk; simp [ByteMap.read, List.drop_eq_nil_of_le, ← hk]
    | succ n ih =>
      intro hn k hk
      have hlt : k < bs.length := by omega
      rw [ByteMap.read, ByteMap.get_write m a bs k hlt]
      have := ih (by omega) (k + 1) (by omega)
      rw [Nat.add_assoc, this]
      rw [List.drop_eq_getElem_cons hlt]
      simp [List.getD, hlt]
  simpa using key bs.length (Nat.le_refl _) 0 (by omega)

theorem ByteMap.wf_set (m : ByteMap) (a : Nat) (b : Byte) (h : m.wf = true) : (ByteMap.set m a b).wf = true :=
  NMap.wf_set 0#8 m a b h

/-- Writing bytes keeps the canonical form. -/
theorem ByteMap.wf_write (m : ByteMap) (a : Nat) (bs : List Byte) (h : m.wf = true) : (ByteMap.write m a bs).wf = true := by
  induction bs generalizing m a with
  | nil => exact h
  | cons b bs ih => exact ih _ _ (ByteMap.wf_set m a b h)

theorem ByteMap.wf_writeNat (m : ByteMap) (a n v : Nat) (h : m.wf = true) : (ByteMap.writeNat m a n v).wf = true :=
  ByteMap.wf_write m a _ h

/-- Zeroing a range keeps the canonical form. -/
theorem ByteMap.wf_zero (m : ByteMap) (a n : Nat) (h : m.wf = true) : (ByteMap.zero m a n).wf = true :=
  NMap.wfFrom_filter 0#8 _ none m h

theorem ByteMap.wf_nil : ByteMap.wf [] = true := rfl

end Sys2Proof
end

