-- ==== Sys2Proof/Laws/State.lean ====
section
/-! SUPPORT. The state's accessors: what each update leaves in each field, and a read after a write. -/

namespace Sys2Proof.Machine

/-! #### setCluster -/

@[simp] theorem State.setCluster_pending (s : State) (c : Nat) (x : Cluster) : (s.setCluster c x).pending = s.pending := rfl
@[simp] theorem State.setCluster_mem (s : State) (c : Nat) (x : Cluster) : (s.setCluster c x).mem = s.mem := rfl
@[simp] theorem State.setCluster_parts (s : State) (c : Nat) (x : Cluster) : (s.setCluster c x).parts = s.parts := rfl
@[simp] theorem State.setCluster_ctxs (s : State) (c : Nat) (x : Cluster) : (s.setCluster c x).ctxs = s.ctxs := rfl
@[simp] theorem State.setCluster_ctxNext (s : State) (c : Nat) (x : Cluster) : (s.setCluster c x).ctxNext = s.ctxNext := rfl
@[simp] theorem State.setCluster_queues (s : State) (c : Nat) (x : Cluster) : (s.setCluster c x).queues = s.queues := rfl
@[simp] theorem State.setCluster_seqNext (s : State) (c : Nat) (x : Cluster) : (s.setCluster c x).seqNext = s.seqNext := rfl
@[simp] theorem State.setCluster_lastServed (s : State) (c : Nat) (x : Cluster) : (s.setCluster c x).lastServed = s.lastServed := rfl
@[simp] theorem State.setCluster_rst (s : State) (c : Nat) (x : Cluster) : (s.setCluster c x).rst = s.rst := rfl
@[simp] theorem State.setCluster_fab (s : State) (c : Nat) (x : Cluster) : (s.setCluster c x).fab = s.fab := rfl
@[simp] theorem State.setCluster_spine (s : State) (c : Nat) (x : Cluster) : (s.setCluster c x).spine = s.spine := rfl
@[simp] theorem State.setCluster_lnk (s : State) (c : Nat) (x : Cluster) : (s.setCluster c x).lnk = s.lnk := rfl
@[simp] theorem State.setCluster_evt (s : State) (c : Nat) (x : Cluster) : (s.setCluster c x).evt = s.evt := rfl
@[simp] theorem State.setCluster_tok (s : State) (c : Nat) (x : Cluster) : (s.setCluster c x).tok = s.tok := rfl
@[simp] theorem State.setCluster_clp (s : State) (c : Nat) (x : Cluster) : (s.setCluster c x).clp = s.clp := rfl
@[simp] theorem State.setCluster_rope (s : State) (c : Nat) (x : Cluster) : (s.setCluster c x).rope = s.rope := rfl
@[simp] theorem State.setCluster_clk (s : State) (c : Nat) (x : Cluster) : (s.setCluster c x).clk = s.clk := rfl
@[simp] theorem State.setCluster_pwr (s : State) (c : Nat) (x : Cluster) : (s.setCluster c x).pwr = s.pwr := rfl
@[simp] theorem State.setCluster_thm (s : State) (c : Nat) (x : Cluster) : (s.setCluster c x).thm = s.thm := rfl
@[simp] theorem State.setCluster_host (s : State) (c : Nat) (x : Cluster) : (s.setCluster c x).host = s.host := rfl
@[simp] theorem State.setCluster_tap (s : State) (c : Nat) (x : Cluster) : (s.setCluster c x).tap = s.tap := rfl
@[simp] theorem State.setCluster_tapHigh (s : State) (c : Nat) (x : Cluster) : (s.setCluster c x).tapHigh = s.tapHigh := rfl
@[simp] theorem State.setCluster_cfgBusy (s : State) (c : Nat) (x : Cluster) : (s.setCluster c x).cfgBusy = s.cfgBusy := rfl
@[simp] theorem State.setCluster_obsPending (s : State) (c : Nat) (x : Cluster) : (s.setCluster c x).obsPending = s.obsPending := rfl
@[simp] theorem State.setCluster_hostReads (s : State) (c : Nat) (x : Cluster) : (s.setCluster c x).hostReads = s.hostReads := rfl
@[simp] theorem State.setCluster_hrNext (s : State) (c : Nat) (x : Cluster) : (s.setCluster c x).hrNext = s.hrNext := rfl
@[simp] theorem State.setCluster_out (s : State) (c : Nat) (x : Cluster) : (s.setCluster c x).out = s.out := rfl
@[simp] theorem State.setCluster_time (s : State) (c : Nat) (x : Cluster) : (s.setCluster c x).time = s.time := rfl
@[simp] theorem State.setCluster_freeCtr (s : State) (c : Nat) (x : Cluster) : (s.setCluster c x).freeCtr = s.freeCtr := rfl
@[simp] theorem State.setCluster_variant (s : State) (c : Nat) (x : Cluster) : (s.setCluster c x).variant = s.variant := rfl
@[simp] theorem State.setCluster_fuseRenames (s : State) (c : Nat) (x : Cluster) : (s.setCluster c x).fuseRenames = s.fuseRenames := rfl
@[simp] theorem State.setCluster_offerNext (s : State) (c : Nat) (x : Cluster) : (s.setCluster c x).offerNext = s.offerNext := rfl
@[simp] theorem State.setCluster_scan (s : State) (c : Nat) (x : Cluster) : (s.setCluster c x).scan = s.scan := rfl
@[simp] theorem State.setCluster_scanOut (s : State) (c : Nat) (x : Cluster) : (s.setCluster c x).scanOut = s.scanOut := rfl
@[simp] theorem State.setCluster_xfers (s : State) (c : Nat) (x : Cluster) : (s.setCluster c x).xfers = s.xfers := rfl

/-! #### setPart -/

@[simp] theorem State.setPart_pending (s : State) (p : Nat) (x : Part) : (s.setPart p x).pending = s.pending := rfl
@[simp] theorem State.setPart_mem (s : State) (p : Nat) (x : Part) : (s.setPart p x).mem = s.mem := rfl
@[simp] theorem State.setPart_cl (s : State) (p : Nat) (x : Part) : (s.setPart p x).cl = s.cl := rfl
@[simp] theorem State.setPart_ctxs (s : State) (p : Nat) (x : Part) : (s.setPart p x).ctxs = s.ctxs := rfl
@[simp] theorem State.setPart_ctxNext (s : State) (p : Nat) (x : Part) : (s.setPart p x).ctxNext = s.ctxNext := rfl
@[simp] theorem State.setPart_queues (s : State) (p : Nat) (x : Part) : (s.setPart p x).queues = s.queues := rfl
@[simp] theorem State.setPart_seqNext (s : State) (p : Nat) (x : Part) : (s.setPart p x).seqNext = s.seqNext := rfl
@[simp] theorem State.setPart_lastServed (s : State) (p : Nat) (x : Part) : (s.setPart p x).lastServed = s.lastServed := rfl
@[simp] theorem State.setPart_rst (s : State) (p : Nat) (x : Part) : (s.setPart p x).rst = s.rst := rfl
@[simp] theorem State.setPart_fab (s : State) (p : Nat) (x : Part) : (s.setPart p x).fab = s.fab := rfl
@[simp] theorem State.setPart_spine (s : State) (p : Nat) (x : Part) : (s.setPart p x).spine = s.spine := rfl
@[simp] theorem State.setPart_lnk (s : State) (p : Nat) (x : Part) : (s.setPart p x).lnk = s.lnk := rfl
@[simp] theorem State.setPart_evt (s : State) (p : Nat) (x : Part) : (s.setPart p x).evt = s.evt := rfl
@[simp] theorem State.setPart_tok (s : State) (p : Nat) (x : Part) : (s.setPart p x).tok = s.tok := rfl
@[simp] theorem State.setPart_clp (s : State) (p : Nat) (x : Part) : (s.setPart p x).clp = s.clp := rfl
@[simp] theorem State.setPart_rope (s : State) (p : Nat) (x : Part) : (s.setPart p x).rope = s.rope := rfl
@[simp] theorem State.setPart_clk (s : State) (p : Nat) (x : Part) : (s.setPart p x).clk = s.clk := rfl
@[simp] theorem State.setPart_pwr (s : State) (p : Nat) (x : Part) : (s.setPart p x).pwr = s.pwr := rfl
@[simp] theorem State.setPart_thm (s : State) (p : Nat) (x : Part) : (s.setPart p x).thm = s.thm := rfl
@[simp] theorem State.setPart_host (s : State) (p : Nat) (x : Part) : (s.setPart p x).host = s.host := rfl
@[simp] theorem State.setPart_tap (s : State) (p : Nat) (x : Part) : (s.setPart p x).tap = s.tap := rfl
@[simp] theorem State.setPart_tapHigh (s : State) (p : Nat) (x : Part) : (s.setPart p x).tapHigh = s.tapHigh := rfl
@[simp] theorem State.setPart_cfgBusy (s : State) (p : Nat) (x : Part) : (s.setPart p x).cfgBusy = s.cfgBusy := rfl
@[simp] theorem State.setPart_obsPending (s : State) (p : Nat) (x : Part) : (s.setPart p x).obsPending = s.obsPending := rfl
@[simp] theorem State.setPart_hostReads (s : State) (p : Nat) (x : Part) : (s.setPart p x).hostReads = s.hostReads := rfl
@[simp] theorem State.setPart_hrNext (s : State) (p : Nat) (x : Part) : (s.setPart p x).hrNext = s.hrNext := rfl
@[simp] theorem State.setPart_out (s : State) (p : Nat) (x : Part) : (s.setPart p x).out = s.out := rfl
@[simp] theorem State.setPart_time (s : State) (p : Nat) (x : Part) : (s.setPart p x).time = s.time := rfl
@[simp] theorem State.setPart_freeCtr (s : State) (p : Nat) (x : Part) : (s.setPart p x).freeCtr = s.freeCtr := rfl
@[simp] theorem State.setPart_variant (s : State) (p : Nat) (x : Part) : (s.setPart p x).variant = s.variant := rfl
@[simp] theorem State.setPart_fuseRenames (s : State) (p : Nat) (x : Part) : (s.setPart p x).fuseRenames = s.fuseRenames := rfl
@[simp] theorem State.setPart_offerNext (s : State) (p : Nat) (x : Part) : (s.setPart p x).offerNext = s.offerNext := rfl
@[simp] theorem State.setPart_scan (s : State) (p : Nat) (x : Part) : (s.setPart p x).scan = s.scan := rfl
@[simp] theorem State.setPart_scanOut (s : State) (p : Nat) (x : Part) : (s.setPart p x).scanOut = s.scanOut := rfl
@[simp] theorem State.setPart_xfers (s : State) (p : Nat) (x : Part) : (s.setPart p x).xfers = s.xfers := rfl

/-! #### setCtx -/

@[simp] theorem State.setCtx_pending (s : State) (k : Nat) (x : Ctx) : (s.setCtx k x).pending = s.pending := rfl
@[simp] theorem State.setCtx_mem (s : State) (k : Nat) (x : Ctx) : (s.setCtx k x).mem = s.mem := rfl
@[simp] theorem State.setCtx_cl (s : State) (k : Nat) (x : Ctx) : (s.setCtx k x).cl = s.cl := rfl
@[simp] theorem State.setCtx_parts (s : State) (k : Nat) (x : Ctx) : (s.setCtx k x).parts = s.parts := rfl
@[simp] theorem State.setCtx_ctxNext (s : State) (k : Nat) (x : Ctx) : (s.setCtx k x).ctxNext = s.ctxNext := rfl
@[simp] theorem State.setCtx_queues (s : State) (k : Nat) (x : Ctx) : (s.setCtx k x).queues = s.queues := rfl
@[simp] theorem State.setCtx_seqNext (s : State) (k : Nat) (x : Ctx) : (s.setCtx k x).seqNext = s.seqNext := rfl
@[simp] theorem State.setCtx_lastServed (s : State) (k : Nat) (x : Ctx) : (s.setCtx k x).lastServed = s.lastServed := rfl
@[simp] theorem State.setCtx_rst (s : State) (k : Nat) (x : Ctx) : (s.setCtx k x).rst = s.rst := rfl
@[simp] theorem State.setCtx_fab (s : State) (k : Nat) (x : Ctx) : (s.setCtx k x).fab = s.fab := rfl
@[simp] theorem State.setCtx_spine (s : State) (k : Nat) (x : Ctx) : (s.setCtx k x).spine = s.spine := rfl
@[simp] theorem State.setCtx_lnk (s : State) (k : Nat) (x : Ctx) : (s.setCtx k x).lnk = s.lnk := rfl
@[simp] theorem State.setCtx_evt (s : State) (k : Nat) (x : Ctx) : (s.setCtx k x).evt = s.evt := rfl
@[simp] theorem State.setCtx_tok (s : State) (k : Nat) (x : Ctx) : (s.setCtx k x).tok = s.tok := rfl
@[simp] theorem State.setCtx_clp (s : State) (k : Nat) (x : Ctx) : (s.setCtx k x).clp = s.clp := rfl
@[simp] theorem State.setCtx_rope (s : State) (k : Nat) (x : Ctx) : (s.setCtx k x).rope = s.rope := rfl
@[simp] theorem State.setCtx_clk (s : State) (k : Nat) (x : Ctx) : (s.setCtx k x).clk = s.clk := rfl
@[simp] theorem State.setCtx_pwr (s : State) (k : Nat) (x : Ctx) : (s.setCtx k x).pwr = s.pwr := rfl
@[simp] theorem State.setCtx_thm (s : State) (k : Nat) (x : Ctx) : (s.setCtx k x).thm = s.thm := rfl
@[simp] theorem State.setCtx_host (s : State) (k : Nat) (x : Ctx) : (s.setCtx k x).host = s.host := rfl
@[simp] theorem State.setCtx_tap (s : State) (k : Nat) (x : Ctx) : (s.setCtx k x).tap = s.tap := rfl
@[simp] theorem State.setCtx_tapHigh (s : State) (k : Nat) (x : Ctx) : (s.setCtx k x).tapHigh = s.tapHigh := rfl
@[simp] theorem State.setCtx_cfgBusy (s : State) (k : Nat) (x : Ctx) : (s.setCtx k x).cfgBusy = s.cfgBusy := rfl
@[simp] theorem State.setCtx_obsPending (s : State) (k : Nat) (x : Ctx) : (s.setCtx k x).obsPending = s.obsPending := rfl
@[simp] theorem State.setCtx_hostReads (s : State) (k : Nat) (x : Ctx) : (s.setCtx k x).hostReads = s.hostReads := rfl
@[simp] theorem State.setCtx_hrNext (s : State) (k : Nat) (x : Ctx) : (s.setCtx k x).hrNext = s.hrNext := rfl
@[simp] theorem State.setCtx_out (s : State) (k : Nat) (x : Ctx) : (s.setCtx k x).out = s.out := rfl
@[simp] theorem State.setCtx_time (s : State) (k : Nat) (x : Ctx) : (s.setCtx k x).time = s.time := rfl
@[simp] theorem State.setCtx_freeCtr (s : State) (k : Nat) (x : Ctx) : (s.setCtx k x).freeCtr = s.freeCtr := rfl
@[simp] theorem State.setCtx_variant (s : State) (k : Nat) (x : Ctx) : (s.setCtx k x).variant = s.variant := rfl
@[simp] theorem State.setCtx_fuseRenames (s : State) (k : Nat) (x : Ctx) : (s.setCtx k x).fuseRenames = s.fuseRenames := rfl
@[simp] theorem State.setCtx_offerNext (s : State) (k : Nat) (x : Ctx) : (s.setCtx k x).offerNext = s.offerNext := rfl
@[simp] theorem State.setCtx_scan (s : State) (k : Nat) (x : Ctx) : (s.setCtx k x).scan = s.scan := rfl
@[simp] theorem State.setCtx_scanOut (s : State) (k : Nat) (x : Ctx) : (s.setCtx k x).scanOut = s.scanOut := rfl
@[simp] theorem State.setCtx_xfers (s : State) (k : Nat) (x : Ctx) : (s.setCtx k x).xfers = s.xfers := rfl

/-! #### setQueue -/

@[simp] theorem State.setQueue_pending (s : State) (f q : Nat) (x : Queue) : (s.setQueue f q x).pending = s.pending := rfl
@[simp] theorem State.setQueue_mem (s : State) (f q : Nat) (x : Queue) : (s.setQueue f q x).mem = s.mem := rfl
@[simp] theorem State.setQueue_cl (s : State) (f q : Nat) (x : Queue) : (s.setQueue f q x).cl = s.cl := rfl
@[simp] theorem State.setQueue_parts (s : State) (f q : Nat) (x : Queue) : (s.setQueue f q x).parts = s.parts := rfl
@[simp] theorem State.setQueue_ctxs (s : State) (f q : Nat) (x : Queue) : (s.setQueue f q x).ctxs = s.ctxs := rfl
@[simp] theorem State.setQueue_ctxNext (s : State) (f q : Nat) (x : Queue) : (s.setQueue f q x).ctxNext = s.ctxNext := rfl
@[simp] theorem State.setQueue_seqNext (s : State) (f q : Nat) (x : Queue) : (s.setQueue f q x).seqNext = s.seqNext := rfl
@[simp] theorem State.setQueue_lastServed (s : State) (f q : Nat) (x : Queue) : (s.setQueue f q x).lastServed = s.lastServed := rfl
@[simp] theorem State.setQueue_rst (s : State) (f q : Nat) (x : Queue) : (s.setQueue f q x).rst = s.rst := rfl
@[simp] theorem State.setQueue_fab (s : State) (f q : Nat) (x : Queue) : (s.setQueue f q x).fab = s.fab := rfl
@[simp] theorem State.setQueue_spine (s : State) (f q : Nat) (x : Queue) : (s.setQueue f q x).spine = s.spine := rfl
@[simp] theorem State.setQueue_lnk (s : State) (f q : Nat) (x : Queue) : (s.setQueue f q x).lnk = s.lnk := rfl
@[simp] theorem State.setQueue_evt (s : State) (f q : Nat) (x : Queue) : (s.setQueue f q x).evt = s.evt := rfl
@[simp] theorem State.setQueue_tok (s : State) (f q : Nat) (x : Queue) : (s.setQueue f q x).tok = s.tok := rfl
@[simp] theorem State.setQueue_clp (s : State) (f q : Nat) (x : Queue) : (s.setQueue f q x).clp = s.clp := rfl
@[simp] theorem State.setQueue_rope (s : State) (f q : Nat) (x : Queue) : (s.setQueue f q x).rope = s.rope := rfl
@[simp] theorem State.setQueue_clk (s : State) (f q : Nat) (x : Queue) : (s.setQueue f q x).clk = s.clk := rfl
@[simp] theorem State.setQueue_pwr (s : State) (f q : Nat) (x : Queue) : (s.setQueue f q x).pwr = s.pwr := rfl
@[simp] theorem State.setQueue_thm (s : State) (f q : Nat) (x : Queue) : (s.setQueue f q x).thm = s.thm := rfl
@[simp] theorem State.setQueue_host (s : State) (f q : Nat) (x : Queue) : (s.setQueue f q x).host = s.host := rfl
@[simp] theorem State.setQueue_tap (s : State) (f q : Nat) (x : Queue) : (s.setQueue f q x).tap = s.tap := rfl
@[simp] theorem State.setQueue_tapHigh (s : State) (f q : Nat) (x : Queue) : (s.setQueue f q x).tapHigh = s.tapHigh := rfl
@[simp] theorem State.setQueue_cfgBusy (s : State) (f q : Nat) (x : Queue) : (s.setQueue f q x).cfgBusy = s.cfgBusy := rfl
@[simp] theorem State.setQueue_obsPending (s : State) (f q : Nat) (x : Queue) : (s.setQueue f q x).obsPending = s.obsPending := rfl
@[simp] theorem State.setQueue_hostReads (s : State) (f q : Nat) (x : Queue) : (s.setQueue f q x).hostReads = s.hostReads := rfl
@[simp] theorem State.setQueue_hrNext (s : State) (f q : Nat) (x : Queue) : (s.setQueue f q x).hrNext = s.hrNext := rfl
@[simp] theorem State.setQueue_out (s : State) (f q : Nat) (x : Queue) : (s.setQueue f q x).out = s.out := rfl
@[simp] theorem State.setQueue_time (s : State) (f q : Nat) (x : Queue) : (s.setQueue f q x).time = s.time := rfl
@[simp] theorem State.setQueue_freeCtr (s : State) (f q : Nat) (x : Queue) : (s.setQueue f q x).freeCtr = s.freeCtr := rfl
@[simp] theorem State.setQueue_variant (s : State) (f q : Nat) (x : Queue) : (s.setQueue f q x).variant = s.variant := rfl
@[simp] theorem State.setQueue_fuseRenames (s : State) (f q : Nat) (x : Queue) : (s.setQueue f q x).fuseRenames = s.fuseRenames := rfl
@[simp] theorem State.setQueue_offerNext (s : State) (f q : Nat) (x : Queue) : (s.setQueue f q x).offerNext = s.offerNext := rfl
@[simp] theorem State.setQueue_scan (s : State) (f q : Nat) (x : Queue) : (s.setQueue f q x).scan = s.scan := rfl
@[simp] theorem State.setQueue_scanOut (s : State) (f q : Nat) (x : Queue) : (s.setQueue f q x).scanOut = s.scanOut := rfl
@[simp] theorem State.setQueue_xfers (s : State) (f q : Nat) (x : Queue) : (s.setQueue f q x).xfers = s.xfers := rfl

/-! #### send -/

@[simp] theorem State.send_pending (s : State) (o : Out) : (s.send o).pending = s.pending := rfl
@[simp] theorem State.send_mem (s : State) (o : Out) : (s.send o).mem = s.mem := rfl
@[simp] theorem State.send_cl (s : State) (o : Out) : (s.send o).cl = s.cl := rfl
@[simp] theorem State.send_parts (s : State) (o : Out) : (s.send o).parts = s.parts := rfl
@[simp] theorem State.send_ctxs (s : State) (o : Out) : (s.send o).ctxs = s.ctxs := rfl
@[simp] theorem State.send_ctxNext (s : State) (o : Out) : (s.send o).ctxNext = s.ctxNext := rfl
@[simp] theorem State.send_queues (s : State) (o : Out) : (s.send o).queues = s.queues := rfl
@[simp] theorem State.send_seqNext (s : State) (o : Out) : (s.send o).seqNext = s.seqNext := rfl
@[simp] theorem State.send_lastServed (s : State) (o : Out) : (s.send o).lastServed = s.lastServed := rfl
@[simp] theorem State.send_rst (s : State) (o : Out) : (s.send o).rst = s.rst := rfl
@[simp] theorem State.send_fab (s : State) (o : Out) : (s.send o).fab = s.fab := rfl
@[simp] theorem State.send_spine (s : State) (o : Out) : (s.send o).spine = s.spine := rfl
@[simp] theorem State.send_lnk (s : State) (o : Out) : (s.send o).lnk = s.lnk := rfl
@[simp] theorem State.send_evt (s : State) (o : Out) : (s.send o).evt = s.evt := rfl
@[simp] theorem State.send_tok (s : State) (o : Out) : (s.send o).tok = s.tok := rfl
@[simp] theorem State.send_clp (s : State) (o : Out) : (s.send o).clp = s.clp := rfl
@[simp] theorem State.send_rope (s : State) (o : Out) : (s.send o).rope = s.rope := rfl
@[simp] theorem State.send_clk (s : State) (o : Out) : (s.send o).clk = s.clk := rfl
@[simp] theorem State.send_pwr (s : State) (o : Out) : (s.send o).pwr = s.pwr := rfl
@[simp] theorem State.send_thm (s : State) (o : Out) : (s.send o).thm = s.thm := rfl
@[simp] theorem State.send_host (s : State) (o : Out) : (s.send o).host = s.host := rfl
@[simp] theorem State.send_tap (s : State) (o : Out) : (s.send o).tap = s.tap := rfl
@[simp] theorem State.send_tapHigh (s : State) (o : Out) : (s.send o).tapHigh = s.tapHigh := rfl
@[simp] theorem State.send_cfgBusy (s : State) (o : Out) : (s.send o).cfgBusy = s.cfgBusy := rfl
@[simp] theorem State.send_obsPending (s : State) (o : Out) : (s.send o).obsPending = s.obsPending := rfl
@[simp] theorem State.send_hostReads (s : State) (o : Out) : (s.send o).hostReads = s.hostReads := rfl
@[simp] theorem State.send_hrNext (s : State) (o : Out) : (s.send o).hrNext = s.hrNext := rfl
@[simp] theorem State.send_time (s : State) (o : Out) : (s.send o).time = s.time := rfl
@[simp] theorem State.send_freeCtr (s : State) (o : Out) : (s.send o).freeCtr = s.freeCtr := rfl
@[simp] theorem State.send_variant (s : State) (o : Out) : (s.send o).variant = s.variant := rfl
@[simp] theorem State.send_fuseRenames (s : State) (o : Out) : (s.send o).fuseRenames = s.fuseRenames := rfl
@[simp] theorem State.send_offerNext (s : State) (o : Out) : (s.send o).offerNext = s.offerNext := rfl
@[simp] theorem State.send_scan (s : State) (o : Out) : (s.send o).scan = s.scan := rfl
@[simp] theorem State.send_scanOut (s : State) (o : Out) : (s.send o).scanOut = s.scanOut := rfl
@[simp] theorem State.send_xfers (s : State) (o : Out) : (s.send o).xfers = s.xfers := rfl

/-! #### observe -/

@[simp] theorem State.observe_pending (s : State) (o : Occ) : (s.observe o).pending = s.pending := rfl
@[simp] theorem State.observe_cl (s : State) (o : Occ) : (s.observe o).cl = s.cl := rfl
@[simp] theorem State.observe_parts (s : State) (o : Occ) : (s.observe o).parts = s.parts := rfl
@[simp] theorem State.observe_ctxs (s : State) (o : Occ) : (s.observe o).ctxs = s.ctxs := rfl
@[simp] theorem State.observe_ctxNext (s : State) (o : Occ) : (s.observe o).ctxNext = s.ctxNext := rfl
@[simp] theorem State.observe_queues (s : State) (o : Occ) : (s.observe o).queues = s.queues := rfl
@[simp] theorem State.observe_seqNext (s : State) (o : Occ) : (s.observe o).seqNext = s.seqNext := rfl
@[simp] theorem State.observe_lastServed (s : State) (o : Occ) : (s.observe o).lastServed = s.lastServed := rfl
@[simp] theorem State.observe_rst (s : State) (o : Occ) : (s.observe o).rst = s.rst := rfl
@[simp] theorem State.observe_fab (s : State) (o : Occ) : (s.observe o).fab = s.fab := rfl
@[simp] theorem State.observe_spine (s : State) (o : Occ) : (s.observe o).spine = s.spine := rfl
@[simp] theorem State.observe_lnk (s : State) (o : Occ) : (s.observe o).lnk = s.lnk := rfl
@[simp] theorem State.observe_evt (s : State) (o : Occ) : (s.observe o).evt = s.evt := rfl
@[simp] theorem State.observe_tok (s : State) (o : Occ) : (s.observe o).tok = s.tok := rfl
@[simp] theorem State.observe_clp (s : State) (o : Occ) : (s.observe o).clp = s.clp := rfl
@[simp] theorem State.observe_rope (s : State) (o : Occ) : (s.observe o).rope = s.rope := rfl
@[simp] theorem State.observe_clk (s : State) (o : Occ) : (s.observe o).clk = s.clk := rfl
@[simp] theorem State.observe_pwr (s : State) (o : Occ) : (s.observe o).pwr = s.pwr := rfl
@[simp] theorem State.observe_thm (s : State) (o : Occ) : (s.observe o).thm = s.thm := rfl
@[simp] theorem State.observe_host (s : State) (o : Occ) : (s.observe o).host = s.host := rfl
@[simp] theorem State.observe_tap (s : State) (o : Occ) : (s.observe o).tap = s.tap := rfl
@[simp] theorem State.observe_tapHigh (s : State) (o : Occ) : (s.observe o).tapHigh = s.tapHigh := rfl
@[simp] theorem State.observe_cfgBusy (s : State) (o : Occ) : (s.observe o).cfgBusy = s.cfgBusy := rfl
@[simp] theorem State.observe_obsPending (s : State) (o : Occ) : (s.observe o).obsPending = s.obsPending := rfl
@[simp] theorem State.observe_hostReads (s : State) (o : Occ) : (s.observe o).hostReads = s.hostReads := rfl
@[simp] theorem State.observe_hrNext (s : State) (o : Occ) : (s.observe o).hrNext = s.hrNext := rfl
@[simp] theorem State.observe_out (s : State) (o : Occ) : (s.observe o).out = s.out := rfl
@[simp] theorem State.observe_time (s : State) (o : Occ) : (s.observe o).time = s.time := rfl
@[simp] theorem State.observe_freeCtr (s : State) (o : Occ) : (s.observe o).freeCtr = s.freeCtr := rfl
@[simp] theorem State.observe_variant (s : State) (o : Occ) : (s.observe o).variant = s.variant := rfl
@[simp] theorem State.observe_fuseRenames (s : State) (o : Occ) : (s.observe o).fuseRenames = s.fuseRenames := rfl
@[simp] theorem State.observe_offerNext (s : State) (o : Occ) : (s.observe o).offerNext = s.offerNext := rfl
@[simp] theorem State.observe_scan (s : State) (o : Occ) : (s.observe o).scan = s.scan := rfl
@[simp] theorem State.observe_scanOut (s : State) (o : Occ) : (s.observe o).scanOut = s.scanOut := rfl
@[simp] theorem State.observe_xfers (s : State) (o : Occ) : (s.observe o).xfers = s.xfers := rfl

/-! #### setGroup -/

@[simp] theorem State.setGroup_pending (s : State) (g : Grp) (x : Group) : (s.setGroup g x).pending = s.pending := rfl
@[simp] theorem State.setGroup_mem (s : State) (g : Grp) (x : Group) : (s.setGroup g x).mem = s.mem := rfl
@[simp] theorem State.setGroup_parts (s : State) (g : Grp) (x : Group) : (s.setGroup g x).parts = s.parts := rfl
@[simp] theorem State.setGroup_ctxs (s : State) (g : Grp) (x : Group) : (s.setGroup g x).ctxs = s.ctxs := rfl
@[simp] theorem State.setGroup_ctxNext (s : State) (g : Grp) (x : Group) : (s.setGroup g x).ctxNext = s.ctxNext := rfl
@[simp] theorem State.setGroup_queues (s : State) (g : Grp) (x : Group) : (s.setGroup g x).queues = s.queues := rfl
@[simp] theorem State.setGroup_seqNext (s : State) (g : Grp) (x : Group) : (s.setGroup g x).seqNext = s.seqNext := rfl
@[simp] theorem State.setGroup_lastServed (s : State) (g : Grp) (x : Group) : (s.setGroup g x).lastServed = s.lastServed := rfl
@[simp] theorem State.setGroup_rst (s : State) (g : Grp) (x : Group) : (s.setGroup g x).rst = s.rst := rfl
@[simp] theorem State.setGroup_fab (s : State) (g : Grp) (x : Group) : (s.setGroup g x).fab = s.fab := rfl
@[simp] theorem State.setGroup_spine (s : State) (g : Grp) (x : Group) : (s.setGroup g x).spine = s.spine := rfl
@[simp] theorem State.setGroup_lnk (s : State) (g : Grp) (x : Group) : (s.setGroup g x).lnk = s.lnk := rfl
@[simp] theorem State.setGroup_evt (s : State) (g : Grp) (x : Group) : (s.setGroup g x).evt = s.evt := rfl
@[simp] theorem State.setGroup_tok (s : State) (g : Grp) (x : Group) : (s.setGroup g x).tok = s.tok := rfl
@[simp] theorem State.setGroup_clp (s : State) (g : Grp) (x : Group) : (s.setGroup g x).clp = s.clp := rfl
@[simp] theorem State.setGroup_rope (s : State) (g : Grp) (x : Group) : (s.setGroup g x).rope = s.rope := rfl
@[simp] theorem State.setGroup_clk (s : State) (g : Grp) (x : Group) : (s.setGroup g x).clk = s.clk := rfl
@[simp] theorem State.setGroup_pwr (s : State) (g : Grp) (x : Group) : (s.setGroup g x).pwr = s.pwr := rfl
@[simp] theorem State.setGroup_thm (s : State) (g : Grp) (x : Group) : (s.setGroup g x).thm = s.thm := rfl
@[simp] theorem State.setGroup_host (s : State) (g : Grp) (x : Group) : (s.setGroup g x).host = s.host := rfl
@[simp] theorem State.setGroup_tap (s : State) (g : Grp) (x : Group) : (s.setGroup g x).tap = s.tap := rfl
@[simp] theorem State.setGroup_tapHigh (s : State) (g : Grp) (x : Group) : (s.setGroup g x).tapHigh = s.tapHigh := rfl
@[simp] theorem State.setGroup_cfgBusy (s : State) (g : Grp) (x : Group) : (s.setGroup g x).cfgBusy = s.cfgBusy := rfl
@[simp] theorem State.setGroup_obsPending (s : State) (g : Grp) (x : Group) : (s.setGroup g x).obsPending = s.obsPending := rfl
@[simp] theorem State.setGroup_hostReads (s : State) (g : Grp) (x : Group) : (s.setGroup g x).hostReads = s.hostReads := rfl
@[simp] theorem State.setGroup_hrNext (s : State) (g : Grp) (x : Group) : (s.setGroup g x).hrNext = s.hrNext := rfl
@[simp] theorem State.setGroup_out (s : State) (g : Grp) (x : Group) : (s.setGroup g x).out = s.out := rfl
@[simp] theorem State.setGroup_time (s : State) (g : Grp) (x : Group) : (s.setGroup g x).time = s.time := rfl
@[simp] theorem State.setGroup_freeCtr (s : State) (g : Grp) (x : Group) : (s.setGroup g x).freeCtr = s.freeCtr := rfl
@[simp] theorem State.setGroup_variant (s : State) (g : Grp) (x : Group) : (s.setGroup g x).variant = s.variant := rfl
@[simp] theorem State.setGroup_fuseRenames (s : State) (g : Grp) (x : Group) : (s.setGroup g x).fuseRenames = s.fuseRenames := rfl
@[simp] theorem State.setGroup_offerNext (s : State) (g : Grp) (x : Group) : (s.setGroup g x).offerNext = s.offerNext := rfl
@[simp] theorem State.setGroup_scan (s : State) (g : Grp) (x : Group) : (s.setGroup g x).scan = s.scan := rfl
@[simp] theorem State.setGroup_scanOut (s : State) (g : Grp) (x : Group) : (s.setGroup g x).scanOut = s.scanOut := rfl
@[simp] theorem State.setGroup_xfers (s : State) (g : Grp) (x : Group) : (s.setGroup g x).xfers = s.xfers := rfl

/-! #### setLink -/

@[simp] theorem State.setLink_pending (s : State) (l : Nat) (x : Link) : (s.setLink l x).pending = s.pending := rfl
@[simp] theorem State.setLink_mem (s : State) (l : Nat) (x : Link) : (s.setLink l x).mem = s.mem := rfl
@[simp] theorem State.setLink_cl (s : State) (l : Nat) (x : Link) : (s.setLink l x).cl = s.cl := rfl
@[simp] theorem State.setLink_parts (s : State) (l : Nat) (x : Link) : (s.setLink l x).parts = s.parts := rfl
@[simp] theorem State.setLink_ctxs (s : State) (l : Nat) (x : Link) : (s.setLink l x).ctxs = s.ctxs := rfl
@[simp] theorem State.setLink_ctxNext (s : State) (l : Nat) (x : Link) : (s.setLink l x).ctxNext = s.ctxNext := rfl
@[simp] theorem State.setLink_queues (s : State) (l : Nat) (x : Link) : (s.setLink l x).queues = s.queues := rfl
@[simp] theorem State.setLink_seqNext (s : State) (l : Nat) (x : Link) : (s.setLink l x).seqNext = s.seqNext := rfl
@[simp] theorem State.setLink_lastServed (s : State) (l : Nat) (x : Link) : (s.setLink l x).lastServed = s.lastServed := rfl
@[simp] theorem State.setLink_rst (s : State) (l : Nat) (x : Link) : (s.setLink l x).rst = s.rst := rfl
@[simp] theorem State.setLink_fab (s : State) (l : Nat) (x : Link) : (s.setLink l x).fab = s.fab := rfl
@[simp] theorem State.setLink_spine (s : State) (l : Nat) (x : Link) : (s.setLink l x).spine = s.spine := rfl
@[simp] theorem State.setLink_evt (s : State) (l : Nat) (x : Link) : (s.setLink l x).evt = s.evt := rfl
@[simp] theorem State.setLink_tok (s : State) (l : Nat) (x : Link) : (s.setLink l x).tok = s.tok := rfl
@[simp] theorem State.setLink_clp (s : State) (l : Nat) (x : Link) : (s.setLink l x).clp = s.clp := rfl
@[simp] theorem State.setLink_rope (s : State) (l : Nat) (x : Link) : (s.setLink l x).rope = s.rope := rfl
@[simp] theorem State.setLink_clk (s : State) (l : Nat) (x : Link) : (s.setLink l x).clk = s.clk := rfl
@[simp] theorem State.setLink_pwr (s : State) (l : Nat) (x : Link) : (s.setLink l x).pwr = s.pwr := rfl
@[simp] theorem State.setLink_thm (s : State) (l : Nat) (x : Link) : (s.setLink l x).thm = s.thm := rfl
@[simp] theorem State.setLink_host (s : State) (l : Nat) (x : Link) : (s.setLink l x).host = s.host := rfl
@[simp] theorem State.setLink_tap (s : State) (l : Nat) (x : Link) : (s.setLink l x).tap = s.tap := rfl
@[simp] theorem State.setLink_tapHigh (s : State) (l : Nat) (x : Link) : (s.setLink l x).tapHigh = s.tapHigh := rfl
@[simp] theorem State.setLink_cfgBusy (s : State) (l : Nat) (x : Link) : (s.setLink l x).cfgBusy = s.cfgBusy := rfl
@[simp] theorem State.setLink_obsPending (s : State) (l : Nat) (x : Link) : (s.setLink l x).obsPending = s.obsPending := rfl
@[simp] theorem State.setLink_hostReads (s : State) (l : Nat) (x : Link) : (s.setLink l x).hostReads = s.hostReads := rfl
@[simp] theorem State.setLink_hrNext (s : State) (l : Nat) (x : Link) : (s.setLink l x).hrNext = s.hrNext := rfl
@[simp] theorem State.setLink_out (s : State) (l : Nat) (x : Link) : (s.setLink l x).out = s.out := rfl
@[simp] theorem State.setLink_time (s : State) (l : Nat) (x : Link) : (s.setLink l x).time = s.time := rfl
@[simp] theorem State.setLink_freeCtr (s : State) (l : Nat) (x : Link) : (s.setLink l x).freeCtr = s.freeCtr := rfl
@[simp] theorem State.setLink_variant (s : State) (l : Nat) (x : Link) : (s.setLink l x).variant = s.variant := rfl
@[simp] theorem State.setLink_fuseRenames (s : State) (l : Nat) (x : Link) : (s.setLink l x).fuseRenames = s.fuseRenames := rfl
@[simp] theorem State.setLink_offerNext (s : State) (l : Nat) (x : Link) : (s.setLink l x).offerNext = s.offerNext := rfl
@[simp] theorem State.setLink_scan (s : State) (l : Nat) (x : Link) : (s.setLink l x).scan = s.scan := rfl
@[simp] theorem State.setLink_scanOut (s : State) (l : Nat) (x : Link) : (s.setLink l x).scanOut = s.scanOut := rfl
@[simp] theorem State.setLink_xfers (s : State) (l : Nat) (x : Link) : (s.setLink l x).xfers = s.xfers := rfl

/-! #### setEngine -/

@[simp] theorem State.setEngine_pending (s : State) (k : Nat) (e : Engine) : (s.setEngine k e).pending = s.pending := rfl
@[simp] theorem State.setEngine_mem (s : State) (k : Nat) (e : Engine) : (s.setEngine k e).mem = s.mem := rfl
@[simp] theorem State.setEngine_cl (s : State) (k : Nat) (e : Engine) : (s.setEngine k e).cl = s.cl := rfl
@[simp] theorem State.setEngine_parts (s : State) (k : Nat) (e : Engine) : (s.setEngine k e).parts = s.parts := rfl
@[simp] theorem State.setEngine_ctxs (s : State) (k : Nat) (e : Engine) : (s.setEngine k e).ctxs = s.ctxs := rfl
@[simp] theorem State.setEngine_ctxNext (s : State) (k : Nat) (e : Engine) : (s.setEngine k e).ctxNext = s.ctxNext := rfl
@[simp] theorem State.setEngine_queues (s : State) (k : Nat) (e : Engine) : (s.setEngine k e).queues = s.queues := rfl
@[simp] theorem State.setEngine_seqNext (s : State) (k : Nat) (e : Engine) : (s.setEngine k e).seqNext = s.seqNext := rfl
@[simp] theorem State.setEngine_lastServed (s : State) (k : Nat) (e : Engine) : (s.setEngine k e).lastServed = s.lastServed := rfl
@[simp] theorem State.setEngine_rst (s : State) (k : Nat) (e : Engine) : (s.setEngine k e).rst = s.rst := rfl
@[simp] theorem State.setEngine_fab (s : State) (k : Nat) (e : Engine) : (s.setEngine k e).fab = s.fab := rfl
@[simp] theorem State.setEngine_spine (s : State) (k : Nat) (e : Engine) : (s.setEngine k e).spine = s.spine := rfl
@[simp] theorem State.setEngine_evt (s : State) (k : Nat) (e : Engine) : (s.setEngine k e).evt = s.evt := rfl
@[simp] theorem State.setEngine_tok (s : State) (k : Nat) (e : Engine) : (s.setEngine k e).tok = s.tok := rfl
@[simp] theorem State.setEngine_clp (s : State) (k : Nat) (e : Engine) : (s.setEngine k e).clp = s.clp := rfl
@[simp] theorem State.setEngine_rope (s : State) (k : Nat) (e : Engine) : (s.setEngine k e).rope = s.rope := rfl
@[simp] theorem State.setEngine_clk (s : State) (k : Nat) (e : Engine) : (s.setEngine k e).clk = s.clk := rfl
@[simp] theorem State.setEngine_pwr (s : State) (k : Nat) (e : Engine) : (s.setEngine k e).pwr = s.pwr := rfl
@[simp] theorem State.setEngine_thm (s : State) (k : Nat) (e : Engine) : (s.setEngine k e).thm = s.thm := rfl
@[simp] theorem State.setEngine_host (s : State) (k : Nat) (e : Engine) : (s.setEngine k e).host = s.host := rfl
@[simp] theorem State.setEngine_tap (s : State) (k : Nat) (e : Engine) : (s.setEngine k e).tap = s.tap := rfl
@[simp] theorem State.setEngine_tapHigh (s : State) (k : Nat) (e : Engine) : (s.setEngine k e).tapHigh = s.tapHigh := rfl
@[simp] theorem State.setEngine_cfgBusy (s : State) (k : Nat) (e : Engine) : (s.setEngine k e).cfgBusy = s.cfgBusy := rfl
@[simp] theorem State.setEngine_obsPending (s : State) (k : Nat) (e : Engine) : (s.setEngine k e).obsPending = s.obsPending := rfl
@[simp] theorem State.setEngine_hostReads (s : State) (k : Nat) (e : Engine) : (s.setEngine k e).hostReads = s.hostReads := rfl
@[simp] theorem State.setEngine_hrNext (s : State) (k : Nat) (e : Engine) : (s.setEngine k e).hrNext = s.hrNext := rfl
@[simp] theorem State.setEngine_out (s : State) (k : Nat) (e : Engine) : (s.setEngine k e).out = s.out := rfl
@[simp] theorem State.setEngine_time (s : State) (k : Nat) (e : Engine) : (s.setEngine k e).time = s.time := rfl
@[simp] theorem State.setEngine_freeCtr (s : State) (k : Nat) (e : Engine) : (s.setEngine k e).freeCtr = s.freeCtr := rfl
@[simp] theorem State.setEngine_variant (s : State) (k : Nat) (e : Engine) : (s.setEngine k e).variant = s.variant := rfl
@[simp] theorem State.setEngine_fuseRenames (s : State) (k : Nat) (e : Engine) : (s.setEngine k e).fuseRenames = s.fuseRenames := rfl
@[simp] theorem State.setEngine_offerNext (s : State) (k : Nat) (e : Engine) : (s.setEngine k e).offerNext = s.offerNext := rfl
@[simp] theorem State.setEngine_scan (s : State) (k : Nat) (e : Engine) : (s.setEngine k e).scan = s.scan := rfl
@[simp] theorem State.setEngine_scanOut (s : State) (k : Nat) (e : Engine) : (s.setEngine k e).scanOut = s.scanOut := rfl
@[simp] theorem State.setEngine_xfers (s : State) (k : Nat) (e : Engine) : (s.setEngine k e).xfers = s.xfers := rfl

/-! #### setGath -/

@[simp] theorem State.setGath_pending (s : State) (k : Nat) (x : Gath) : (s.setGath k x).pending = s.pending := rfl
@[simp] theorem State.setGath_mem (s : State) (k : Nat) (x : Gath) : (s.setGath k x).mem = s.mem := rfl
@[simp] theorem State.setGath_cl (s : State) (k : Nat) (x : Gath) : (s.setGath k x).cl = s.cl := rfl
@[simp] theorem State.setGath_parts (s : State) (k : Nat) (x : Gath) : (s.setGath k x).parts = s.parts := rfl
@[simp] theorem State.setGath_ctxs (s : State) (k : Nat) (x : Gath) : (s.setGath k x).ctxs = s.ctxs := rfl
@[simp] theorem State.setGath_ctxNext (s : State) (k : Nat) (x : Gath) : (s.setGath k x).ctxNext = s.ctxNext := rfl
@[simp] theorem State.setGath_queues (s : State) (k : Nat) (x : Gath) : (s.setGath k x).queues = s.queues := rfl
@[simp] theorem State.setGath_seqNext (s : State) (k : Nat) (x : Gath) : (s.setGath k x).seqNext = s.seqNext := rfl
@[simp] theorem State.setGath_lastServed (s : State) (k : Nat) (x : Gath) : (s.setGath k x).lastServed = s.lastServed := rfl
@[simp] theorem State.setGath_rst (s : State) (k : Nat) (x : Gath) : (s.setGath k x).rst = s.rst := rfl
@[simp] theorem State.setGath_spine (s : State) (k : Nat) (x : Gath) : (s.setGath k x).spine = s.spine := rfl
@[simp] theorem State.setGath_lnk (s : State) (k : Nat) (x : Gath) : (s.setGath k x).lnk = s.lnk := rfl
@[simp] theorem State.setGath_evt (s : State) (k : Nat) (x : Gath) : (s.setGath k x).evt = s.evt := rfl
@[simp] theorem State.setGath_tok (s : State) (k : Nat) (x : Gath) : (s.setGath k x).tok = s.tok := rfl
@[simp] theorem State.setGath_clp (s : State) (k : Nat) (x : Gath) : (s.setGath k x).clp = s.clp := rfl
@[simp] theorem State.setGath_rope (s : State) (k : Nat) (x : Gath) : (s.setGath k x).rope = s.rope := rfl
@[simp] theorem State.setGath_clk (s : State) (k : Nat) (x : Gath) : (s.setGath k x).clk = s.clk := rfl
@[simp] theorem State.setGath_pwr (s : State) (k : Nat) (x : Gath) : (s.setGath k x).pwr = s.pwr := rfl
@[simp] theorem State.setGath_thm (s : State) (k : Nat) (x : Gath) : (s.setGath k x).thm = s.thm := rfl
@[simp] theorem State.setGath_host (s : State) (k : Nat) (x : Gath) : (s.setGath k x).host = s.host := rfl
@[simp] theorem State.setGath_tap (s : State) (k : Nat) (x : Gath) : (s.setGath k x).tap = s.tap := rfl
@[simp] theorem State.setGath_tapHigh (s : State) (k : Nat) (x : Gath) : (s.setGath k x).tapHigh = s.tapHigh := rfl
@[simp] theorem State.setGath_cfgBusy (s : State) (k : Nat) (x : Gath) : (s.setGath k x).cfgBusy = s.cfgBusy := rfl
@[simp] theorem State.setGath_obsPending (s : State) (k : Nat) (x : Gath) : (s.setGath k x).obsPending = s.obsPending := rfl
@[simp] theorem State.setGath_hostReads (s : State) (k : Nat) (x : Gath) : (s.setGath k x).hostReads = s.hostReads := rfl
@[simp] theorem State.setGath_hrNext (s : State) (k : Nat) (x : Gath) : (s.setGath k x).hrNext = s.hrNext := rfl
@[simp] theorem State.setGath_out (s : State) (k : Nat) (x : Gath) : (s.setGath k x).out = s.out := rfl
@[simp] theorem State.setGath_time (s : State) (k : Nat) (x : Gath) : (s.setGath k x).time = s.time := rfl
@[simp] theorem State.setGath_freeCtr (s : State) (k : Nat) (x : Gath) : (s.setGath k x).freeCtr = s.freeCtr := rfl
@[simp] theorem State.setGath_variant (s : State) (k : Nat) (x : Gath) : (s.setGath k x).variant = s.variant := rfl
@[simp] theorem State.setGath_fuseRenames (s : State) (k : Nat) (x : Gath) : (s.setGath k x).fuseRenames = s.fuseRenames := rfl
@[simp] theorem State.setGath_offerNext (s : State) (k : Nat) (x : Gath) : (s.setGath k x).offerNext = s.offerNext := rfl
@[simp] theorem State.setGath_scan (s : State) (k : Nat) (x : Gath) : (s.setGath k x).scan = s.scan := rfl
@[simp] theorem State.setGath_scanOut (s : State) (k : Nat) (x : Gath) : (s.setGath k x).scanOut = s.scanOut := rfl
@[simp] theorem State.setGath_xfers (s : State) (k : Nat) (x : Gath) : (s.setGath k x).xfers = s.xfers := rfl

/-! #### setRouter -/

@[simp] theorem State.setRouter_pending (s : State) (c : Nat) (x : Router) : (s.setRouter c x).pending = s.pending := rfl
@[simp] theorem State.setRouter_mem (s : State) (c : Nat) (x : Router) : (s.setRouter c x).mem = s.mem := rfl
@[simp] theorem State.setRouter_cl (s : State) (c : Nat) (x : Router) : (s.setRouter c x).cl = s.cl := rfl
@[simp] theorem State.setRouter_parts (s : State) (c : Nat) (x : Router) : (s.setRouter c x).parts = s.parts := rfl
@[simp] theorem State.setRouter_ctxs (s : State) (c : Nat) (x : Router) : (s.setRouter c x).ctxs = s.ctxs := rfl
@[simp] theorem State.setRouter_ctxNext (s : State) (c : Nat) (x : Router) : (s.setRouter c x).ctxNext = s.ctxNext := rfl
@[simp] theorem State.setRouter_queues (s : State) (c : Nat) (x : Router) : (s.setRouter c x).queues = s.queues := rfl
@[simp] theorem State.setRouter_seqNext (s : State) (c : Nat) (x : Router) : (s.setRouter c x).seqNext = s.seqNext := rfl
@[simp] theorem State.setRouter_lastServed (s : State) (c : Nat) (x : Router) : (s.setRouter c x).lastServed = s.lastServed := rfl
@[simp] theorem State.setRouter_rst (s : State) (c : Nat) (x : Router) : (s.setRouter c x).rst = s.rst := rfl
@[simp] theorem State.setRouter_spine (s : State) (c : Nat) (x : Router) : (s.setRouter c x).spine = s.spine := rfl
@[simp] theorem State.setRouter_lnk (s : State) (c : Nat) (x : Router) : (s.setRouter c x).lnk = s.lnk := rfl
@[simp] theorem State.setRouter_evt (s : State) (c : Nat) (x : Router) : (s.setRouter c x).evt = s.evt := rfl
@[simp] theorem State.setRouter_tok (s : State) (c : Nat) (x : Router) : (s.setRouter c x).tok = s.tok := rfl
@[simp] theorem State.setRouter_clp (s : State) (c : Nat) (x : Router) : (s.setRouter c x).clp = s.clp := rfl
@[simp] theorem State.setRouter_rope (s : State) (c : Nat) (x : Router) : (s.setRouter c x).rope = s.rope := rfl
@[simp] theorem State.setRouter_clk (s : State) (c : Nat) (x : Router) : (s.setRouter c x).clk = s.clk := rfl
@[simp] theorem State.setRouter_pwr (s : State) (c : Nat) (x : Router) : (s.setRouter c x).pwr = s.pwr := rfl
@[simp] theorem State.setRouter_thm (s : State) (c : Nat) (x : Router) : (s.setRouter c x).thm = s.thm := rfl
@[simp] theorem State.setRouter_host (s : State) (c : Nat) (x : Router) : (s.setRouter c x).host = s.host := rfl
@[simp] theorem State.setRouter_tap (s : State) (c : Nat) (x : Router) : (s.setRouter c x).tap = s.tap := rfl
@[simp] theorem State.setRouter_tapHigh (s : State) (c : Nat) (x : Router) : (s.setRouter c x).tapHigh = s.tapHigh := rfl
@[simp] theorem State.setRouter_cfgBusy (s : State) (c : Nat) (x : Router) : (s.setRouter c x).cfgBusy = s.cfgBusy := rfl
@[simp] theorem State.setRouter_obsPending (s : State) (c : Nat) (x : Router) : (s.setRouter c x).obsPending = s.obsPending := rfl
@[simp] theorem State.setRouter_hostReads (s : State) (c : Nat) (x : Router) : (s.setRouter c x).hostReads = s.hostReads := rfl
@[simp] theorem State.setRouter_hrNext (s : State) (c : Nat) (x : Router) : (s.setRouter c x).hrNext = s.hrNext := rfl
@[simp] theorem State.setRouter_out (s : State) (c : Nat) (x : Router) : (s.setRouter c x).out = s.out := rfl
@[simp] theorem State.setRouter_time (s : State) (c : Nat) (x : Router) : (s.setRouter c x).time = s.time := rfl
@[simp] theorem State.setRouter_freeCtr (s : State) (c : Nat) (x : Router) : (s.setRouter c x).freeCtr = s.freeCtr := rfl
@[simp] theorem State.setRouter_variant (s : State) (c : Nat) (x : Router) : (s.setRouter c x).variant = s.variant := rfl
@[simp] theorem State.setRouter_fuseRenames (s : State) (c : Nat) (x : Router) : (s.setRouter c x).fuseRenames = s.fuseRenames := rfl
@[simp] theorem State.setRouter_offerNext (s : State) (c : Nat) (x : Router) : (s.setRouter c x).offerNext = s.offerNext := rfl
@[simp] theorem State.setRouter_scan (s : State) (c : Nat) (x : Router) : (s.setRouter c x).scan = s.scan := rfl
@[simp] theorem State.setRouter_scanOut (s : State) (c : Nat) (x : Router) : (s.setRouter c x).scanOut = s.scanOut := rfl
@[simp] theorem State.setRouter_xfers (s : State) (c : Nat) (x : Router) : (s.setRouter c x).xfers = s.xfers := rfl

/-! #### setDom -/

@[simp] theorem State.setDom_pending (s : State) (d : Nat) (x : Dom) : (s.setDom d x).pending = s.pending := rfl
@[simp] theorem State.setDom_mem (s : State) (d : Nat) (x : Dom) : (s.setDom d x).mem = s.mem := rfl
@[simp] theorem State.setDom_cl (s : State) (d : Nat) (x : Dom) : (s.setDom d x).cl = s.cl := rfl
@[simp] theorem State.setDom_parts (s : State) (d : Nat) (x : Dom) : (s.setDom d x).parts = s.parts := rfl
@[simp] theorem State.setDom_ctxs (s : State) (d : Nat) (x : Dom) : (s.setDom d x).ctxs = s.ctxs := rfl
@[simp] theorem State.setDom_ctxNext (s : State) (d : Nat) (x : Dom) : (s.setDom d x).ctxNext = s.ctxNext := rfl
@[simp] theorem State.setDom_queues (s : State) (d : Nat) (x : Dom) : (s.setDom d x).queues = s.queues := rfl
@[simp] theorem State.setDom_seqNext (s : State) (d : Nat) (x : Dom) : (s.setDom d x).seqNext = s.seqNext := rfl
@[simp] theorem State.setDom_lastServed (s : State) (d : Nat) (x : Dom) : (s.setDom d x).lastServed = s.lastServed := rfl
@[simp] theorem State.setDom_rst (s : State) (d : Nat) (x : Dom) : (s.setDom d x).rst = s.rst := rfl
@[simp] theorem State.setDom_fab (s : State) (d : Nat) (x : Dom) : (s.setDom d x).fab = s.fab := rfl
@[simp] theorem State.setDom_spine (s : State) (d : Nat) (x : Dom) : (s.setDom d x).spine = s.spine := rfl
@[simp] theorem State.setDom_lnk (s : State) (d : Nat) (x : Dom) : (s.setDom d x).lnk = s.lnk := rfl
@[simp] theorem State.setDom_evt (s : State) (d : Nat) (x : Dom) : (s.setDom d x).evt = s.evt := rfl
@[simp] theorem State.setDom_tok (s : State) (d : Nat) (x : Dom) : (s.setDom d x).tok = s.tok := rfl
@[simp] theorem State.setDom_clp (s : State) (d : Nat) (x : Dom) : (s.setDom d x).clp = s.clp := rfl
@[simp] theorem State.setDom_rope (s : State) (d : Nat) (x : Dom) : (s.setDom d x).rope = s.rope := rfl
@[simp] theorem State.setDom_clk (s : State) (d : Nat) (x : Dom) : (s.setDom d x).clk = s.clk := rfl
@[simp] theorem State.setDom_thm (s : State) (d : Nat) (x : Dom) : (s.setDom d x).thm = s.thm := rfl
@[simp] theorem State.setDom_host (s : State) (d : Nat) (x : Dom) : (s.setDom d x).host = s.host := rfl
@[simp] theorem State.setDom_tap (s : State) (d : Nat) (x : Dom) : (s.setDom d x).tap = s.tap := rfl
@[simp] theorem State.setDom_tapHigh (s : State) (d : Nat) (x : Dom) : (s.setDom d x).tapHigh = s.tapHigh := rfl
@[simp] theorem State.setDom_cfgBusy (s : State) (d : Nat) (x : Dom) : (s.setDom d x).cfgBusy = s.cfgBusy := rfl
@[simp] theorem State.setDom_obsPending (s : State) (d : Nat) (x : Dom) : (s.setDom d x).obsPending = s.obsPending := rfl
@[simp] theorem State.setDom_hostReads (s : State) (d : Nat) (x : Dom) : (s.setDom d x).hostReads = s.hostReads := rfl
@[simp] theorem State.setDom_hrNext (s : State) (d : Nat) (x : Dom) : (s.setDom d x).hrNext = s.hrNext := rfl
@[simp] theorem State.setDom_out (s : State) (d : Nat) (x : Dom) : (s.setDom d x).out = s.out := rfl
@[simp] theorem State.setDom_time (s : State) (d : Nat) (x : Dom) : (s.setDom d x).time = s.time := rfl
@[simp] theorem State.setDom_freeCtr (s : State) (d : Nat) (x : Dom) : (s.setDom d x).freeCtr = s.freeCtr := rfl
@[simp] theorem State.setDom_variant (s : State) (d : Nat) (x : Dom) : (s.setDom d x).variant = s.variant := rfl
@[simp] theorem State.setDom_fuseRenames (s : State) (d : Nat) (x : Dom) : (s.setDom d x).fuseRenames = s.fuseRenames := rfl
@[simp] theorem State.setDom_offerNext (s : State) (d : Nat) (x : Dom) : (s.setDom d x).offerNext = s.offerNext := rfl
@[simp] theorem State.setDom_scan (s : State) (d : Nat) (x : Dom) : (s.setDom d x).scan = s.scan := rfl
@[simp] theorem State.setDom_scanOut (s : State) (d : Nat) (x : Dom) : (s.setDom d x).scanOut = s.scanOut := rfl
@[simp] theorem State.setDom_xfers (s : State) (d : Nat) (x : Dom) : (s.setDom d x).xfers = s.xfers := rfl

/-! #### setRail -/

@[simp] theorem State.setRail_pending (s : State) (r : Nat) (x : Rail) : (s.setRail r x).pending = s.pending := rfl
@[simp] theorem State.setRail_mem (s : State) (r : Nat) (x : Rail) : (s.setRail r x).mem = s.mem := rfl
@[simp] theorem State.setRail_cl (s : State) (r : Nat) (x : Rail) : (s.setRail r x).cl = s.cl := rfl
@[simp] theorem State.setRail_parts (s : State) (r : Nat) (x : Rail) : (s.setRail r x).parts = s.parts := rfl
@[simp] theorem State.setRail_ctxs (s : State) (r : Nat) (x : Rail) : (s.setRail r x).ctxs = s.ctxs := rfl
@[simp] theorem State.setRail_ctxNext (s : State) (r : Nat) (x : Rail) : (s.setRail r x).ctxNext = s.ctxNext := rfl
@[simp] theorem State.setRail_queues (s : State) (r : Nat) (x : Rail) : (s.setRail r x).queues = s.queues := rfl
@[simp] theorem State.setRail_seqNext (s : State) (r : Nat) (x : Rail) : (s.setRail r x).seqNext = s.seqNext := rfl
@[simp] theorem State.setRail_lastServed (s : State) (r : Nat) (x : Rail) : (s.setRail r x).lastServed = s.lastServed := rfl
@[simp] theorem State.setRail_rst (s : State) (r : Nat) (x : Rail) : (s.setRail r x).rst = s.rst := rfl
@[simp] theorem State.setRail_fab (s : State) (r : Nat) (x : Rail) : (s.setRail r x).fab = s.fab := rfl
@[simp] theorem State.setRail_spine (s : State) (r : Nat) (x : Rail) : (s.setRail r x).spine = s.spine := rfl
@[simp] theorem State.setRail_lnk (s : State) (r : Nat) (x : Rail) : (s.setRail r x).lnk = s.lnk := rfl
@[simp] theorem State.setRail_evt (s : State) (r : Nat) (x : Rail) : (s.setRail r x).evt = s.evt := rfl
@[simp] theorem State.setRail_tok (s : State) (r : Nat) (x : Rail) : (s.setRail r x).tok = s.tok := rfl
@[simp] theorem State.setRail_clp (s : State) (r : Nat) (x : Rail) : (s.setRail r x).clp = s.clp := rfl
@[simp] theorem State.setRail_rope (s : State) (r : Nat) (x : Rail) : (s.setRail r x).rope = s.rope := rfl
@[simp] theorem State.setRail_clk (s : State) (r : Nat) (x : Rail) : (s.setRail r x).clk = s.clk := rfl
@[simp] theorem State.setRail_thm (s : State) (r : Nat) (x : Rail) : (s.setRail r x).thm = s.thm := rfl
@[simp] theorem State.setRail_host (s : State) (r : Nat) (x : Rail) : (s.setRail r x).host = s.host := rfl
@[simp] theorem State.setRail_tap (s : State) (r : Nat) (x : Rail) : (s.setRail r x).tap = s.tap := rfl
@[simp] theorem State.setRail_tapHigh (s : State) (r : Nat) (x : Rail) : (s.setRail r x).tapHigh = s.tapHigh := rfl
@[simp] theorem State.setRail_cfgBusy (s : State) (r : Nat) (x : Rail) : (s.setRail r x).cfgBusy = s.cfgBusy := rfl
@[simp] theorem State.setRail_obsPending (s : State) (r : Nat) (x : Rail) : (s.setRail r x).obsPending = s.obsPending := rfl
@[simp] theorem State.setRail_hostReads (s : State) (r : Nat) (x : Rail) : (s.setRail r x).hostReads = s.hostReads := rfl
@[simp] theorem State.setRail_hrNext (s : State) (r : Nat) (x : Rail) : (s.setRail r x).hrNext = s.hrNext := rfl
@[simp] theorem State.setRail_out (s : State) (r : Nat) (x : Rail) : (s.setRail r x).out = s.out := rfl
@[simp] theorem State.setRail_time (s : State) (r : Nat) (x : Rail) : (s.setRail r x).time = s.time := rfl
@[simp] theorem State.setRail_freeCtr (s : State) (r : Nat) (x : Rail) : (s.setRail r x).freeCtr = s.freeCtr := rfl
@[simp] theorem State.setRail_variant (s : State) (r : Nat) (x : Rail) : (s.setRail r x).variant = s.variant := rfl
@[simp] theorem State.setRail_fuseRenames (s : State) (r : Nat) (x : Rail) : (s.setRail r x).fuseRenames = s.fuseRenames := rfl
@[simp] theorem State.setRail_offerNext (s : State) (r : Nat) (x : Rail) : (s.setRail r x).offerNext = s.offerNext := rfl
@[simp] theorem State.setRail_scan (s : State) (r : Nat) (x : Rail) : (s.setRail r x).scan = s.scan := rfl
@[simp] theorem State.setRail_scanOut (s : State) (r : Nat) (x : Rail) : (s.setRail r x).scanOut = s.scanOut := rfl
@[simp] theorem State.setRail_xfers (s : State) (r : Nat) (x : Rail) : (s.setRail r x).xfers = s.xfers := rfl

/-! #### setPwr -/

@[simp] theorem State.setPwr_pending (s : State) (x : Pwr) : (s.setPwr x).pending = s.pending := rfl
@[simp] theorem State.setPwr_mem (s : State) (x : Pwr) : (s.setPwr x).mem = s.mem := rfl
@[simp] theorem State.setPwr_cl (s : State) (x : Pwr) : (s.setPwr x).cl = s.cl := rfl
@[simp] theorem State.setPwr_parts (s : State) (x : Pwr) : (s.setPwr x).parts = s.parts := rfl
@[simp] theorem State.setPwr_ctxs (s : State) (x : Pwr) : (s.setPwr x).ctxs = s.ctxs := rfl
@[simp] theorem State.setPwr_ctxNext (s : State) (x : Pwr) : (s.setPwr x).ctxNext = s.ctxNext := rfl
@[simp] theorem State.setPwr_queues (s : State) (x : Pwr) : (s.setPwr x).queues = s.queues := rfl
@[simp] theorem State.setPwr_seqNext (s : State) (x : Pwr) : (s.setPwr x).seqNext = s.seqNext := rfl
@[simp] theorem State.setPwr_lastServed (s : State) (x : Pwr) : (s.setPwr x).lastServed = s.lastServed := rfl
@[simp] theorem State.setPwr_rst (s : State) (x : Pwr) : (s.setPwr x).rst = s.rst := rfl
@[simp] theorem State.setPwr_fab (s : State) (x : Pwr) : (s.setPwr x).fab = s.fab := rfl
@[simp] theorem State.setPwr_spine (s : State) (x : Pwr) : (s.setPwr x).spine = s.spine := rfl
@[simp] theorem State.setPwr_lnk (s : State) (x : Pwr) : (s.setPwr x).lnk = s.lnk := rfl
@[simp] theorem State.setPwr_evt (s : State) (x : Pwr) : (s.setPwr x).evt = s.evt := rfl
@[simp] theorem State.setPwr_tok (s : State) (x : Pwr) : (s.setPwr x).tok = s.tok := rfl
@[simp] theorem State.setPwr_clp (s : State) (x : Pwr) : (s.setPwr x).clp = s.clp := rfl
@[simp] theorem State.setPwr_rope (s : State) (x : Pwr) : (s.setPwr x).rope = s.rope := rfl
@[simp] theorem State.setPwr_clk (s : State) (x : Pwr) : (s.setPwr x).clk = s.clk := rfl
@[simp] theorem State.setPwr_thm (s : State) (x : Pwr) : (s.setPwr x).thm = s.thm := rfl
@[simp] theorem State.setPwr_host (s : State) (x : Pwr) : (s.setPwr x).host = s.host := rfl
@[simp] theorem State.setPwr_tap (s : State) (x : Pwr) : (s.setPwr x).tap = s.tap := rfl
@[simp] theorem State.setPwr_tapHigh (s : State) (x : Pwr) : (s.setPwr x).tapHigh = s.tapHigh := rfl
@[simp] theorem State.setPwr_cfgBusy (s : State) (x : Pwr) : (s.setPwr x).cfgBusy = s.cfgBusy := rfl
@[simp] theorem State.setPwr_obsPending (s : State) (x : Pwr) : (s.setPwr x).obsPending = s.obsPending := rfl
@[simp] theorem State.setPwr_hostReads (s : State) (x : Pwr) : (s.setPwr x).hostReads = s.hostReads := rfl
@[simp] theorem State.setPwr_hrNext (s : State) (x : Pwr) : (s.setPwr x).hrNext = s.hrNext := rfl
@[simp] theorem State.setPwr_out (s : State) (x : Pwr) : (s.setPwr x).out = s.out := rfl
@[simp] theorem State.setPwr_time (s : State) (x : Pwr) : (s.setPwr x).time = s.time := rfl
@[simp] theorem State.setPwr_freeCtr (s : State) (x : Pwr) : (s.setPwr x).freeCtr = s.freeCtr := rfl
@[simp] theorem State.setPwr_variant (s : State) (x : Pwr) : (s.setPwr x).variant = s.variant := rfl
@[simp] theorem State.setPwr_fuseRenames (s : State) (x : Pwr) : (s.setPwr x).fuseRenames = s.fuseRenames := rfl
@[simp] theorem State.setPwr_offerNext (s : State) (x : Pwr) : (s.setPwr x).offerNext = s.offerNext := rfl
@[simp] theorem State.setPwr_scan (s : State) (x : Pwr) : (s.setPwr x).scan = s.scan := rfl
@[simp] theorem State.setPwr_scanOut (s : State) (x : Pwr) : (s.setPwr x).scanOut = s.scanOut := rfl
@[simp] theorem State.setPwr_xfers (s : State) (x : Pwr) : (s.setPwr x).xfers = s.xfers := rfl

/-! #### setThm -/

@[simp] theorem State.setThm_pending (s : State) (x : Thm) : (s.setThm x).pending = s.pending := rfl
@[simp] theorem State.setThm_mem (s : State) (x : Thm) : (s.setThm x).mem = s.mem := rfl
@[simp] theorem State.setThm_cl (s : State) (x : Thm) : (s.setThm x).cl = s.cl := rfl
@[simp] theorem State.setThm_parts (s : State) (x : Thm) : (s.setThm x).parts = s.parts := rfl
@[simp] theorem State.setThm_ctxs (s : State) (x : Thm) : (s.setThm x).ctxs = s.ctxs := rfl
@[simp] theorem State.setThm_ctxNext (s : State) (x : Thm) : (s.setThm x).ctxNext = s.ctxNext := rfl
@[simp] theorem State.setThm_queues (s : State) (x : Thm) : (s.setThm x).queues = s.queues := rfl
@[simp] theorem State.setThm_seqNext (s : State) (x : Thm) : (s.setThm x).seqNext = s.seqNext := rfl
@[simp] theorem State.setThm_lastServed (s : State) (x : Thm) : (s.setThm x).lastServed = s.lastServed := rfl
@[simp] theorem State.setThm_rst (s : State) (x : Thm) : (s.setThm x).rst = s.rst := rfl
@[simp] theorem State.setThm_fab (s : State) (x : Thm) : (s.setThm x).fab = s.fab := rfl
@[simp] theorem State.setThm_spine (s : State) (x : Thm) : (s.setThm x).spine = s.spine := rfl
@[simp] theorem State.setThm_lnk (s : State) (x : Thm) : (s.setThm x).lnk = s.lnk := rfl
@[simp] theorem State.setThm_evt (s : State) (x : Thm) : (s.setThm x).evt = s.evt := rfl
@[simp] theorem State.setThm_tok (s : State) (x : Thm) : (s.setThm x).tok = s.tok := rfl
@[simp] theorem State.setThm_clp (s : State) (x : Thm) : (s.setThm x).clp = s.clp := rfl
@[simp] theorem State.setThm_rope (s : State) (x : Thm) : (s.setThm x).rope = s.rope := rfl
@[simp] theorem State.setThm_clk (s : State) (x : Thm) : (s.setThm x).clk = s.clk := rfl
@[simp] theorem State.setThm_pwr (s : State) (x : Thm) : (s.setThm x).pwr = s.pwr := rfl
@[simp] theorem State.setThm_host (s : State) (x : Thm) : (s.setThm x).host = s.host := rfl
@[simp] theorem State.setThm_tap (s : State) (x : Thm) : (s.setThm x).tap = s.tap := rfl
@[simp] theorem State.setThm_tapHigh (s : State) (x : Thm) : (s.setThm x).tapHigh = s.tapHigh := rfl
@[simp] theorem State.setThm_cfgBusy (s : State) (x : Thm) : (s.setThm x).cfgBusy = s.cfgBusy := rfl
@[simp] theorem State.setThm_obsPending (s : State) (x : Thm) : (s.setThm x).obsPending = s.obsPending := rfl
@[simp] theorem State.setThm_hostReads (s : State) (x : Thm) : (s.setThm x).hostReads = s.hostReads := rfl
@[simp] theorem State.setThm_hrNext (s : State) (x : Thm) : (s.setThm x).hrNext = s.hrNext := rfl
@[simp] theorem State.setThm_out (s : State) (x : Thm) : (s.setThm x).out = s.out := rfl
@[simp] theorem State.setThm_time (s : State) (x : Thm) : (s.setThm x).time = s.time := rfl
@[simp] theorem State.setThm_freeCtr (s : State) (x : Thm) : (s.setThm x).freeCtr = s.freeCtr := rfl
@[simp] theorem State.setThm_variant (s : State) (x : Thm) : (s.setThm x).variant = s.variant := rfl
@[simp] theorem State.setThm_fuseRenames (s : State) (x : Thm) : (s.setThm x).fuseRenames = s.fuseRenames := rfl
@[simp] theorem State.setThm_offerNext (s : State) (x : Thm) : (s.setThm x).offerNext = s.offerNext := rfl
@[simp] theorem State.setThm_scan (s : State) (x : Thm) : (s.setThm x).scan = s.scan := rfl
@[simp] theorem State.setThm_scanOut (s : State) (x : Thm) : (s.setThm x).scanOut = s.scanOut := rfl
@[simp] theorem State.setThm_xfers (s : State) (x : Thm) : (s.setThm x).xfers = s.xfers := rfl

/-! #### setSensor -/

@[simp] theorem State.setSensor_pending (s : State) (n : Nat) (x : Sensor) : (s.setSensor n x).pending = s.pending := rfl
@[simp] theorem State.setSensor_mem (s : State) (n : Nat) (x : Sensor) : (s.setSensor n x).mem = s.mem := rfl
@[simp] theorem State.setSensor_cl (s : State) (n : Nat) (x : Sensor) : (s.setSensor n x).cl = s.cl := rfl
@[simp] theorem State.setSensor_parts (s : State) (n : Nat) (x : Sensor) : (s.setSensor n x).parts = s.parts := rfl
@[simp] theorem State.setSensor_ctxs (s : State) (n : Nat) (x : Sensor) : (s.setSensor n x).ctxs = s.ctxs := rfl
@[simp] theorem State.setSensor_ctxNext (s : State) (n : Nat) (x : Sensor) : (s.setSensor n x).ctxNext = s.ctxNext := rfl
@[simp] theorem State.setSensor_queues (s : State) (n : Nat) (x : Sensor) : (s.setSensor n x).queues = s.queues := rfl
@[simp] theorem State.setSensor_seqNext (s : State) (n : Nat) (x : Sensor) : (s.setSensor n x).seqNext = s.seqNext := rfl
@[simp] theorem State.setSensor_lastServed (s : State) (n : Nat) (x : Sensor) : (s.setSensor n x).lastServed = s.lastServed := rfl
@[simp] theorem State.setSensor_rst (s : State) (n : Nat) (x : Sensor) : (s.setSensor n x).rst = s.rst := rfl
@[simp] theorem State.setSensor_fab (s : State) (n : Nat) (x : Sensor) : (s.setSensor n x).fab = s.fab := rfl
@[simp] theorem State.setSensor_spine (s : State) (n : Nat) (x : Sensor) : (s.setSensor n x).spine = s.spine := rfl
@[simp] theorem State.setSensor_lnk (s : State) (n : Nat) (x : Sensor) : (s.setSensor n x).lnk = s.lnk := rfl
@[simp] theorem State.setSensor_evt (s : State) (n : Nat) (x : Sensor) : (s.setSensor n x).evt = s.evt := rfl
@[simp] theorem State.setSensor_tok (s : State) (n : Nat) (x : Sensor) : (s.setSensor n x).tok = s.tok := rfl
@[simp] theorem State.setSensor_clp (s : State) (n : Nat) (x : Sensor) : (s.setSensor n x).clp = s.clp := rfl
@[simp] theorem State.setSensor_rope (s : State) (n : Nat) (x : Sensor) : (s.setSensor n x).rope = s.rope := rfl
@[simp] theorem State.setSensor_clk (s : State) (n : Nat) (x : Sensor) : (s.setSensor n x).clk = s.clk := rfl
@[simp] theorem State.setSensor_pwr (s : State) (n : Nat) (x : Sensor) : (s.setSensor n x).pwr = s.pwr := rfl
@[simp] theorem State.setSensor_host (s : State) (n : Nat) (x : Sensor) : (s.setSensor n x).host = s.host := rfl
@[simp] theorem State.setSensor_tap (s : State) (n : Nat) (x : Sensor) : (s.setSensor n x).tap = s.tap := rfl
@[simp] theorem State.setSensor_tapHigh (s : State) (n : Nat) (x : Sensor) : (s.setSensor n x).tapHigh = s.tapHigh := rfl
@[simp] theorem State.setSensor_cfgBusy (s : State) (n : Nat) (x : Sensor) : (s.setSensor n x).cfgBusy = s.cfgBusy := rfl
@[simp] theorem State.setSensor_obsPending (s : State) (n : Nat) (x : Sensor) : (s.setSensor n x).obsPending = s.obsPending := rfl
@[simp] theorem State.setSensor_hostReads (s : State) (n : Nat) (x : Sensor) : (s.setSensor n x).hostReads = s.hostReads := rfl
@[simp] theorem State.setSensor_hrNext (s : State) (n : Nat) (x : Sensor) : (s.setSensor n x).hrNext = s.hrNext := rfl
@[simp] theorem State.setSensor_out (s : State) (n : Nat) (x : Sensor) : (s.setSensor n x).out = s.out := rfl
@[simp] theorem State.setSensor_time (s : State) (n : Nat) (x : Sensor) : (s.setSensor n x).time = s.time := rfl
@[simp] theorem State.setSensor_freeCtr (s : State) (n : Nat) (x : Sensor) : (s.setSensor n x).freeCtr = s.freeCtr := rfl
@[simp] theorem State.setSensor_variant (s : State) (n : Nat) (x : Sensor) : (s.setSensor n x).variant = s.variant := rfl
@[simp] theorem State.setSensor_fuseRenames (s : State) (n : Nat) (x : Sensor) : (s.setSensor n x).fuseRenames = s.fuseRenames := rfl
@[simp] theorem State.setSensor_offerNext (s : State) (n : Nat) (x : Sensor) : (s.setSensor n x).offerNext = s.offerNext := rfl
@[simp] theorem State.setSensor_scan (s : State) (n : Nat) (x : Sensor) : (s.setSensor n x).scan = s.scan := rfl
@[simp] theorem State.setSensor_scanOut (s : State) (n : Nat) (x : Sensor) : (s.setSensor n x).scanOut = s.scanOut := rfl
@[simp] theorem State.setSensor_xfers (s : State) (n : Nat) (x : Sensor) : (s.setSensor n x).xfers = s.xfers := rfl

/-! #### setRst -/

@[simp] theorem State.setRst_pending (s : State) (r : Rst) : (s.setRst r).pending = s.pending := rfl
@[simp] theorem State.setRst_mem (s : State) (r : Rst) : (s.setRst r).mem = s.mem := rfl
@[simp] theorem State.setRst_cl (s : State) (r : Rst) : (s.setRst r).cl = s.cl := rfl
@[simp] theorem State.setRst_parts (s : State) (r : Rst) : (s.setRst r).parts = s.parts := rfl
@[simp] theorem State.setRst_ctxs (s : State) (r : Rst) : (s.setRst r).ctxs = s.ctxs := rfl
@[simp] theorem State.setRst_ctxNext (s : State) (r : Rst) : (s.setRst r).ctxNext = s.ctxNext := rfl
@[simp] theorem State.setRst_queues (s : State) (r : Rst) : (s.setRst r).queues = s.queues := rfl
@[simp] theorem State.setRst_seqNext (s : State) (r : Rst) : (s.setRst r).seqNext = s.seqNext := rfl
@[simp] theorem State.setRst_lastServed (s : State) (r : Rst) : (s.setRst r).lastServed = s.lastServed := rfl
@[simp] theorem State.setRst_fab (s : State) (r : Rst) : (s.setRst r).fab = s.fab := rfl
@[simp] theorem State.setRst_spine (s : State) (r : Rst) : (s.setRst r).spine = s.spine := rfl
@[simp] theorem State.setRst_lnk (s : State) (r : Rst) : (s.setRst r).lnk = s.lnk := rfl
@[simp] theorem State.setRst_evt (s : State) (r : Rst) : (s.setRst r).evt = s.evt := rfl
@[simp] theorem State.setRst_tok (s : State) (r : Rst) : (s.setRst r).tok = s.tok := rfl
@[simp] theorem State.setRst_clp (s : State) (r : Rst) : (s.setRst r).clp = s.clp := rfl
@[simp] theorem State.setRst_rope (s : State) (r : Rst) : (s.setRst r).rope = s.rope := rfl
@[simp] theorem State.setRst_clk (s : State) (r : Rst) : (s.setRst r).clk = s.clk := rfl
@[simp] theorem State.setRst_pwr (s : State) (r : Rst) : (s.setRst r).pwr = s.pwr := rfl
@[simp] theorem State.setRst_thm (s : State) (r : Rst) : (s.setRst r).thm = s.thm := rfl
@[simp] theorem State.setRst_host (s : State) (r : Rst) : (s.setRst r).host = s.host := rfl
@[simp] theorem State.setRst_tap (s : State) (r : Rst) : (s.setRst r).tap = s.tap := rfl
@[simp] theorem State.setRst_tapHigh (s : State) (r : Rst) : (s.setRst r).tapHigh = s.tapHigh := rfl
@[simp] theorem State.setRst_cfgBusy (s : State) (r : Rst) : (s.setRst r).cfgBusy = s.cfgBusy := rfl
@[simp] theorem State.setRst_obsPending (s : State) (r : Rst) : (s.setRst r).obsPending = s.obsPending := rfl
@[simp] theorem State.setRst_hostReads (s : State) (r : Rst) : (s.setRst r).hostReads = s.hostReads := rfl
@[simp] theorem State.setRst_hrNext (s : State) (r : Rst) : (s.setRst r).hrNext = s.hrNext := rfl
@[simp] theorem State.setRst_out (s : State) (r : Rst) : (s.setRst r).out = s.out := rfl
@[simp] theorem State.setRst_time (s : State) (r : Rst) : (s.setRst r).time = s.time := rfl
@[simp] theorem State.setRst_freeCtr (s : State) (r : Rst) : (s.setRst r).freeCtr = s.freeCtr := rfl
@[simp] theorem State.setRst_variant (s : State) (r : Rst) : (s.setRst r).variant = s.variant := rfl
@[simp] theorem State.setRst_fuseRenames (s : State) (r : Rst) : (s.setRst r).fuseRenames = s.fuseRenames := rfl
@[simp] theorem State.setRst_offerNext (s : State) (r : Rst) : (s.setRst r).offerNext = s.offerNext := rfl
@[simp] theorem State.setRst_scan (s : State) (r : Rst) : (s.setRst r).scan = s.scan := rfl
@[simp] theorem State.setRst_scanOut (s : State) (r : Rst) : (s.setRst r).scanOut = s.scanOut := rfl
@[simp] theorem State.setRst_xfers (s : State) (r : Rst) : (s.setRst r).xfers = s.xfers := rfl

/-! #### setMem -/

@[simp] theorem State.setMem_pending (s : State) (m : MemSys) : (s.setMem m).pending = s.pending := rfl
@[simp] theorem State.setMem_cl (s : State) (m : MemSys) : (s.setMem m).cl = s.cl := rfl
@[simp] theorem State.setMem_parts (s : State) (m : MemSys) : (s.setMem m).parts = s.parts := rfl
@[simp] theorem State.setMem_ctxs (s : State) (m : MemSys) : (s.setMem m).ctxs = s.ctxs := rfl
@[simp] theorem State.setMem_ctxNext (s : State) (m : MemSys) : (s.setMem m).ctxNext = s.ctxNext := rfl
@[simp] theorem State.setMem_queues (s : State) (m : MemSys) : (s.setMem m).queues = s.queues := rfl
@[simp] theorem State.setMem_seqNext (s : State) (m : MemSys) : (s.setMem m).seqNext = s.seqNext := rfl
@[simp] theorem State.setMem_lastServed (s : State) (m : MemSys) : (s.setMem m).lastServed = s.lastServed := rfl
@[simp] theorem State.setMem_rst (s : State) (m : MemSys) : (s.setMem m).rst = s.rst := rfl
@[simp] theorem State.setMem_fab (s : State) (m : MemSys) : (s.setMem m).fab = s.fab := rfl
@[simp] theorem State.setMem_spine (s : State) (m : MemSys) : (s.setMem m).spine = s.spine := rfl
@[simp] theorem State.setMem_lnk (s : State) (m : MemSys) : (s.setMem m).lnk = s.lnk := rfl
@[simp] theorem State.setMem_evt (s : State) (m : MemSys) : (s.setMem m).evt = s.evt := rfl
@[simp] theorem State.setMem_tok (s : State) (m : MemSys) : (s.setMem m).tok = s.tok := rfl
@[simp] theorem State.setMem_clp (s : State) (m : MemSys) : (s.setMem m).clp = s.clp := rfl
@[simp] theorem State.setMem_rope (s : State) (m : MemSys) : (s.setMem m).rope = s.rope := rfl
@[simp] theorem State.setMem_clk (s : State) (m : MemSys) : (s.setMem m).clk = s.clk := rfl
@[simp] theorem State.setMem_pwr (s : State) (m : MemSys) : (s.setMem m).pwr = s.pwr := rfl
@[simp] theorem State.setMem_thm (s : State) (m : MemSys) : (s.setMem m).thm = s.thm := rfl
@[simp] theorem State.setMem_host (s : State) (m : MemSys) : (s.setMem m).host = s.host := rfl
@[simp] theorem State.setMem_tap (s : State) (m : MemSys) : (s.setMem m).tap = s.tap := rfl
@[simp] theorem State.setMem_tapHigh (s : State) (m : MemSys) : (s.setMem m).tapHigh = s.tapHigh := rfl
@[simp] theorem State.setMem_cfgBusy (s : State) (m : MemSys) : (s.setMem m).cfgBusy = s.cfgBusy := rfl
@[simp] theorem State.setMem_obsPending (s : State) (m : MemSys) : (s.setMem m).obsPending = s.obsPending := rfl
@[simp] theorem State.setMem_hostReads (s : State) (m : MemSys) : (s.setMem m).hostReads = s.hostReads := rfl
@[simp] theorem State.setMem_hrNext (s : State) (m : MemSys) : (s.setMem m).hrNext = s.hrNext := rfl
@[simp] theorem State.setMem_out (s : State) (m : MemSys) : (s.setMem m).out = s.out := rfl
@[simp] theorem State.setMem_time (s : State) (m : MemSys) : (s.setMem m).time = s.time := rfl
@[simp] theorem State.setMem_freeCtr (s : State) (m : MemSys) : (s.setMem m).freeCtr = s.freeCtr := rfl
@[simp] theorem State.setMem_variant (s : State) (m : MemSys) : (s.setMem m).variant = s.variant := rfl
@[simp] theorem State.setMem_fuseRenames (s : State) (m : MemSys) : (s.setMem m).fuseRenames = s.fuseRenames := rfl
@[simp] theorem State.setMem_offerNext (s : State) (m : MemSys) : (s.setMem m).offerNext = s.offerNext := rfl
@[simp] theorem State.setMem_scan (s : State) (m : MemSys) : (s.setMem m).scan = s.scan := rfl
@[simp] theorem State.setMem_scanOut (s : State) (m : MemSys) : (s.setMem m).scanOut = s.scanOut := rfl
@[simp] theorem State.setMem_xfers (s : State) (m : MemSys) : (s.setMem m).xfers = s.xfers := rfl

/-! #### acting: the partition whose requests follow -/

@[simp] theorem State.acting_pending (s : State) (p : Option Nat) : (s.acting p).pending = s.pending := by
  unfold State.acting; split <;> rfl
@[simp] theorem State.acting_cl (s : State) (p : Option Nat) : (s.acting p).cl = s.cl := by
  unfold State.acting; split <;> rfl
@[simp] theorem State.acting_parts (s : State) (p : Option Nat) : (s.acting p).parts = s.parts := by
  unfold State.acting; split <;> rfl
@[simp] theorem State.acting_ctxs (s : State) (p : Option Nat) : (s.acting p).ctxs = s.ctxs := by
  unfold State.acting; split <;> rfl
@[simp] theorem State.acting_ctxNext (s : State) (p : Option Nat) : (s.acting p).ctxNext = s.ctxNext := by
  unfold State.acting; split <;> rfl
@[simp] theorem State.acting_queues (s : State) (p : Option Nat) : (s.acting p).queues = s.queues := by
  unfold State.acting; split <;> rfl
@[simp] theorem State.acting_seqNext (s : State) (p : Option Nat) : (s.acting p).seqNext = s.seqNext := by
  unfold State.acting; split <;> rfl
@[simp] theorem State.acting_lastServed (s : State) (p : Option Nat) : (s.acting p).lastServed = s.lastServed := by
  unfold State.acting; split <;> rfl
@[simp] theorem State.acting_rst (s : State) (p : Option Nat) : (s.acting p).rst = s.rst := by
  unfold State.acting; split <;> rfl
@[simp] theorem State.acting_fab (s : State) (p : Option Nat) : (s.acting p).fab = s.fab := by
  unfold State.acting; split <;> rfl
@[simp] theorem State.acting_spine (s : State) (p : Option Nat) : (s.acting p).spine = s.spine := by
  unfold State.acting; split <;> rfl
@[simp] theorem State.acting_lnk (s : State) (p : Option Nat) : (s.acting p).lnk = s.lnk := by
  unfold State.acting; split <;> rfl
@[simp] theorem State.acting_evt (s : State) (p : Option Nat) : (s.acting p).evt = s.evt := by
  unfold State.acting; split <;> rfl
@[simp] theorem State.acting_tok (s : State) (p : Option Nat) : (s.acting p).tok = s.tok := by
  unfold State.acting; split <;> rfl
@[simp] theorem State.acting_clp (s : State) (p : Option Nat) : (s.acting p).clp = s.clp := by
  unfold State.acting; split <;> rfl
@[simp] theorem State.acting_rope (s : State) (p : Option Nat) : (s.acting p).rope = s.rope := by
  unfold State.acting; split <;> rfl
@[simp] theorem State.acting_clk (s : State) (p : Option Nat) : (s.acting p).clk = s.clk := by
  unfold State.acting; split <;> rfl
@[simp] theorem State.acting_pwr (s : State) (p : Option Nat) : (s.acting p).pwr = s.pwr := by
  unfold State.acting; split <;> rfl
@[simp] theorem State.acting_thm (s : State) (p : Option Nat) : (s.acting p).thm = s.thm := by
  unfold State.acting; split <;> rfl
@[simp] theorem State.acting_host (s : State) (p : Option Nat) : (s.acting p).host = s.host := by
  unfold State.acting; split <;> rfl
@[simp] theorem State.acting_tap (s : State) (p : Option Nat) : (s.acting p).tap = s.tap := by
  unfold State.acting; split <;> rfl
@[simp] theorem State.acting_tapHigh (s : State) (p : Option Nat) : (s.acting p).tapHigh = s.tapHigh := by
  unfold State.acting; split <;> rfl
@[simp] theorem State.acting_cfgBusy (s : State) (p : Option Nat) : (s.acting p).cfgBusy = s.cfgBusy := by
  unfold State.acting; split <;> rfl
@[simp] theorem State.acting_obsPending (s : State) (p : Option Nat) : (s.acting p).obsPending = s.obsPending := by
  unfold State.acting; split <;> rfl
@[simp] theorem State.acting_hostReads (s : State) (p : Option Nat) : (s.acting p).hostReads = s.hostReads := by
  unfold State.acting; split <;> rfl
@[simp] theorem State.acting_hrNext (s : State) (p : Option Nat) : (s.acting p).hrNext = s.hrNext := by
  unfold State.acting; split <;> rfl
@[simp] theorem State.acting_out (s : State) (p : Option Nat) : (s.acting p).out = s.out := by
  unfold State.acting; split <;> rfl
@[simp] theorem State.acting_time (s : State) (p : Option Nat) : (s.acting p).time = s.time := by
  unfold State.acting; split <;> rfl
@[simp] theorem State.acting_freeCtr (s : State) (p : Option Nat) : (s.acting p).freeCtr = s.freeCtr := by
  unfold State.acting; split <;> rfl
@[simp] theorem State.acting_variant (s : State) (p : Option Nat) : (s.acting p).variant = s.variant := by
  unfold State.acting; split <;> rfl
@[simp] theorem State.acting_fuseRenames (s : State) (p : Option Nat) : (s.acting p).fuseRenames = s.fuseRenames := by
  unfold State.acting; split <;> rfl
@[simp] theorem State.acting_offerNext (s : State) (p : Option Nat) : (s.acting p).offerNext = s.offerNext := by
  unfold State.acting; split <;> rfl
@[simp] theorem State.acting_scan (s : State) (p : Option Nat) : (s.acting p).scan = s.scan := by
  unfold State.acting; split <;> rfl
@[simp] theorem State.acting_scanOut (s : State) (p : Option Nat) : (s.acting p).scanOut = s.scanOut := by
  unfold State.acting; split <;> rfl
@[simp] theorem State.acting_xfers (s : State) (p : Option Nat) : (s.acting p).xfers = s.xfers := by
  unfold State.acting; split <;> rfl

/-! #### setFolio -/

@[simp] theorem State.setFolio_pending (s : State) (f : Nat) (x : Folio) : (s.setFolio f x).pending = s.pending := rfl
@[simp] theorem State.setFolio_variant (s : State) (f : Nat) (x : Folio) : (s.setFolio f x).variant = s.variant := rfl
@[simp] theorem State.setFolio_fuseRenames (s : State) (f : Nat) (x : Folio) : (s.setFolio f x).fuseRenames = s.fuseRenames := rfl
@[simp] theorem State.setFolio_mem (s : State) (f : Nat) (x : Folio) : (s.setFolio f x).mem = s.mem := rfl
@[simp] theorem State.setFolio_cl (s : State) (f : Nat) (x : Folio) : (s.setFolio f x).cl = s.cl := rfl
@[simp] theorem State.setFolio_parts (s : State) (f : Nat) (x : Folio) : (s.setFolio f x).parts = s.parts := rfl
@[simp] theorem State.setFolio_ctxs (s : State) (f : Nat) (x : Folio) : (s.setFolio f x).ctxs = s.ctxs := rfl
@[simp] theorem State.setFolio_ctxNext (s : State) (f : Nat) (x : Folio) : (s.setFolio f x).ctxNext = s.ctxNext := rfl
@[simp] theorem State.setFolio_offerNext (s : State) (f : Nat) (x : Folio) : (s.setFolio f x).offerNext = s.offerNext := rfl
@[simp] theorem State.setFolio_queues (s : State) (f : Nat) (x : Folio) : (s.setFolio f x).queues = s.queues := rfl
@[simp] theorem State.setFolio_seqNext (s : State) (f : Nat) (x : Folio) : (s.setFolio f x).seqNext = s.seqNext := rfl
@[simp] theorem State.setFolio_lastServed (s : State) (f : Nat) (x : Folio) : (s.setFolio f x).lastServed = s.lastServed := rfl
@[simp] theorem State.setFolio_rst (s : State) (f : Nat) (x : Folio) : (s.setFolio f x).rst = s.rst := rfl
@[simp] theorem State.setFolio_spine (s : State) (f : Nat) (x : Folio) : (s.setFolio f x).spine = s.spine := rfl
@[simp] theorem State.setFolio_lnk (s : State) (f : Nat) (x : Folio) : (s.setFolio f x).lnk = s.lnk := rfl
@[simp] theorem State.setFolio_evt (s : State) (f : Nat) (x : Folio) : (s.setFolio f x).evt = s.evt := rfl
@[simp] theorem State.setFolio_tok (s : State) (f : Nat) (x : Folio) : (s.setFolio f x).tok = s.tok := rfl
@[simp] theorem State.setFolio_clp (s : State) (f : Nat) (x : Folio) : (s.setFolio f x).clp = s.clp := rfl
@[simp] theorem State.setFolio_rope (s : State) (f : Nat) (x : Folio) : (s.setFolio f x).rope = s.rope := rfl
@[simp] theorem State.setFolio_clk (s : State) (f : Nat) (x : Folio) : (s.setFolio f x).clk = s.clk := rfl
@[simp] theorem State.setFolio_pwr (s : State) (f : Nat) (x : Folio) : (s.setFolio f x).pwr = s.pwr := rfl
@[simp] theorem State.setFolio_thm (s : State) (f : Nat) (x : Folio) : (s.setFolio f x).thm = s.thm := rfl
@[simp] theorem State.setFolio_host (s : State) (f : Nat) (x : Folio) : (s.setFolio f x).host = s.host := rfl
@[simp] theorem State.setFolio_tap (s : State) (f : Nat) (x : Folio) : (s.setFolio f x).tap = s.tap := rfl
@[simp] theorem State.setFolio_scan (s : State) (f : Nat) (x : Folio) : (s.setFolio f x).scan = s.scan := rfl
@[simp] theorem State.setFolio_scanOut (s : State) (f : Nat) (x : Folio) : (s.setFolio f x).scanOut = s.scanOut := rfl
@[simp] theorem State.setFolio_tapHigh (s : State) (f : Nat) (x : Folio) : (s.setFolio f x).tapHigh = s.tapHigh := rfl
@[simp] theorem State.setFolio_cfgBusy (s : State) (f : Nat) (x : Folio) : (s.setFolio f x).cfgBusy = s.cfgBusy := rfl
@[simp] theorem State.setFolio_obsPending (s : State) (f : Nat) (x : Folio) : (s.setFolio f x).obsPending = s.obsPending := rfl
@[simp] theorem State.setFolio_xfers (s : State) (f : Nat) (x : Folio) : (s.setFolio f x).xfers = s.xfers := rfl
@[simp] theorem State.setFolio_hostReads (s : State) (f : Nat) (x : Folio) : (s.setFolio f x).hostReads = s.hostReads := rfl
@[simp] theorem State.setFolio_hrNext (s : State) (f : Nat) (x : Folio) : (s.setFolio f x).hrNext = s.hrNext := rfl
@[simp] theorem State.setFolio_out (s : State) (f : Nat) (x : Folio) : (s.setFolio f x).out = s.out := rfl
@[simp] theorem State.setFolio_time (s : State) (f : Nat) (x : Folio) : (s.setFolio f x).time = s.time := rfl
@[simp] theorem State.setFolio_freeCtr (s : State) (f : Nat) (x : Folio) : (s.setFolio f x).freeCtr = s.freeCtr := rfl
@[simp] theorem State.setFolio_cluster_eq (s : State) (f : Nat) (x : Folio) (k_ : Nat) : (s.setFolio f x).cluster k_ = s.cluster k_ := rfl
@[simp] theorem State.setFolio_part_eq (s : State) (f : Nat) (x : Folio) (k_ : Nat) : (s.setFolio f x).part k_ = s.part k_ := rfl
@[simp] theorem State.setFolio_ctx_eq (s : State) (f : Nat) (x : Folio) (k_ : Nat) : (s.setFolio f x).ctx k_ = s.ctx k_ := rfl
@[simp] theorem State.setFolio_group_eq (s : State) (f : Nat) (x : Folio) (k_ : Grp) : (s.setFolio f x).group k_ = s.group k_ := rfl

/-! #### setPcie -/

@[simp] theorem State.setPcie_pending (s : State) (f : Nat) (x : PcieFn) : (s.setPcie f x).pending = s.pending := rfl
@[simp] theorem State.setPcie_variant (s : State) (f : Nat) (x : PcieFn) : (s.setPcie f x).variant = s.variant := rfl
@[simp] theorem State.setPcie_fuseRenames (s : State) (f : Nat) (x : PcieFn) : (s.setPcie f x).fuseRenames = s.fuseRenames := rfl
@[simp] theorem State.setPcie_mem (s : State) (f : Nat) (x : PcieFn) : (s.setPcie f x).mem = s.mem := rfl
@[simp] theorem State.setPcie_cl (s : State) (f : Nat) (x : PcieFn) : (s.setPcie f x).cl = s.cl := rfl
@[simp] theorem State.setPcie_parts (s : State) (f : Nat) (x : PcieFn) : (s.setPcie f x).parts = s.parts := rfl
@[simp] theorem State.setPcie_ctxs (s : State) (f : Nat) (x : PcieFn) : (s.setPcie f x).ctxs = s.ctxs := rfl
@[simp] theorem State.setPcie_ctxNext (s : State) (f : Nat) (x : PcieFn) : (s.setPcie f x).ctxNext = s.ctxNext := rfl
@[simp] theorem State.setPcie_offerNext (s : State) (f : Nat) (x : PcieFn) : (s.setPcie f x).offerNext = s.offerNext := rfl
@[simp] theorem State.setPcie_queues (s : State) (f : Nat) (x : PcieFn) : (s.setPcie f x).queues = s.queues := rfl
@[simp] theorem State.setPcie_seqNext (s : State) (f : Nat) (x : PcieFn) : (s.setPcie f x).seqNext = s.seqNext := rfl
@[simp] theorem State.setPcie_lastServed (s : State) (f : Nat) (x : PcieFn) : (s.setPcie f x).lastServed = s.lastServed := rfl
@[simp] theorem State.setPcie_rst (s : State) (f : Nat) (x : PcieFn) : (s.setPcie f x).rst = s.rst := rfl
@[simp] theorem State.setPcie_fab (s : State) (f : Nat) (x : PcieFn) : (s.setPcie f x).fab = s.fab := rfl
@[simp] theorem State.setPcie_spine (s : State) (f : Nat) (x : PcieFn) : (s.setPcie f x).spine = s.spine := rfl
@[simp] theorem State.setPcie_lnk (s : State) (f : Nat) (x : PcieFn) : (s.setPcie f x).lnk = s.lnk := rfl
@[simp] theorem State.setPcie_evt (s : State) (f : Nat) (x : PcieFn) : (s.setPcie f x).evt = s.evt := rfl
@[simp] theorem State.setPcie_tok (s : State) (f : Nat) (x : PcieFn) : (s.setPcie f x).tok = s.tok := rfl
@[simp] theorem State.setPcie_clp (s : State) (f : Nat) (x : PcieFn) : (s.setPcie f x).clp = s.clp := rfl
@[simp] theorem State.setPcie_rope (s : State) (f : Nat) (x : PcieFn) : (s.setPcie f x).rope = s.rope := rfl
@[simp] theorem State.setPcie_clk (s : State) (f : Nat) (x : PcieFn) : (s.setPcie f x).clk = s.clk := rfl
@[simp] theorem State.setPcie_pwr (s : State) (f : Nat) (x : PcieFn) : (s.setPcie f x).pwr = s.pwr := rfl
@[simp] theorem State.setPcie_thm (s : State) (f : Nat) (x : PcieFn) : (s.setPcie f x).thm = s.thm := rfl
@[simp] theorem State.setPcie_tap (s : State) (f : Nat) (x : PcieFn) : (s.setPcie f x).tap = s.tap := rfl
@[simp] theorem State.setPcie_scan (s : State) (f : Nat) (x : PcieFn) : (s.setPcie f x).scan = s.scan := rfl
@[simp] theorem State.setPcie_scanOut (s : State) (f : Nat) (x : PcieFn) : (s.setPcie f x).scanOut = s.scanOut := rfl
@[simp] theorem State.setPcie_tapHigh (s : State) (f : Nat) (x : PcieFn) : (s.setPcie f x).tapHigh = s.tapHigh := rfl
@[simp] theorem State.setPcie_cfgBusy (s : State) (f : Nat) (x : PcieFn) : (s.setPcie f x).cfgBusy = s.cfgBusy := rfl
@[simp] theorem State.setPcie_obsPending (s : State) (f : Nat) (x : PcieFn) : (s.setPcie f x).obsPending = s.obsPending := rfl
@[simp] theorem State.setPcie_xfers (s : State) (f : Nat) (x : PcieFn) : (s.setPcie f x).xfers = s.xfers := rfl
@[simp] theorem State.setPcie_hostReads (s : State) (f : Nat) (x : PcieFn) : (s.setPcie f x).hostReads = s.hostReads := rfl
@[simp] theorem State.setPcie_hrNext (s : State) (f : Nat) (x : PcieFn) : (s.setPcie f x).hrNext = s.hrNext := rfl
@[simp] theorem State.setPcie_out (s : State) (f : Nat) (x : PcieFn) : (s.setPcie f x).out = s.out := rfl
@[simp] theorem State.setPcie_time (s : State) (f : Nat) (x : PcieFn) : (s.setPcie f x).time = s.time := rfl
@[simp] theorem State.setPcie_freeCtr (s : State) (f : Nat) (x : PcieFn) : (s.setPcie f x).freeCtr = s.freeCtr := rfl
@[simp] theorem State.setPcie_cluster_eq (s : State) (f : Nat) (x : PcieFn) (k_ : Nat) : (s.setPcie f x).cluster k_ = s.cluster k_ := rfl
@[simp] theorem State.setPcie_part_eq (s : State) (f : Nat) (x : PcieFn) (k_ : Nat) : (s.setPcie f x).part k_ = s.part k_ := rfl
@[simp] theorem State.setPcie_ctx_eq (s : State) (f : Nat) (x : PcieFn) (k_ : Nat) : (s.setPcie f x).ctx k_ = s.ctx k_ := rfl
@[simp] theorem State.setPcie_group_eq (s : State) (f : Nat) (x : PcieFn) (k_ : Grp) : (s.setPcie f x).group k_ = s.group k_ := rfl

/-! #### setSliceQ -/

@[simp] theorem State.setSliceQ_pending (s : State) (k : Nat) (q : SliceQ) : (s.setSliceQ k q).pending = s.pending := rfl
@[simp] theorem State.setSliceQ_variant (s : State) (k : Nat) (q : SliceQ) : (s.setSliceQ k q).variant = s.variant := rfl
@[simp] theorem State.setSliceQ_fuseRenames (s : State) (k : Nat) (q : SliceQ) : (s.setSliceQ k q).fuseRenames = s.fuseRenames := rfl
@[simp] theorem State.setSliceQ_mem (s : State) (k : Nat) (q : SliceQ) : (s.setSliceQ k q).mem = s.mem := rfl
@[simp] theorem State.setSliceQ_cl (s : State) (k : Nat) (q : SliceQ) : (s.setSliceQ k q).cl = s.cl := rfl
@[simp] theorem State.setSliceQ_parts (s : State) (k : Nat) (q : SliceQ) : (s.setSliceQ k q).parts = s.parts := rfl
@[simp] theorem State.setSliceQ_ctxs (s : State) (k : Nat) (q : SliceQ) : (s.setSliceQ k q).ctxs = s.ctxs := rfl
@[simp] theorem State.setSliceQ_ctxNext (s : State) (k : Nat) (q : SliceQ) : (s.setSliceQ k q).ctxNext = s.ctxNext := rfl
@[simp] theorem State.setSliceQ_offerNext (s : State) (k : Nat) (q : SliceQ) : (s.setSliceQ k q).offerNext = s.offerNext := rfl
@[simp] theorem State.setSliceQ_queues (s : State) (k : Nat) (q : SliceQ) : (s.setSliceQ k q).queues = s.queues := rfl
@[simp] theorem State.setSliceQ_seqNext (s : State) (k : Nat) (q : SliceQ) : (s.setSliceQ k q).seqNext = s.seqNext := rfl
@[simp] theorem State.setSliceQ_lastServed (s : State) (k : Nat) (q : SliceQ) : (s.setSliceQ k q).lastServed = s.lastServed := rfl
@[simp] theorem State.setSliceQ_rst (s : State) (k : Nat) (q : SliceQ) : (s.setSliceQ k q).rst = s.rst := rfl
@[simp] theorem State.setSliceQ_fab (s : State) (k : Nat) (q : SliceQ) : (s.setSliceQ k q).fab = s.fab := rfl
@[simp] theorem State.setSliceQ_lnk (s : State) (k : Nat) (q : SliceQ) : (s.setSliceQ k q).lnk = s.lnk := rfl
@[simp] theorem State.setSliceQ_evt (s : State) (k : Nat) (q : SliceQ) : (s.setSliceQ k q).evt = s.evt := rfl
@[simp] theorem State.setSliceQ_tok (s : State) (k : Nat) (q : SliceQ) : (s.setSliceQ k q).tok = s.tok := rfl
@[simp] theorem State.setSliceQ_clp (s : State) (k : Nat) (q : SliceQ) : (s.setSliceQ k q).clp = s.clp := rfl
@[simp] theorem State.setSliceQ_rope (s : State) (k : Nat) (q : SliceQ) : (s.setSliceQ k q).rope = s.rope := rfl
@[simp] theorem State.setSliceQ_clk (s : State) (k : Nat) (q : SliceQ) : (s.setSliceQ k q).clk = s.clk := rfl
@[simp] theorem State.setSliceQ_pwr (s : State) (k : Nat) (q : SliceQ) : (s.setSliceQ k q).pwr = s.pwr := rfl
@[simp] theorem State.setSliceQ_thm (s : State) (k : Nat) (q : SliceQ) : (s.setSliceQ k q).thm = s.thm := rfl
@[simp] theorem State.setSliceQ_host (s : State) (k : Nat) (q : SliceQ) : (s.setSliceQ k q).host = s.host := rfl
@[simp] theorem State.setSliceQ_tap (s : State) (k : Nat) (q : SliceQ) : (s.setSliceQ k q).tap = s.tap := rfl
@[simp] theorem State.setSliceQ_scan (s : State) (k : Nat) (q : SliceQ) : (s.setSliceQ k q).scan = s.scan := rfl
@[simp] theorem State.setSliceQ_scanOut (s : State) (k : Nat) (q : SliceQ) : (s.setSliceQ k q).scanOut = s.scanOut := rfl
@[simp] theorem State.setSliceQ_tapHigh (s : State) (k : Nat) (q : SliceQ) : (s.setSliceQ k q).tapHigh = s.tapHigh := rfl
@[simp] theorem State.setSliceQ_cfgBusy (s : State) (k : Nat) (q : SliceQ) : (s.setSliceQ k q).cfgBusy = s.cfgBusy := rfl
@[simp] theorem State.setSliceQ_obsPending (s : State) (k : Nat) (q : SliceQ) : (s.setSliceQ k q).obsPending = s.obsPending := rfl
@[simp] theorem State.setSliceQ_xfers (s : State) (k : Nat) (q : SliceQ) : (s.setSliceQ k q).xfers = s.xfers := rfl
@[simp] theorem State.setSliceQ_hostReads (s : State) (k : Nat) (q : SliceQ) : (s.setSliceQ k q).hostReads = s.hostReads := rfl
@[simp] theorem State.setSliceQ_hrNext (s : State) (k : Nat) (q : SliceQ) : (s.setSliceQ k q).hrNext = s.hrNext := rfl
@[simp] theorem State.setSliceQ_out (s : State) (k : Nat) (q : SliceQ) : (s.setSliceQ k q).out = s.out := rfl
@[simp] theorem State.setSliceQ_time (s : State) (k : Nat) (q : SliceQ) : (s.setSliceQ k q).time = s.time := rfl
@[simp] theorem State.setSliceQ_freeCtr (s : State) (k : Nat) (q : SliceQ) : (s.setSliceQ k q).freeCtr = s.freeCtr := rfl
@[simp] theorem State.setSliceQ_cluster_eq (s : State) (k : Nat) (q : SliceQ) (k_ : Nat) : (s.setSliceQ k q).cluster k_ = s.cluster k_ := rfl
@[simp] theorem State.setSliceQ_part_eq (s : State) (k : Nat) (q : SliceQ) (k_ : Nat) : (s.setSliceQ k q).part k_ = s.part k_ := rfl
@[simp] theorem State.setSliceQ_ctx_eq (s : State) (k : Nat) (q : SliceQ) (k_ : Nat) : (s.setSliceQ k q).ctx k_ = s.ctx k_ := rfl
@[simp] theorem State.setSliceQ_group_eq (s : State) (k : Nat) (q : SliceQ) (k_ : Grp) : (s.setSliceQ k q).group k_ = s.group k_ := rfl

/-! #### setChanQ -/

@[simp] theorem State.setChanQ_pending (s : State) (c : Nat) (q : ChanQ) : (s.setChanQ c q).pending = s.pending := rfl
@[simp] theorem State.setChanQ_variant (s : State) (c : Nat) (q : ChanQ) : (s.setChanQ c q).variant = s.variant := rfl
@[simp] theorem State.setChanQ_fuseRenames (s : State) (c : Nat) (q : ChanQ) : (s.setChanQ c q).fuseRenames = s.fuseRenames := rfl
@[simp] theorem State.setChanQ_mem (s : State) (c : Nat) (q : ChanQ) : (s.setChanQ c q).mem = s.mem := rfl
@[simp] theorem State.setChanQ_cl (s : State) (c : Nat) (q : ChanQ) : (s.setChanQ c q).cl = s.cl := rfl
@[simp] theorem State.setChanQ_parts (s : State) (c : Nat) (q : ChanQ) : (s.setChanQ c q).parts = s.parts := rfl
@[simp] theorem State.setChanQ_ctxs (s : State) (c : Nat) (q : ChanQ) : (s.setChanQ c q).ctxs = s.ctxs := rfl
@[simp] theorem State.setChanQ_ctxNext (s : State) (c : Nat) (q : ChanQ) : (s.setChanQ c q).ctxNext = s.ctxNext := rfl
@[simp] theorem State.setChanQ_offerNext (s : State) (c : Nat) (q : ChanQ) : (s.setChanQ c q).offerNext = s.offerNext := rfl
@[simp] theorem State.setChanQ_queues (s : State) (c : Nat) (q : ChanQ) : (s.setChanQ c q).queues = s.queues := rfl
@[simp] theorem State.setChanQ_seqNext (s : State) (c : Nat) (q : ChanQ) : (s.setChanQ c q).seqNext = s.seqNext := rfl
@[simp] theorem State.setChanQ_lastServed (s : State) (c : Nat) (q : ChanQ) : (s.setChanQ c q).lastServed = s.lastServed := rfl
@[simp] theorem State.setChanQ_rst (s : State) (c : Nat) (q : ChanQ) : (s.setChanQ c q).rst = s.rst := rfl
@[simp] theorem State.setChanQ_fab (s : State) (c : Nat) (q : ChanQ) : (s.setChanQ c q).fab = s.fab := rfl
@[simp] theorem State.setChanQ_lnk (s : State) (c : Nat) (q : ChanQ) : (s.setChanQ c q).lnk = s.lnk := rfl
@[simp] theorem State.setChanQ_evt (s : State) (c : Nat) (q : ChanQ) : (s.setChanQ c q).evt = s.evt := rfl
@[simp] theorem State.setChanQ_tok (s : State) (c : Nat) (q : ChanQ) : (s.setChanQ c q).tok = s.tok := rfl
@[simp] theorem State.setChanQ_clp (s : State) (c : Nat) (q : ChanQ) : (s.setChanQ c q).clp = s.clp := rfl
@[simp] theorem State.setChanQ_rope (s : State) (c : Nat) (q : ChanQ) : (s.setChanQ c q).rope = s.rope := rfl
@[simp] theorem State.setChanQ_clk (s : State) (c : Nat) (q : ChanQ) : (s.setChanQ c q).clk = s.clk := rfl
@[simp] theorem State.setChanQ_pwr (s : State) (c : Nat) (q : ChanQ) : (s.setChanQ c q).pwr = s.pwr := rfl
@[simp] theorem State.setChanQ_thm (s : State) (c : Nat) (q : ChanQ) : (s.setChanQ c q).thm = s.thm := rfl
@[simp] theorem State.setChanQ_host (s : State) (c : Nat) (q : ChanQ) : (s.setChanQ c q).host = s.host := rfl
@[simp] theorem State.setChanQ_tap (s : State) (c : Nat) (q : ChanQ) : (s.setChanQ c q).tap = s.tap := rfl
@[simp] theorem State.setChanQ_scan (s : State) (c : Nat) (q : ChanQ) : (s.setChanQ c q).scan = s.scan := rfl
@[simp] theorem State.setChanQ_scanOut (s : State) (c : Nat) (q : ChanQ) : (s.setChanQ c q).scanOut = s.scanOut := rfl
@[simp] theorem State.setChanQ_tapHigh (s : State) (c : Nat) (q : ChanQ) : (s.setChanQ c q).tapHigh = s.tapHigh := rfl
@[simp] theorem State.setChanQ_cfgBusy (s : State) (c : Nat) (q : ChanQ) : (s.setChanQ c q).cfgBusy = s.cfgBusy := rfl
@[simp] theorem State.setChanQ_obsPending (s : State) (c : Nat) (q : ChanQ) : (s.setChanQ c q).obsPending = s.obsPending := rfl
@[simp] theorem State.setChanQ_xfers (s : State) (c : Nat) (q : ChanQ) : (s.setChanQ c q).xfers = s.xfers := rfl
@[simp] theorem State.setChanQ_hostReads (s : State) (c : Nat) (q : ChanQ) : (s.setChanQ c q).hostReads = s.hostReads := rfl
@[simp] theorem State.setChanQ_hrNext (s : State) (c : Nat) (q : ChanQ) : (s.setChanQ c q).hrNext = s.hrNext := rfl
@[simp] theorem State.setChanQ_out (s : State) (c : Nat) (q : ChanQ) : (s.setChanQ c q).out = s.out := rfl
@[simp] theorem State.setChanQ_time (s : State) (c : Nat) (q : ChanQ) : (s.setChanQ c q).time = s.time := rfl
@[simp] theorem State.setChanQ_freeCtr (s : State) (c : Nat) (q : ChanQ) : (s.setChanQ c q).freeCtr = s.freeCtr := rfl
@[simp] theorem State.setChanQ_cluster_eq (s : State) (c : Nat) (q : ChanQ) (k_ : Nat) : (s.setChanQ c q).cluster k_ = s.cluster k_ := rfl
@[simp] theorem State.setChanQ_part_eq (s : State) (c : Nat) (q : ChanQ) (k_ : Nat) : (s.setChanQ c q).part k_ = s.part k_ := rfl
@[simp] theorem State.setChanQ_ctx_eq (s : State) (c : Nat) (q : ChanQ) (k_ : Nat) : (s.setChanQ c q).ctx k_ = s.ctx k_ := rfl
@[simp] theorem State.setChanQ_group_eq (s : State) (c : Nat) (q : ChanQ) (k_ : Grp) : (s.setChanQ c q).group k_ = s.group k_ := rfl

/-! #### A read after a write -/

theorem State.pcie_setPcie (s : State) (c d : Nat) (x : PcieFn) :
    (s.setPcie c x).pcie d = if d = c then x else s.pcie d := NMap.get_set _ _ _ _ _

@[simp] theorem State.pcie_setPcie_same (s : State) (c : Nat) (x : PcieFn) : (s.setPcie c x).pcie c = x :=
  NMap.get_set_same _ _ _ _

theorem State.sliceQ_setSliceQ (s : State) (c d : Nat) (x : SliceQ) :
    (s.setSliceQ c x).sliceQ d = if d = c then x else s.sliceQ d := NMap.get_set _ _ _ _ _

@[simp] theorem State.sliceQ_setSliceQ_same (s : State) (c : Nat) (x : SliceQ) : (s.setSliceQ c x).sliceQ c = x :=
  NMap.get_set_same _ _ _ _

theorem State.chanQ_setChanQ (s : State) (c d : Nat) (x : ChanQ) :
    (s.setChanQ c x).chanQ d = if d = c then x else s.chanQ d := NMap.get_set _ _ _ _ _

@[simp] theorem State.chanQ_setChanQ_same (s : State) (c : Nat) (x : ChanQ) : (s.setChanQ c x).chanQ c = x :=
  NMap.get_set_same _ _ _ _

theorem State.folio_setFolio (s : State) (c d : Nat) (x : Folio) :
    (s.setFolio c x).folio d = if (d = 0) = (c = 0) then x else s.folio d := by
  by_cases hc : c = 0 <;> by_cases hd : d = 0 <;> simp [State.setFolio, State.folio, hc, hd]

@[simp] theorem State.folio_setFolio_same (s : State) (c : Nat) (x : Folio) : (s.setFolio c x).folio c = x := by
  simp [State.folio_setFolio]

theorem State.cluster_setCluster (s : State) (c d : Nat) (x : Cluster) :
    (s.setCluster c x).cluster d = if d = c then x else s.cluster d := NMap.get_set _ _ _ _ _

@[simp] theorem State.cluster_setCluster_same (s : State) (c : Nat) (x : Cluster) : (s.setCluster c x).cluster c = x :=
  NMap.get_set_same _ _ _ _

theorem State.cluster_setCluster_other (s : State) {c d : Nat} (x : Cluster) (h : d ≠ c) : (s.setCluster c x).cluster d = s.cluster d :=
  NMap.get_set_other _ _ _ h

theorem State.part_setPart (s : State) (c d : Nat) (x : Part) :
    (s.setPart c x).part d = if d = c then x else s.part d := NMap.get_set _ _ _ _ _

@[simp] theorem State.part_setPart_same (s : State) (c : Nat) (x : Part) : (s.setPart c x).part c = x :=
  NMap.get_set_same _ _ _ _

theorem State.part_setPart_other (s : State) {c d : Nat} (x : Part) (h : d ≠ c) : (s.setPart c x).part d = s.part d :=
  NMap.get_set_other _ _ _ h

theorem State.ctx_setCtx (s : State) (c d : Nat) (x : Ctx) :
    (s.setCtx c x).ctx d = if d = c then x else s.ctx d := NMap.get_set _ _ _ _ _

@[simp] theorem State.ctx_setCtx_same (s : State) (c : Nat) (x : Ctx) : (s.setCtx c x).ctx c = x :=
  NMap.get_set_same _ _ _ _

theorem State.ctx_setCtx_other (s : State) {c d : Nat} (x : Ctx) (h : d ≠ c) : (s.setCtx c x).ctx d = s.ctx d :=
  NMap.get_set_other _ _ _ h

theorem State.link_setLink (s : State) (c d : Nat) (x : Link) :
    (s.setLink c x).link d = if d = c then x else s.link d := NMap.get_set _ _ _ _ _

@[simp] theorem State.link_setLink_same (s : State) (c : Nat) (x : Link) : (s.setLink c x).link c = x :=
  NMap.get_set_same _ _ _ _

theorem State.link_setLink_other (s : State) {c d : Nat} (x : Link) (h : d ≠ c) : (s.setLink c x).link d = s.link d :=
  NMap.get_set_other _ _ _ h

theorem State.engine_setEngine (s : State) (c d : Nat) (x : Engine) :
    (s.setEngine c x).engine d = if d = c then x else s.engine d := NMap.get_set _ _ _ _ _

@[simp] theorem State.engine_setEngine_same (s : State) (c : Nat) (x : Engine) : (s.setEngine c x).engine c = x :=
  NMap.get_set_same _ _ _ _

theorem State.engine_setEngine_other (s : State) {c d : Nat} (x : Engine) (h : d ≠ c) : (s.setEngine c x).engine d = s.engine d :=
  NMap.get_set_other _ _ _ h

theorem State.gath_setGath (s : State) (c d : Nat) (x : Gath) :
    (s.setGath c x).gath d = if d = c then x else s.gath d := NMap.get_set _ _ _ _ _

@[simp] theorem State.gath_setGath_same (s : State) (c : Nat) (x : Gath) : (s.setGath c x).gath c = x :=
  NMap.get_set_same _ _ _ _

theorem State.gath_setGath_other (s : State) {c d : Nat} (x : Gath) (h : d ≠ c) : (s.setGath c x).gath d = s.gath d :=
  NMap.get_set_other _ _ _ h

theorem State.router_setRouter (s : State) (c d : Nat) (x : Router) :
    (s.setRouter c x).router d = if d = c then x else s.router d := NMap.get_set _ _ _ _ _

@[simp] theorem State.router_setRouter_same (s : State) (c : Nat) (x : Router) : (s.setRouter c x).router c = x :=
  NMap.get_set_same _ _ _ _

theorem State.router_setRouter_other (s : State) {c d : Nat} (x : Router) (h : d ≠ c) : (s.setRouter c x).router d = s.router d :=
  NMap.get_set_other _ _ _ h

theorem State.dom_setDom (s : State) (c d : Nat) (x : Dom) :
    (s.setDom c x).dom d = if d = c then x else s.dom d := NMap.get_set _ _ _ _ _

@[simp] theorem State.dom_setDom_same (s : State) (c : Nat) (x : Dom) : (s.setDom c x).dom c = x :=
  NMap.get_set_same _ _ _ _

theorem State.dom_setDom_other (s : State) {c d : Nat} (x : Dom) (h : d ≠ c) : (s.setDom c x).dom d = s.dom d :=
  NMap.get_set_other _ _ _ h

theorem State.rail_setRail (s : State) (c d : Nat) (x : Rail) :
    (s.setRail c x).rail d = if d = c then x else s.rail d := NMap.get_set _ _ _ _ _

@[simp] theorem State.rail_setRail_same (s : State) (c : Nat) (x : Rail) : (s.setRail c x).rail c = x :=
  NMap.get_set_same _ _ _ _

theorem State.rail_setRail_other (s : State) {c d : Nat} (x : Rail) (h : d ≠ c) : (s.setRail c x).rail d = s.rail d :=
  NMap.get_set_other _ _ _ h

theorem State.sensor_setSensor (s : State) (c d : Nat) (x : Sensor) :
    (s.setSensor c x).sensor d = if d = c then x else s.sensor d := NMap.get_set _ _ _ _ _

@[simp] theorem State.sensor_setSensor_same (s : State) (c : Nat) (x : Sensor) : (s.setSensor c x).sensor c = x :=
  NMap.get_set_same _ _ _ _

theorem State.sensor_setSensor_other (s : State) {c d : Nat} (x : Sensor) (h : d ≠ c) : (s.setSensor c x).sensor d = s.sensor d :=
  NMap.get_set_other _ _ _ h

@[simp] theorem State.setCluster_setCluster (s : State) (c : Nat) (x y : Cluster) :
    (s.setCluster c x).setCluster c y = s.setCluster c y := by simp [State.setCluster]

@[simp] theorem State.setPart_setPart (s : State) (p : Nat) (x y : Part) : (s.setPart p x).setPart p y = s.setPart p y := by
  simp [State.setPart]

@[simp] theorem State.setQueue_setQueue (s : State) (f q : Nat) (x y : Queue) :
    (s.setQueue f q x).setQueue f q y = s.setQueue f q y := by simp [State.setQueue]

@[simp] theorem Cluster.setGroup_setGroup (c : Cluster) (i j : Nat) (x y : Group) :
    (c.setGroup i j x).setGroup i j y = c.setGroup i j y := by simp [Cluster.setGroup]

@[simp] theorem State.setGroup_setGroup (s : State) (g : Grp) (x y : Group) :
    (s.setGroup g x).setGroup g y = s.setGroup g y := by simp [State.setGroup]

@[simp] theorem State.queue_setQueue_same (s : State) (f q : Nat) (x : Queue) : (s.setQueue f q x).queue f q = x :=
  NMap.get_set_same _ _ _ _

theorem State.queue_setQueue (s : State) (f q f' q' : Nat) (x : Queue) :
    (s.setQueue f q x).queue f' q' = if 16 * f' + q' = 16 * f + q then x else s.queue f' q' := NMap.get_set _ _ _ _ _

@[simp] theorem Cluster.group_setGroup_same (c : Cluster) (i j : Nat) (x : Group) : (c.setGroup i j x).group i j = x :=
  NMap.get_set_same _ _ _ _

theorem Cluster.group_setGroup (c : Cluster) (i j k l : Nat) (x : Group) :
    (c.setGroup i j x).group k l = if gKey k l = gKey i j then x else c.group k l := NMap.get_set _ _ _ _ _

@[simp] theorem Cluster.block_setGroup (c : Cluster) (i j b : Nat) (x : Group) : (c.setGroup i j x).block b = c.block b := rfl

@[simp] theorem State.group_setGroup_same (s : State) (g : Grp) (x : Group) : (s.setGroup g x).group g = x := by
  simp [State.group, State.setGroup]

@[simp] theorem State.cluster_setGroup_same (s : State) (g : Grp) (x : Group) :
    (s.setGroup g x).cluster g.cl = (s.cluster g.cl).setGroup g.core g.slot x := by simp [State.setGroup]

theorem State.cluster_setGroup_other (s : State) (g : Grp) (x : Group) {c : Nat} (h : c ≠ g.cl) :
    (s.setGroup g x).cluster c = s.cluster c := by simp [State.setGroup, State.cluster_setCluster_other _ _ h]

@[simp] theorem Group.s_setS_same (g : Group) (n : Nat) (v : Word) : (g.setS n v).s n = v := NMap.get_set_same _ _ _ _

theorem Group.s_setS (g : Group) (n m : Nat) (v : Word) : (g.setS n v).s m = if m = n then v else g.s m :=
  NMap.get_set _ _ _ _ _

@[simp] theorem Group.p_setP_same (g : Group) (n : Nat) (v : BitVec 8) : (g.setP n v).p n = v := NMap.get_set_same _ _ _ _

theorem Group.p_setP (g : Group) (n m : Nat) (v : BitVec 8) : (g.setP n v).p m = if m = n then v else g.p m :=
  NMap.get_set _ _ _ _ _

@[simp] theorem State.setCluster_part_eq (s : State) (c : Nat) (x : Cluster) (k_ : Nat) : (s.setCluster c x).part k_ = s.part k_ := rfl
@[simp] theorem State.setCluster_ctx_eq (s : State) (c : Nat) (x : Cluster) (k_ : Nat) : (s.setCluster c x).ctx k_ = s.ctx k_ := rfl
@[simp] theorem State.setPart_cluster_eq (s : State) (p : Nat) (x : Part) (k_ : Nat) : (s.setPart p x).cluster k_ = s.cluster k_ := rfl
@[simp] theorem State.setPart_ctx_eq (s : State) (p : Nat) (x : Part) (k_ : Nat) : (s.setPart p x).ctx k_ = s.ctx k_ := rfl
@[simp] theorem State.setPart_group_eq (s : State) (p : Nat) (x : Part) (g_ : Grp) : (s.setPart p x).group g_ = s.group g_ := rfl
@[simp] theorem State.setCtx_cluster_eq (s : State) (k : Nat) (x : Ctx) (k_ : Nat) : (s.setCtx k x).cluster k_ = s.cluster k_ := rfl
@[simp] theorem State.setCtx_part_eq (s : State) (k : Nat) (x : Ctx) (k_ : Nat) : (s.setCtx k x).part k_ = s.part k_ := rfl
@[simp] theorem State.setCtx_group_eq (s : State) (k : Nat) (x : Ctx) (g_ : Grp) : (s.setCtx k x).group g_ = s.group g_ := rfl
@[simp] theorem State.setQueue_cluster_eq (s : State) (f q : Nat) (x : Queue) (k_ : Nat) : (s.setQueue f q x).cluster k_ = s.cluster k_ := rfl
@[simp] theorem State.setQueue_part_eq (s : State) (f q : Nat) (x : Queue) (k_ : Nat) : (s.setQueue f q x).part k_ = s.part k_ := rfl
@[simp] theorem State.setQueue_ctx_eq (s : State) (f q : Nat) (x : Queue) (k_ : Nat) : (s.setQueue f q x).ctx k_ = s.ctx k_ := rfl
@[simp] theorem State.setQueue_group_eq (s : State) (f q : Nat) (x : Queue) (g_ : Grp) : (s.setQueue f q x).group g_ = s.group g_ := rfl
@[simp] theorem State.send_cluster_eq (s : State) (o : Out) (k_ : Nat) : (s.send o).cluster k_ = s.cluster k_ := rfl
@[simp] theorem State.send_part_eq (s : State) (o : Out) (k_ : Nat) : (s.send o).part k_ = s.part k_ := rfl
@[simp] theorem State.send_ctx_eq (s : State) (o : Out) (k_ : Nat) : (s.send o).ctx k_ = s.ctx k_ := rfl
@[simp] theorem State.send_group_eq (s : State) (o : Out) (g_ : Grp) : (s.send o).group g_ = s.group g_ := rfl
@[simp] theorem State.observe_cluster_eq (s : State) (o : Occ) (k_ : Nat) : (s.observe o).cluster k_ = s.cluster k_ := rfl
@[simp] theorem State.observe_part_eq (s : State) (o : Occ) (k_ : Nat) : (s.observe o).part k_ = s.part k_ := rfl
@[simp] theorem State.observe_ctx_eq (s : State) (o : Occ) (k_ : Nat) : (s.observe o).ctx k_ = s.ctx k_ := rfl
@[simp] theorem State.observe_group_eq (s : State) (o : Occ) (g_ : Grp) : (s.observe o).group g_ = s.group g_ := rfl
@[simp] theorem State.setGroup_part_eq (s : State) (g : Grp) (x : Group) (k_ : Nat) : (s.setGroup g x).part k_ = s.part k_ := rfl
@[simp] theorem State.setGroup_ctx_eq (s : State) (g : Grp) (x : Group) (k_ : Nat) : (s.setGroup g x).ctx k_ = s.ctx k_ := rfl
@[simp] theorem State.setLink_cluster_eq (s : State) (l : Nat) (x : Link) (k_ : Nat) : (s.setLink l x).cluster k_ = s.cluster k_ := rfl
@[simp] theorem State.setLink_part_eq (s : State) (l : Nat) (x : Link) (k_ : Nat) : (s.setLink l x).part k_ = s.part k_ := rfl
@[simp] theorem State.setLink_ctx_eq (s : State) (l : Nat) (x : Link) (k_ : Nat) : (s.setLink l x).ctx k_ = s.ctx k_ := rfl
@[simp] theorem State.setLink_group_eq (s : State) (l : Nat) (x : Link) (g_ : Grp) : (s.setLink l x).group g_ = s.group g_ := rfl
@[simp] theorem State.setEngine_cluster_eq (s : State) (k : Nat) (e : Engine) (k_ : Nat) : (s.setEngine k e).cluster k_ = s.cluster k_ := rfl
@[simp] theorem State.setEngine_part_eq (s : State) (k : Nat) (e : Engine) (k_ : Nat) : (s.setEngine k e).part k_ = s.part k_ := rfl
@[simp] theorem State.setEngine_ctx_eq (s : State) (k : Nat) (e : Engine) (k_ : Nat) : (s.setEngine k e).ctx k_ = s.ctx k_ := rfl
@[simp] theorem State.setEngine_group_eq (s : State) (k : Nat) (e : Engine) (g_ : Grp) : (s.setEngine k e).group g_ = s.group g_ := rfl
@[simp] theorem State.setGath_cluster_eq (s : State) (k : Nat) (x : Gath) (k_ : Nat) : (s.setGath k x).cluster k_ = s.cluster k_ := rfl
@[simp] theorem State.setGath_part_eq (s : State) (k : Nat) (x : Gath) (k_ : Nat) : (s.setGath k x).part k_ = s.part k_ := rfl
@[simp] theorem State.setGath_ctx_eq (s : State) (k : Nat) (x : Gath) (k_ : Nat) : (s.setGath k x).ctx k_ = s.ctx k_ := rfl
@[simp] theorem State.setGath_group_eq (s : State) (k : Nat) (x : Gath) (g_ : Grp) : (s.setGath k x).group g_ = s.group g_ := rfl
@[simp] theorem State.setRouter_cluster_eq (s : State) (c : Nat) (x : Router) (k_ : Nat) : (s.setRouter c x).cluster k_ = s.cluster k_ := rfl
@[simp] theorem State.setRouter_part_eq (s : State) (c : Nat) (x : Router) (k_ : Nat) : (s.setRouter c x).part k_ = s.part k_ := rfl
@[simp] theorem State.setRouter_ctx_eq (s : State) (c : Nat) (x : Router) (k_ : Nat) : (s.setRouter c x).ctx k_ = s.ctx k_ := rfl
@[simp] theorem State.setRouter_group_eq (s : State) (c : Nat) (x : Router) (g_ : Grp) : (s.setRouter c x).group g_ = s.group g_ := rfl
@[simp] theorem State.setDom_cluster_eq (s : State) (d : Nat) (x : Dom) (k_ : Nat) : (s.setDom d x).cluster k_ = s.cluster k_ := rfl
@[simp] theorem State.setDom_part_eq (s : State) (d : Nat) (x : Dom) (k_ : Nat) : (s.setDom d x).part k_ = s.part k_ := rfl
@[simp] theorem State.setDom_ctx_eq (s : State) (d : Nat) (x : Dom) (k_ : Nat) : (s.setDom d x).ctx k_ = s.ctx k_ := rfl
@[simp] theorem State.setDom_group_eq (s : State) (d : Nat) (x : Dom) (g_ : Grp) : (s.setDom d x).group g_ = s.group g_ := rfl
@[simp] theorem State.setRail_cluster_eq (s : State) (r : Nat) (x : Rail) (k_ : Nat) : (s.setRail r x).cluster k_ = s.cluster k_ := rfl
@[simp] theorem State.setRail_part_eq (s : State) (r : Nat) (x : Rail) (k_ : Nat) : (s.setRail r x).part k_ = s.part k_ := rfl
@[simp] theorem State.setRail_ctx_eq (s : State) (r : Nat) (x : Rail) (k_ : Nat) : (s.setRail r x).ctx k_ = s.ctx k_ := rfl
@[simp] theorem State.setRail_group_eq (s : State) (r : Nat) (x : Rail) (g_ : Grp) : (s.setRail r x).group g_ = s.group g_ := rfl
@[simp] theorem State.setPwr_cluster_eq (s : State) (x : Pwr) (k_ : Nat) : (s.setPwr x).cluster k_ = s.cluster k_ := rfl
@[simp] theorem State.setPwr_part_eq (s : State) (x : Pwr) (k_ : Nat) : (s.setPwr x).part k_ = s.part k_ := rfl
@[simp] theorem State.setPwr_ctx_eq (s : State) (x : Pwr) (k_ : Nat) : (s.setPwr x).ctx k_ = s.ctx k_ := rfl
@[simp] theorem State.setPwr_group_eq (s : State) (x : Pwr) (g_ : Grp) : (s.setPwr x).group g_ = s.group g_ := rfl
@[simp] theorem State.setThm_cluster_eq (s : State) (x : Thm) (k_ : Nat) : (s.setThm x).cluster k_ = s.cluster k_ := rfl
@[simp] theorem State.setThm_part_eq (s : State) (x : Thm) (k_ : Nat) : (s.setThm x).part k_ = s.part k_ := rfl
@[simp] theorem State.setThm_ctx_eq (s : State) (x : Thm) (k_ : Nat) : (s.setThm x).ctx k_ = s.ctx k_ := rfl
@[simp] theorem State.setThm_group_eq (s : State) (x : Thm) (g_ : Grp) : (s.setThm x).group g_ = s.group g_ := rfl
@[simp] theorem State.setSensor_cluster_eq (s : State) (n : Nat) (x : Sensor) (k_ : Nat) : (s.setSensor n x).cluster k_ = s.cluster k_ := rfl
@[simp] theorem State.setSensor_part_eq (s : State) (n : Nat) (x : Sensor) (k_ : Nat) : (s.setSensor n x).part k_ = s.part k_ := rfl
@[simp] theorem State.setSensor_ctx_eq (s : State) (n : Nat) (x : Sensor) (k_ : Nat) : (s.setSensor n x).ctx k_ = s.ctx k_ := rfl
@[simp] theorem State.setSensor_group_eq (s : State) (n : Nat) (x : Sensor) (g_ : Grp) : (s.setSensor n x).group g_ = s.group g_ := rfl
@[simp] theorem State.setRst_cluster_eq (s : State) (r : Rst) (k_ : Nat) : (s.setRst r).cluster k_ = s.cluster k_ := rfl
@[simp] theorem State.setRst_part_eq (s : State) (r : Rst) (k_ : Nat) : (s.setRst r).part k_ = s.part k_ := rfl
@[simp] theorem State.setRst_ctx_eq (s : State) (r : Rst) (k_ : Nat) : (s.setRst r).ctx k_ = s.ctx k_ := rfl
@[simp] theorem State.setRst_group_eq (s : State) (r : Rst) (g_ : Grp) : (s.setRst r).group g_ = s.group g_ := rfl
@[simp] theorem State.setMem_cluster_eq (s : State) (m : MemSys) (k_ : Nat) : (s.setMem m).cluster k_ = s.cluster k_ := rfl
@[simp] theorem State.setMem_part_eq (s : State) (m : MemSys) (k_ : Nat) : (s.setMem m).part k_ = s.part k_ := rfl
@[simp] theorem State.setMem_ctx_eq (s : State) (m : MemSys) (k_ : Nat) : (s.setMem m).ctx k_ = s.ctx k_ := rfl
@[simp] theorem State.setMem_group_eq (s : State) (m : MemSys) (g_ : Grp) : (s.setMem m).group g_ = s.group g_ := rfl
@[simp] theorem State.acting_cluster_eq (s : State) (p : Option Nat) (k_ : Nat) : (s.acting p).cluster k_ = s.cluster k_ := by
  unfold State.acting; split <;> rfl
@[simp] theorem State.acting_part_eq (s : State) (p : Option Nat) (k_ : Nat) : (s.acting p).part k_ = s.part k_ := by
  unfold State.acting; split <;> rfl
@[simp] theorem State.acting_ctx_eq (s : State) (p : Option Nat) (k_ : Nat) : (s.acting p).ctx k_ = s.ctx k_ := by
  unfold State.acting; split <;> rfl
@[simp] theorem State.acting_group_eq (s : State) (p : Option Nat) (k_ : Grp) : (s.acting p).group k_ = s.group k_ := by
  unfold State.acting; split <;> rfl

end Sys2Proof.Machine
end

