-- ==== Sys2Proof/Laws/Issue.lean ====
section
/-! SUPPORT. What the shared issue of an instruction does, once and for all: its pops and fetch, the state its own
effect starts from, and where it ends. -/

namespace Sys2Proof.Machine

@[simp] theorem fetched_cluster_other (s : State) (g : Grp) {c : Nat} (h : c ≠ g.cl) (w : Nat) : (fetched s g w).cluster c = s.cluster c := by
  simp [fetched, State.cluster_setCluster_other _ _ h]

theorem icTouch_eq (m : MemSys) (c : Cluster) (ln : Nat) : ∃ ic, icTouch m c ln = { c with icache := ic } := ⟨_, rfl⟩

/-- Filling lines changes the instruction cache and nothing else of a cluster. -/
theorem icTouches_eq (m : MemSys) (ls : List Nat) (c : Cluster) : ∃ ic, ls.foldl (icTouch m) c = { c with icache := ic } := by
  induction ls generalizing c with
  | nil => exact ⟨c.icache, rfl⟩
  | cons l ls ih =>
    obtain ⟨ic, h⟩ := icTouch_eq m c l
    obtain ⟨ic', h'⟩ := ih (icTouch m c l)
    exact ⟨ic', by rw [List.foldl_cons, h', h]⟩

/-- The cluster of a group that is about to execute. -/
theorem fetched_cluster (s : State) (g : Grp) (w : Nat) :
    ∃ ic, (fetched s g w).cluster g.cl = ({ s.cluster g.cl with icache := ic } : Cluster).setGroup g.core g.slot (issueGroup s g) := by
  obtain ⟨ic, h⟩ := icTouches_eq s.mem (fetchLines (issueGroup s g).pc w) (s.cluster g.cl)
  refine ⟨ic, ?_⟩
  show (s.setCluster g.cl _).cluster g.cl = _
  rw [State.cluster_setCluster_same]
  show ((fetchLines (issueGroup s g).pc w).foldl (icTouch s.mem) (s.cluster g.cl)).setGroup _ _ (issueGroup s g) = _
  rw [h]

@[simp] theorem fetched_group (s : State) (g : Grp) (w : Nat) : (fetched s g w).group g = issueGroup s g := by
  obtain ⟨ic, h⟩ := fetched_cluster s g w
  simp [State.group, h]

theorem fetched_eq (s : State) (g : Grp) (w : Nat) :
    ∃ ic, fetched s g w = { s with
      cl := NMap.set {} s.cl g.cl ({
        s.cluster g.cl with icache := ic, groups := NMap.set {} (s.cluster g.cl).groups (gKey g.core g.slot) (issueGroup s g) }) } := by
  obtain ⟨ic, h⟩ := icTouches_eq s.mem (fetchLines (issueGroup s g).pc w) (s.cluster g.cl)
  refine ⟨ic, ?_⟩
  show s.setCluster g.cl (((fetchLines (issueGroup s g).pc w).foldl (icTouch s.mem) (s.cluster g.cl)).setGroup g.core g.slot (issueGroup s g)) = _
  rw [h]; rfl

@[simp] theorem fetched_block (s : State) (g : Grp) (w b : Nat) : ((fetched s g w).cluster g.cl).block b = (s.cluster g.cl).block b := by
  obtain ⟨ic, h⟩ := fetched_cluster s g w
  rw [h]; rfl

@[simp] theorem fetched_parts (s : State) (g : Grp) (w : Nat) : (fetched s g w).parts = s.parts := rfl

/-- The observation counters are all that counting changes. -/
theorem observe_eq (s : State) (o : Occ) : ∃ b, s.observe o = { s with mem := { s.mem with obs := b } } := by
  unfold State.observe MemSys.observe
  split
  · exact ⟨s.mem.obs, rfl⟩
  · exact ⟨_, rfl⟩

/-- Counting extra bank cycles changes the observation counters and nothing else. -/
theorem countScratch_eq (s : State) (cl part : Nat) (l : List Nat) :
    ∃ b, countScratch s cl part l = { s with mem := { s.mem with obs := b } } := by
  unfold countScratch
  split
  · exact ⟨s.mem.obs, rfl⟩
  · exact observe_eq s _

theorem acting_eq (s : State) (p : Option Nat) : ∃ b, s.acting p = { s with mem := { s.mem with obs := b } } := by
  unfold State.acting
  split
  · exact ⟨s.mem.obs, rfl⟩
  · exact ⟨_, rfl⟩

/-- The state an instruction's effect starts from, written out. -/
theorem issueState_eq (s : State) (g : Grp) (u : Uses) :
    ∃ ic o, issueState s g u = { s with
      cl := NMap.set {} s.cl g.cl ({
        s.cluster g.cl with icache := ic, groups := NMap.set {} (s.cluster g.cl).groups (gKey g.core g.slot) (issueGroup s g) })
      mem := { s.mem with obs := o } } := by
  obtain ⟨ic, h⟩ := fetched_eq s g u.words
  obtain ⟨b, h2⟩ := acting_eq (fetched s g u.words) (some (issueBlock s g).part)
  obtain ⟨o, h3⟩ := observe_eq ((fetched s g u.words).acting (some (issueBlock s g).part))
    { ev := if u.vector then 0x01 else 0x02, part := some (issueBlock s g).part, kind := 4, src := g.cl }
  exact ⟨ic, o, by rw [issueState, h3, h2, h]⟩

@[simp] theorem issueState_cluster (s : State) (g : Grp) (u : Uses) (c : Nat) :
    (issueState s g u).cluster c = (fetched s g u.words).cluster c := by
  simp [issueState]

@[simp] theorem issueState_group (s : State) (g : Grp) (u : Uses) : (issueState s g u).group g = issueGroup s g := by
  rw [State.group, issueState_cluster]; exact fetched_group s g u.words

@[simp] theorem issueState_part (s : State) (g : Grp) (u : Uses) (p : Nat) : (issueState s g u).part p = s.part p := by
  simp [issueState]; rfl

/-- The cluster an instruction's effect starts from. -/
theorem issueState_own (s : State) (g : Grp) (u : Uses) :
    ∃ ic, (issueState s g u).cluster g.cl = ({ s.cluster g.cl with icache := ic } : Cluster).setGroup g.core g.slot (issueGroup s g) := by
  rw [issueState_cluster]; exact fetched_cluster s g u.words

/-- An effect that leaves one cluster and the counters changed. -/
theorem issueState_setCluster (s : State) (g : Grp) (u : Uses) (x : Cluster) :
    ∃ o, (issueState s g u).setCluster g.cl x = { s with cl := NMap.set {} s.cl g.cl x, mem := { s.mem with obs := o } } := by
  obtain ⟨ic, o, h⟩ := issueState_eq s g u
  exact ⟨o, by rw [h, State.setCluster]; simp⟩

/-- An effect on its own cluster that keeps scratch, other groups and everything but registers, groups and the
instruction cache. -/
theorem coreFrame_own (s : State) (g : Grp) (u : Uses) (v : NMap Word) (vb : List Nat) (x : Group)
    (hb : ∀ k ∈ vb, k ∈ (s.cluster g.cl).vrfBad) :
    CoreFrame s ((issueState s g u).setCluster g.cl
      (({ (issueState s g u).cluster g.cl with vrf := v, vrfBad := vb } : Cluster).setGroup g.core g.slot x)) g := by
  obtain ⟨o, h⟩ := issueState_setCluster s g u
    (({ (issueState s g u).cluster g.cl with vrf := v, vrfBad := vb } : Cluster).setGroup g.core g.slot x)
  obtain ⟨ic, hc⟩ := issueState_own s g u
  refine ⟨⟨_, o, h⟩, ⟨fun a => by rw [h], by rw [h], by rw [h], ?_⟩, ?_, ?_⟩
  · intro k a
    by_cases hk : k = g.cl
    · subst hk; rw [State.cluster_setCluster_same, hc]; rfl
    · rw [State.cluster_setCluster_other _ _ hk, issueState_cluster, fetched_cluster_other _ _ hk]
  · intro i j hij
    rw [State.cluster_setCluster_same, hc]
    have h1 : ∀ (c : Cluster) (y : Group), (c.setGroup g.core g.slot y).group i j = c.group i j := fun c y => by
      rw [Cluster.group_setGroup]; simp [hij]
    have h2 : ∀ (c : Cluster) (y : Group), ({ c.setGroup g.core g.slot y with vrf := v, vrfBad := vb } : Cluster).group i j = c.group i j :=
      fun c y => h1 c y
    rw [h1, h2]; rfl
  · rw [State.cluster_setCluster_same, hc]
    exact ⟨_, _, _, _, rfl, hb⟩

theorem parityLanes_zero (s : State) (g : Grp) (gr : Group) (lanes : BitVec 8) (vs : List Nat)
    (h : ∀ i < 8, lanes.getLsbD i = true → ∀ r ∈ vs, vIndex g gr r i ∉ (s.cluster g.cl).vrfBad) :
    parityLanes s g gr lanes vs = 0 := by
  unfold parityLanes
  simp only
  split
  · rfl
  · have key : ∀ i < 8, b2n (lanes.getLsbD i && vs.any fun r => (s.cluster g.cl).vrfBad.contains (vIndex g gr r i)) = 0 := by
      intro i hi
      by_cases hl : lanes.getLsbD i = true
      · have : (vs.any fun r => (s.cluster g.cl).vrfBad.contains (vIndex g gr r i)) = false := by
          rw [List.any_eq_false]; intro r hr; simpa using h i hi hl r hr
        rw [this]; simp [b2n]
      · simp [hl, b2n]
    have : (List.range 8).map (fun i =>
        (b2n (lanes.getLsbD i && vs.any fun r => (s.cluster g.cl).vrfBad.contains (vIndex g gr r i)), i, 1)) =
        (List.range 8).map (fun i => (0, i, 1)) := by
      apply List.map_congr_left
      intro i hi
      rw [key i (List.mem_range.mp hi)]
    rw [this]; decide

theorem fetched_vrfBad (s : State) (g : Grp) (w : Nat) : ((fetched s g w).cluster g.cl).vrfBad = (s.cluster g.cl).vrfBad := by
  obtain ⟨ic, h⟩ := fetched_cluster s g w
  rw [h]; rfl

/-- An issued instruction comes to what its own effect says. -/
theorem coreStep_issues {s : State} {g : Grp} {u : Uses} {body : State → Group → Block → BitVec 8 → Eff} (h : Issues s g u) :
    coreStep s g u body =
      match body (issueState s g u) (issueGroup s g) (issueBlock s g) (issueLanes s g u.pg) with
      | .done s2 npc => advance s2 g u.words npc
      | .flt cls ls a => groupFault (issueState s g u) g cls ls a
      | .late s2 cls ls a => groupFault s2 g cls ls a
      | .hold => s
      | .held s2 => s2 := by
  have hv : u.vr.any (pendingV s g) = false := by
    rw [List.any_eq_false]; intro r hr; simp [h.vready r hr]
  have hs : u.sr.any (pendingS s g) = false := by
    rw [List.any_eq_false]; intro r hr; simp [h.sready r hr]
  have hn : (u.vector && halfHeld s g.cl) = false := by
    cases hu : u.vector with
    | false => rfl
    | true => simp [h.runs hu]
  have hb : (s.cluster g.cl).block (issueGroup s g).bslot = issueBlock s g := rfl
  have hr : u.vr.any (fun r => decide ((issueBlock s g).vregs ≤ r)) = false := by
    rw [List.any_eq_false]; intro r hr; have := h.inRange r hr; simp; omega
  have hp : parityLanes (fetched s g u.words) g (issueGroup s g) (execLanes (issueGroup s g) u.pg) u.vsrc = 0 := by
    apply parityLanes_zero
    intro i hi hl r hr
    rw [fetched_vrfBad]
    exact h.parity i hi hl r hr
  have hq : parityScalar (issueGroup s g) u (execLanes (issueGroup s g) u.pg) = false := h.scalarParity
  unfold coreStep
  rw [show (s.group g).pop = issueGroup s g from rfl]
  simp only [hb, h.can, hn, hv, hs, h.code, h.legal, hr, hp, hq, Bool.or_false, Bool.not_true, Bool.false_eq_true, if_false,
    bne_self_eq_false, Bool.false_and]
  rfl

end Sys2Proof.Machine
end

