-- ==== Sys2Proof/Laws/Command.lean ====
section
/-! SUPPORT. What the shared start and end of a host command do, once and for all: which command a row starts, what a start and a
completion change, and what a command that nothing holds back comes to. -/

namespace Sys2Proof.Machine

theorem ite_next {α : Type} (p : Prop) [Decidable p] {a b : Host.Outcome α Fault Refusal} (ha : ∃ t, a = .next t) (hb : ∃ t, b = .next t) :
    ∃ t, (if p then a else b) = .next t := by
  by_cases h : p <;> simp [h, ha, hb]

/-- A command row always answers a next state. -/
theorem runCmd_next (s : State) (f q : Nat) (d : CmdDef) (ready : State → Nat → Cmd → Bool) (refuse : State → Nat → Cmd → List Nat)
    (act : State → CmdRef → Nat → Cmd → State) : ∃ t, runCmd s f q d ready refuse act = .next t := by
  have h (o : Option Cmd) (k : Cmd → Host.Outcome State Fault Refusal) (hk : ∀ c, ∃ t, k c = .next t) :
      ∃ t : State, (match o with | none => (.next s : Host.Outcome State Fault Refusal) | some c => k c) = .next t := by
    cases o with
    | none => exact ⟨_, rfl⟩
    | some c => exact hk c
  exact h _ _ fun c => ite_next _ ⟨_, rfl⟩ (ite_next _ ⟨_, rfl⟩ (ite_next _ ⟨_, rfl⟩ (ite_next _ ⟨_, rfl⟩ (ite_next _ ⟨_, rfl⟩
    (ite_next _ ⟨_, rfl⟩ ⟨_, rfl⟩)))))

/-- The only command of a queue is the one that starts (R347). -/
theorem nextCmd_only {x : Queue} {c : Cmd} {sel : Nat → Bool} (h : x.cmds = [c]) (hs : c.started = false) (ho : sel c.opcode = true) :
    nextCmd x sel = some c := by
  unfold nextCmd
  by_cases he : expeditedOp c.opcode <;> simp [h, hs, ho, he]

/-- A command that is not journaled leaves the journal alone when it starts (R403). -/
theorem journalStart_none {s : State} {r : CmdRef} (h : ∀ e ∈ s.rope.journal, e.cmd ≠ r) : journalStart s r = s := by
  have : s.rope.journal.find? (fun e => e.cmd = r) = none := by
    rw [List.find?_eq_none]
    intro e he
    simpa using h e he
  simp [journalStart, this]

/-- What starting a command that is not journaled changes: its mark in its queue, and what is counted and traced. -/
theorem beginCmd_eq (s : State) (r : CmdRef) (c : Cmd) (p : Nat) (h : ∀ e ∈ s.rope.journal, e.cmd ≠ r) :
    ∃ b, beginCmd s r c p = { markStarted s r with mem := { s.mem with obs := b } } := by
  obtain ⟨b, hb⟩ := observe_eq (markStarted s r) { ev := 0x50, part := partOpt p, payload := packFields [
    (c.opcode, 0, 8), (c.field 4 4, 8, 32), (r.q + 16 * r.f, 40, 16)] }
  exact ⟨b, (congrArg (journalStart · r) hb).trans (journalStart_none h)⟩

/-- What completing a command changes: its queue, and the configuration turn if it holds it. -/
theorem completeCmd_eq (s : State) (r : CmdRef) (status detail : Nat) (lo hi : BitVec 64) :
    ∃ x, completeCmd s r status detail lo hi = { s.setQueue r.f r.q x with cfgBusy := if s.cfgBusy = some r then none else s.cfgBusy } ∨
      completeCmd s r status detail lo hi = s := by
  have h (a : State) (y : Queue) : ∃ x, (if (a.setQueue r.f r.q y).cfgBusy = some r then
      { a.setQueue r.f r.q y with cfgBusy := none } else a.setQueue r.f r.q y) =
      { a.setQueue r.f r.q x with cfgBusy := if a.cfgBusy = some r then none else a.cfgBusy } := by
    refine ⟨y, ?_⟩
    by_cases hb : a.cfgBusy = some r <;> simp [State.setQueue, hb]
  unfold completeCmd
  simp only
  split
  · exact ⟨{}, .inr rfl⟩
  · obtain ⟨x, hx⟩ := h s _
    exact ⟨x, .inl hx⟩

/-- The reply of a queue's only command, with the queue OPEN: it stands behind the earlier ones, and nothing else waits (R346). -/
theorem completeCmd_only {s : State} {r : CmdRef} {c : Cmd} (status detail : Nat) (lo hi : BitVec 64)
    (ho : (s.queue r.f r.q).state = 1) (hc : (s.queue r.f r.q).cmds = [c]) (hq : c.seq = r.seq) :
    let t := completeCmd s r status detail lo hi
    (t.queue r.f r.q).cmds = [] ∧ (t.queue r.f r.q).replies = (s.queue r.f r.q).replies ++
      [{ status := status, opcode := BitVec.ofNat 8 c.opcode, detail := detail, tag := BitVec.ofNat 32 (c.field 4 4)
         lo := lo, hi := hi, irq := c.irq, seq := r.seq, part := c.part r.f }] := by
  have e (p : Prop) [Decidable p] (a : State) : (if p then { a with cfgBusy := none } else a : State).queue r.f r.q = a.queue r.f r.q := by
    by_cases h : p <;> simp only [h, if_true, if_false] <;> rfl
  simp only [completeCmd, hc, List.find?_cons, hq, decide_true, e]
  simp [Queue.settle, Queue.replying, ho, hq]

/-- A command that nothing holds back comes to its lowest refusal, or to what its row does (R346-R348, R352). -/
theorem runCmd_starts {s : State} {f q : Nat} {d : CmdDef} {ready : State → Nat → Cmd → Bool} {refuse : State → Nat → Cmd → List Nat}
    {act : State → CmdRef → Nat → Cmd → State} {c : Cmd} (hu : s.up = true) (hc : (s.queue f q).cmds = [c]) (hs : c.started = false)
    (ho : d.sel c.opcode = true) (hp : c.prevFailed = false ∧ c.prev ≠ some c.seq) (ht : configWaits s c = false)
    (he : c.partN f < 64 → s.eventOpen (c.partN f) = false) (hr : ready s (c.partN f) c = true)
    (hg : generalRefusals f c d = []) (hn : refuse s (c.partN f) c = [])
    (ha : c.partN f < 64 → (s.part (c.partN f)).st ≠ .absent) :
    runCmd s f q d ready refuse act =
      .next (act (let b := beginCmd s ⟨f, q, c.seq⟩ c (c.partN f)
                  let b := if bitOf (c.field 3 1) 6 && decide (c.partN f < 64) then setPhase b (c.partN f) (some (BitVec.ofNat 6 (c.field 3 1))) else b
                  if d.config then { b with cfgBusy := some ⟨f, q, c.seq⟩ } else b) ⟨f, q, c.seq⟩ (c.partN f) c) := by
  have hnext : nextCmd (s.queue f q) d.sel = some c := nextCmd_only hc hs ho
  have hear : (s.queue f q).earlier c.seq = false := by simp [Queue.earlier, hc]
  have hprev : (s.queue f q).cmds.any (fun y => c.prev = some y.seq) = false := by simp [hc, hp.2]
  have hev : (decide (c.partN f < 64) && s.eventOpen (c.partN f)) = false := by
    by_cases h : c.partN f < 64 <;> simp [h, he]
  have hab : (decide (c.partN f < 64) && !d.absentOk && (f ≠ 0 || d.needPart) && (s.part (c.partN f)).st = .absent : Bool) = false := by
    by_cases h : c.partN f < 64
    · simp [ha h]
    · simp [h]
  unfold runCmd
  simp only [hu, if_true, hnext, hear, hprev, hev, hp.1, ht, hr, hg, hn, hab, Bool.and_false, Bool.or_false, Bool.false_eq_true,
    if_false, Bool.not_true, List.isEmpty_nil, List.append_nil, Bool.false_and, ite_self]

end Sys2Proof.Machine
end

