-- ==== Sys2Proof/Laws/Vec.lean ====
section
/-! SUPPORT. Vector register writes and predicate writes: what they leave in each register, lane and bit. -/

namespace Sys2Proof.Machine

theorem setVWide_eq (c : Cluster) (g : Grp) (gr : Group) (r i x n : Nat) :
    ∃ v vb, c.setVWide g gr r i x n = { c with vrf := v, vrfBad := vb } ∧ ∀ k ∈ vb, k ∈ c.vrfBad := by
  induction n generalizing c r x with
  | zero => exact ⟨c.vrf, c.vrfBad, rfl, fun _ h => h⟩
  | succ n ih =>
    obtain ⟨v, vb, hv, hb⟩ := ih (c.setV g gr r i (BitVec.ofNat 32 x)) (r + 1) (x / 2 ^ 32)
    exact ⟨v, vb, by rw [Cluster.setVWide, hv]; rfl, fun k hk => (List.mem_filter.mp (hb k hk)).1⟩

theorem get_setV (c : Cluster) (g : Grp) (gr : Group) (r i : Nat) (x : Word) (k : Nat) :
    NMap.get 0 (c.setV g gr r i x).vrf k = if k = vIndex g gr r i then x else NMap.get 0 c.vrf k := NMap.get_set _ _ _ _ _

/-- A word of the register file outside the registers written keeps its value. -/
theorem get_setVWide_other (c : Cluster) (g : Grp) (gr : Group) (r i x n k : Nat)
    (h : ∀ j < n, k ≠ vIndex g gr (r + j) i) : NMap.get 0 (c.setVWide g gr r i x n).vrf k = NMap.get 0 c.vrf k := by
  induction n generalizing c r x with
  | zero => rfl
  | succ n ih =>
    rw [Cluster.setVWide, ih _ _ _ (fun j hj => by have := h (j + 1) (by omega); rwa [Nat.add_assoc, Nat.add_comm 1 j]),
      get_setV]
    have := h 0 (by omega)
    rw [Nat.add_zero] at this
    simp [this]

theorem vIndex_inj {g : Grp} {gr : Group} {r r' i i' : Nat} (hi : i < 8) (hi' : i' < 8)
    (h : vIndex g gr r i = vIndex g gr r' i') : r = r' ∧ i = i' := by
  unfold vIndex at h; omega

theorem v_congr {c c' : Cluster} {g : Grp} {gr : Group} {r i : Nat}
    (h : NMap.get 0 c.vrf (vIndex g gr r i) = NMap.get 0 c'.vrf (vIndex g gr r i)) : c.v g gr r i = c'.v g gr r i := h

theorem vWide_congr {c c' : Cluster} {g : Grp} {gr : Group} {r i n : Nat}
    (h : ∀ j < n, NMap.get 0 c.vrf (vIndex g gr (r + j) i) = NMap.get 0 c'.vrf (vIndex g gr (r + j) i)) :
    c.vWide g gr r i n = c'.vWide g gr r i n := by
  induction n generalizing r with
  | zero => rfl
  | succ n ih =>
    rw [Cluster.vWide, Cluster.vWide, ih (r := r + 1) (fun j hj => by
      have := h (j + 1) (by omega); rwa [Nat.add_assoc, Nat.add_comm 1 j])]
    have h0 : c.v g gr r i = c'.v g gr r i := v_congr (h 0 (by omega))
    rw [h0]

theorem v_vbase (c : Cluster) (g : Grp) {gr gr' : Group} (h : gr.vbase = gr'.vbase) (r i : Nat) :
    c.v g gr r i = c.v g gr' r i := by simp [Cluster.v, vIndex, h]

theorem vWide_vbase (c : Cluster) (g : Grp) {gr gr' : Group} (h : gr.vbase = gr'.vbase) (r i n : Nat) :
    c.vWide g gr r i n = c.vWide g gr' r i n := by
  induction n generalizing r with
  | zero => rfl
  | succ n ih => rw [Cluster.vWide, Cluster.vWide, ih, v_vbase c g h]

theorem vWide_same {c c' : Cluster} {g : Grp} {gr gr' : Group} (hb : gr.vbase = gr'.vbase) (hv : c.vrf = c'.vrf) (r i n : Nat) :
    c.vWide g gr r i n = c'.vWide g gr' r i n := by
  rw [vWide_vbase c g hb]; exact vWide_congr fun j _ => by rw [hv]

/-- Registers just written hold the low bits of the value. -/
theorem vWide_setVWide (c : Cluster) (g : Grp) (gr : Group) (r i x n : Nat) (hi : i < 8) :
    (c.setVWide g gr r i x n).vWide g gr r i n = x % 2 ^ (32 * n) := by
  induction n generalizing c r x with
  | zero => simp [Cluster.vWide, Nat.mod_one]
  | succ n ih =>
    rw [Cluster.setVWide, Cluster.vWide, ih]
    have h0 : (Cluster.setVWide (c.setV g gr r i (BitVec.ofNat 32 x)) g gr (r + 1) i (x / 2 ^ 32) n).v g gr r i =
        BitVec.ofNat 32 x := by
      unfold Cluster.v
      rw [get_setVWide_other _ _ _ _ _ _ _ _ (fun j _ h => by have := (vIndex_inj hi hi h).1; omega), get_setV]
      simp
    rw [h0]
    have e : 32 * (n + 1) = 32 + 32 * n := by omega
    rw [BitVec.toNat_ofNat, e, Nat.pow_add, Nat.mod_mul]

/-- Lanes written one after another: words of no lane's registers keep their values. -/
theorem get_foldLanes_other (g : Grp) (gr : Group) (vd n : Nat) (f : Nat → Nat) (ls : List Nat) (c : Cluster) (k : Nat)
    (h : ∀ i ∈ ls, ∀ j < n, k ≠ vIndex g gr (vd + j) i) :
    NMap.get 0 (ls.foldl (fun c i => c.setVWide g gr vd i (f i) n) c).vrf k = NMap.get 0 c.vrf k := by
  induction ls generalizing c with
  | nil => rfl
  | cons a ls ih =>
    rw [List.foldl_cons, ih _ (fun i hi => h i (by simp [hi]))]
    exact get_setVWide_other _ _ _ _ _ _ _ _ (h a (by simp))

theorem foldLanes_eq (g : Grp) (gr : Group) (vd n : Nat) (f : Nat → Nat) (ls : List Nat) (c : Cluster) :
    ∃ v vb, ls.foldl (fun c i => c.setVWide g gr vd i (f i) n) c = { c with vrf := v, vrfBad := vb } ∧ ∀ k ∈ vb, k ∈ c.vrfBad := by
  induction ls generalizing c with
  | nil => exact ⟨c.vrf, c.vrfBad, rfl, fun _ h => h⟩
  | cons a ls ih =>
    obtain ⟨v, vb, hv, hb⟩ := setVWide_eq c g gr vd a (f a) n
    obtain ⟨w, wb, hw, hwb⟩ := ih (c.setVWide g gr vd a (f a) n)
    refine ⟨w, wb, by rw [List.foldl_cons, hw, hv], fun k hk => hb k ?_⟩
    have h := hwb k hk
    rw [hv] at h
    exact h

/-- Lanes written one after another: each written lane holds its own value. -/
theorem vWide_foldLanes (g : Grp) (gr : Group) (vd n : Nat) (f : Nat → Nat) (ls : List Nat) (hl : ∀ i ∈ ls, i < 8)
    (hd : ls.Nodup) (c : Cluster) (i : Nat) (hi : i ∈ ls) :
    (ls.foldl (fun c i => c.setVWide g gr vd i (f i) n) c).vWide g gr vd i n = f i % 2 ^ (32 * n) := by
  induction ls generalizing c with
  | nil => simp at hi
  | cons a ls ih =>
    rw [List.foldl_cons]
    have ha : a < 8 := hl a (by simp)
    have hls : ∀ i ∈ ls, i < 8 := fun i hi => hl i (by simp [hi])
    rcases List.mem_cons.mp hi with rfl | hi'
    · have hn : i ∉ ls := (List.nodup_cons.mp hd).1
      rw [← vWide_setVWide c g gr vd i (f i) n ha]
      apply vWide_congr
      intro j hj
      apply get_foldLanes_other
      intro a' ha' j' _ h
      exact hn (by rw [(vIndex_inj ha (hls a' ha') h).2]; exact ha')
    · exact ih hls (List.nodup_cons.mp hd).2 _ hi'

theorem mem_lanesOf {m : BitVec 8} {i : Nat} : i ∈ lanesOf m ↔ i < 8 ∧ m.getLsbD i = true := by
  simp [lanesOf]

theorem lanesOf_nodup (m : BitVec 8) : (lanesOf m).Nodup := by
  unfold lanesOf
  decide +revert

theorem foldFlags_or (f : Nat → Nat × BitVec 5) (ls : List Nat) (a b : BitVec 5) :
    a ||| ls.foldl (fun x i => x ||| (f i).2) b = ls.foldl (fun x i => x ||| (f i).2) (a ||| b) := by
  induction ls generalizing a b with
  | nil => rfl
  | cons i ls ih => rw [List.foldl_cons, List.foldl_cons, ih, BitVec.or_assoc]

/-- Writing vector registers lane by lane and moving on, as one write of the cluster. -/
theorem laneWrite_nf (s : State) (g : Grp) (gr : Group) (vd n w : Nat) (lanes : BitVec 8) (f : Nat → Nat × BitVec 5)
    (hg : s.group g = gr) :
    ∃ v vb, advance (laneWrite s g gr vd n lanes f) g w none = s.setCluster g.cl
        (({ s.cluster g.cl with vrf := v, vrfBad := vb } : Cluster).setGroup g.core g.slot { gr with
          pc := gr.pc + BitVec.ofNat 48 (4 * w), flags := (lanesOf lanes).foldl (fun x i => x ||| (f i).2) gr.flags }) ∧
      (lanesOf lanes).foldl (fun c i => c.setVWide g gr vd i (f i).1 n) (s.cluster g.cl) = { s.cluster g.cl with vrf := v, vrfBad := vb } ∧
      ∀ k ∈ vb, k ∈ (s.cluster g.cl).vrfBad := by
  obtain ⟨v, vb, hv, hb⟩ := foldLanes_eq g gr vd n (fun i => (f i).1) (lanesOf lanes) (s.cluster g.cl)
  refine ⟨v, vb, ?_, hv, hb⟩
  have h2 : (s.setCluster g.cl { s.cluster g.cl with vrf := v, vrfBad := vb }).group g = gr := by
    simp only [State.group, State.cluster_setCluster_same] at hg ⊢; exact hg
  have h1 : laneWrite s g gr vd n lanes f = (s.setCluster g.cl { s.cluster g.cl with vrf := v, vrfBad := vb }).setGroup g
      { gr with flags := (lanesOf lanes).foldl (fun x i => x ||| (f i).2) gr.flags } := by
    unfold laneWrite raiseFlags
    simp only [hv, h2, foldFlags_or]
    simp
  rw [h1, advance]
  simp only [State.group_setGroup_same, State.setGroup_setGroup]
  simp [State.setGroup]

/-- What writing vector registers lane by lane and moving on comes to. -/
theorem laneWrite_advance (s : State) (g : Grp) (u : Uses) (vd n pg w : Nat) (f : Nat → Nat × BitVec 5) :
    VectorDone s (advance (laneWrite (issueState s g u) g (issueGroup s g) vd n (issueLanes s g pg) f) g w none) g vd n pg w f := by
  obtain ⟨ic, hown⟩ := issueState_own s g u
  obtain ⟨v, vb, hnf, hv, hb⟩ := laneWrite_nf (issueState s g u) g (issueGroup s g) vd n w (issueLanes s g pg) f (issueState_group s g u)
  have hvrf : ((issueState s g u).cluster g.cl).vrf = (s.cluster g.cl).vrf := by rw [hown]; rfl
  have hgrp : (advance (laneWrite (issueState s g u) g (issueGroup s g) vd n (issueLanes s g pg) f) g w none).group g =
      { issueGroup s g with
        pc := (issueGroup s g).pc + BitVec.ofNat 48 (4 * w)
        flags := (lanesOf (issueLanes s g pg)).foldl (fun x i => x ||| (f i).2) (issueGroup s g).flags } := by
    rw [hnf]; simp [State.group]
  refine ⟨?_, hgrp, ?_, ?_⟩
  · intro i hi hli
    have key := vWide_foldLanes g (issueGroup s g) vd n (fun i => (f i).1) (lanesOf (issueLanes s g pg))
      (fun i h => (mem_lanesOf.mp h).1) (lanesOf_nodup _) ((issueState s g u).cluster g.cl) i (mem_lanesOf.mpr ⟨hi, hli⟩)
    rw [hv] at key
    rw [State.vwide, hgrp, ← key, hnf, State.cluster_setCluster_same]
    refine vWide_same ?_ ?_ vd i n <;> rfl
  · intro k hk
    have key := get_foldLanes_other g (issueGroup s g) vd n (fun i => (f i).1) (lanesOf (issueLanes s g pg))
      ((issueState s g u).cluster g.cl) k (fun i hi j hj => hk i (mem_lanesOf.mp hi).1 (mem_lanesOf.mp hi).2 j hj)
    rw [hv, hvrf] at key
    rw [hnf, State.cluster_setCluster_same]
    exact key
  · rw [hnf]; exact coreFrame_own s g u v vb _ fun k hk => by have h := hb k hk; rw [hown] at h; exact h

/-- What an instruction that writes its group only, and moves on, comes to. -/
theorem groupWrite_advance (s : State) (g : Grp) (u : Uses) (x : Group) (w : Nat) (npc : Option (BitVec 48)) :
    GroupDone s (advance ((issueState s g u).setGroup g x) g w npc) g { x with
      pc := match npc with | some p => p | none => x.pc + BitVec.ofNat 48 (4 * w) } := by
  have hnf : advance ((issueState s g u).setGroup g x) g w npc = (issueState s g u).setCluster g.cl
      (({ (issueState s g u).cluster g.cl with
            vrf := ((issueState s g u).cluster g.cl).vrf, vrfBad := ((issueState s g u).cluster g.cl).vrfBad } : Cluster).setGroup g.core g.slot
        { x with pc := match npc with | some p => p | none => x.pc + BitVec.ofNat 48 (4 * w) }) := by
    unfold advance
    simp only [State.group_setGroup_same, State.setGroup_setGroup]
    rfl
  obtain ⟨ic, hown⟩ := issueState_own s g u
  rw [hnf]
  refine ⟨by simp [State.group], ?_, coreFrame_own s g u _ _ _ fun k hk => by rw [hown] at hk; exact hk⟩
  intro k
  rw [State.cluster_setCluster_same, hown]; rfl

/-- What an instruction with no effect but on the pc comes to. -/
theorem pc_advance (s : State) (g : Grp) (u : Uses) (w : Nat) (npc : Option (BitVec 48)) :
    GroupDone s (advance (issueState s g u) g w npc) g { issueGroup s g with
      pc := match npc with | some p => p | none => (issueGroup s g).pc + BitVec.ofNat 48 (4 * w) } := by
  have h : advance (issueState s g u) g w npc = advance ((issueState s g u).setGroup g (issueGroup s g)) g w npc := by
    unfold advance
    simp
  rw [h]; exact groupWrite_advance s g u (issueGroup s g) w npc

/-- A bit of a predicate register written in some lanes (R102). -/
theorem predWrite_bit (gr : Group) (pd : Nat) (lanes : BitVec 8) (f : Nat → Bool) (i : Nat) (hi : i < 8) :
    ((predWrite gr pd lanes f).p pd).getLsbD i = if lanes.getLsbD i then f i else (gr.p pd).getLsbD i := by
  have key : ∀ (ls : List Nat), (∀ j ∈ ls, j < 8) → ls.Nodup → ∀ p : BitVec 8,
      (ls.foldl (fun p i => if f i then p ||| (1#8 <<< i) else p &&& ~~~(1#8 <<< i)) p).getLsbD i =
        if i ∈ ls then f i else p.getLsbD i := by
    intro ls
    induction ls with
    | nil => intro _ _ p; simp
    | cons a ls ih =>
      intro hl hd p
      have ha : a < 8 := hl a (by simp)
      rw [List.foldl_cons, ih (fun j hj => hl j (by simp [hj])) (List.nodup_cons.mp hd).2]
      by_cases him : i ∈ ls
      · have : i ∈ a :: ls := by simp [him]
        simp [him]
      · by_cases hia : i = a
        · subst hia
          by_cases hf : f i = true <;> simp [him, hf, hi]
        · have hsub : a ≤ i → i - a = 0 → False := by omega
          by_cases hf : f a = true
          · simp only [him, hia, hf, hi, List.mem_cons, if_true, if_false, or_self, BitVec.getLsbD_or, BitVec.getLsbD_shiftLeft]
            simp; omega
          · simp [him, hia, hf, hi]; omega
  have hp : (predWrite gr pd lanes f).p pd = (gr.setP pd ((lanesOf lanes).foldl
      (fun p i => if f i then p ||| (1#8 <<< i) else p &&& ~~~(1#8 <<< i)) (gr.p pd))).p pd := by
    unfold predWrite; simp only; split <;> rfl
  rw [hp, Group.p_setP_same, key _ (fun j hj => (mem_lanesOf.mp hj).1) (lanesOf_nodup lanes)]
  by_cases hl : lanes.getLsbD i = true
  · have : i ∈ lanesOf lanes := mem_lanesOf.mpr ⟨hi, hl⟩
    simp [this, hl]
  · have : i ∉ lanesOf lanes := fun h => hl (mem_lanesOf.mp h).2
    simp [this, hl]

theorem predWrite_eq (gr : Group) (pd : Nat) (lanes : BitVec 8) (f : Nat → Bool) :
    ∃ x, predWrite gr pd lanes f = { gr.setP pd x with pBad := if lanes = 0xFF then gr.pBad.filter (· ≠ pd) else gr.pBad } := by
  refine ⟨(lanesOf lanes).foldl (fun p i => if f i then p ||| (1#8 <<< i) else p &&& ~~~(1#8 <<< i)) (gr.p pd), ?_⟩
  unfold predWrite
  simp only
  split <;> rfl

end Sys2Proof.Machine
end

