-- ==== Sys2Proof/WellFormed.lean ====
section
/-! DEFINITION. When a command is well formed: every unit, line or address it names by number exists (spec/00_scope.md R1,
spec/03 R58 and R61, spec/07 R191, spec/09 R244 and R260, spec/10 R268, spec/11 R306 and R319, spec/12 R335 and R340,
spec/13 R360 and R387, spec/16 R436 and R438, spec/17 R469, spec/20 R520). Fields of instruction words are BitVec and need
no check here; whether the part named is in the state the command asks for is the command's own meaning. -/

namespace Sys2Proof

/-- What a number in a command names. -/
inductive Operand where
  | cluster | core | groupSlot | blockSlot | partition | stream | descriptorSlot | site | port | slice | arbiter | line | address | sector
  | channel | bank | stack | function | queue | engine | link | bar | peekPort | domain | rail | leafSensor | tripDiode
  | droopSensor | marginChannel
  deriving DecidableEq, Repr

/-- Numbers of this kind lie below it. -/
def Operand.limit : Operand → Nat
  | .cluster => 75000
  | .core | .groupSlot | .blockSlot | .sector | .peekPort => 4
  | .partition | .descriptorSlot | .link => 64
  | .stream | .queue | .engine | .tripDiode => 16
  | .site => 131072
  | .port | .bar => 6
  | .slice | .channel => 256
  | .arbiter => 512
  | .line => 2 ^ 41
  | .address => 2 ^ 48
  | .bank => 128
  | .stack | .rail => 8
  | .function => 65
  | .domain => 10
  | .leafSensor => 468
  | .droopSensor => 4096
  | .marginChannel => 32

/-- A group's cluster, core and slot. -/
def grpIds (g : Grp) : List (Operand × Nat) := [(.cluster, g.cl), (.core, g.core), (.groupSlot, g.slot)]

/-- Every number a command names something by. -/
def Instr.names : Instr → List (Operand × Nat)
  | .vectorIntegerArithmetic g _ _ _ _ _ => grpIds g
  | .sel g _ _ _ _ => grpIds g
  | .shfl g _ _ _ _ => grpIds g
  | .vectorCompare g _ _ _ _ _ _ => grpIds g
  | .floatingPointMember g _ _ _ _ _ _ => grpIds g
  | .rcpRsqExp2Log2 g _ _ _ _ => grpIds g
  | .vcvt g _ _ _ _ => grpIds g
  | .vbcast g _ _ _ => grpIds g
  | .vlane g _ _ => grpIds g
  | .vmovi g _ _ _ => grpIds g
  | .predicateOperation g _ _ _ _ => grpIds g
  | .pset g _ _ => grpIds g
  | .pget g _ _ => grpIds g
  | .vtos g _ _ _ => grpIds g
  | .nop g => grpIds g
  | .jmp g _ => grpIds g
  | .br g _ _ _ => grpIds g
  | .brd g _ _ _ => grpIds g
  | .call g _ _ => grpIds g
  | .callr g _ _ => grpIds g
  | .ret g _ => grpIds g
  | .exit g _ => grpIds g
  | .bar g _ => grpIds g
  | .fence g _ _ => grpIds g
  | .ldg g _ _ _ _ _ => grpIds g
  | .stg g _ _ _ _ _ => grpIds g
  | .lds g _ _ _ _ _ => grpIds g
  | .sts g _ _ _ _ _ => grpIds g
  | .ldr g _ _ _ _ _ => grpIds g
  | .stc g _ _ _ _ _ => grpIds g
  | .atom g _ _ _ _ _ => grpIds g
  | .scalarArithmetic g _ => grpIds g
  | .sldg g _ _ _ => grpIds g
  | .sstg g _ _ _ => grpIds g
  | .slds g _ _ _ => grpIds g
  | .ssts g _ _ _ => grpIds g
  | .sread g _ _ => grpIds g
  | .swrite g _ _ => grpIds g
  | .mxaInit g _ _ => grpIds g
  | .mxaMma g _ _ _ _ => grpIds g
  | .mxaStore g _ _ => grpIds g
  | .mxaWait g _ => grpIds g
  | .tdCreate g _ _ => grpIds g
  | .tdLoad g _ _ _ => grpIds g
  | .tdStore g _ _ _ => grpIds g
  | .tdFree g _ => grpIds g
  | .tdWait g _ => grpIds g
  | .cbLoad g _ _ => grpIds g
  | .redPut g _ _ _ => grpIds g
  | .redAcc g _ => grpIds g
  | .redWait g _ => grpIds g
  | .blockAdmission cl => [(.cluster, cl)]
  | .scratchZeroingEnd cl bslot => [(.cluster, cl), (.blockSlot, bslot)]
  | .blockRelease cl bslot => [(.cluster, cl), (.blockSlot, bslot)]
  | .contextCompletion p _ => [(.partition, p)]
  | .faultEvent p => [(.partition, p)]
  | .arrayTakeInstruction cl => [(.cluster, cl)]
  | .chainBecomesCurrent cl => [(.cluster, cl)]
  | .multiplyPass cl => [(.cluster, cl)]
  | .deferredScan cl => [(.cluster, cl)]
  | .drainMove cl => [(.cluster, cl)]
  | .chainCheck cl => [(.cluster, cl)]
  | .storePath cl => [(.cluster, cl)]
  | .chainComplete cl => [(.cluster, cl)]
  | .fabricArrival cl stream => [(.cluster, cl), (.stream, stream)]
  | .rootAdd cl slot => [(.cluster, cl), (.descriptorSlot, slot)]
  | .rootOperationComplete cl slot => [(.cluster, cl), (.descriptorSlot, slot)]
  | .fixedLineSlot site _ => [(.site, site)]
  | .scheduleStart p _ => [(.partition, p)]
  | .arbitratedFlitArrival site port _ => [(.site, site), (.port, port)]
  | .packetAged site _ => [(.site, site)]
  | .spineFrameStart => []
  | .sliceAdmission arbiter _ _ => [(.arbiter, arbiter)]
  | .rd cl line _ => [(.cluster, cl), (.line, line)]
  | .own cl line carried => [(.cluster, cl), (.line, line)] ++ (carried.map fun p => (.sector, p.sec))
  | .evc cl line => [(.cluster, cl), (.line, line)]
  | .wb cl line => [(.cluster, cl), (.line, line)]
  | .inv cl line => [(.cluster, cl), (.line, line)]
  | .rcl cl line => [(.cluster, cl), (.line, line)]
  | .rcli cl line => [(.cluster, cl), (.line, line)]
  | .invalidationAcknowledgement line cl => [(.line, line), (.cluster, cl)]
  | .sliceAtomic addr _ => [(.address, addr)]
  | .uncachedRead addr _ => [(.address, addr)]
  | .uncachedWrite addr _ => [(.address, addr)]
  | .sliceScrub slice => [(.slice, slice)]
  | .dataLost slice => [(.slice, slice)]
  | .dramSectorRead addr => [(.address, addr)]
  | .dramSectorWrite addr _ _ => [(.address, addr)]
  | .correctedWriteback chan => [(.channel, chan)]
  | .channelScrub chan => [(.channel, chan)]
  | .temperatureReadout stack _ => [(.stack, stack)]
  | .perBankRefresh chan bank => [(.channel, chan), (.bank, bank)]
  | .nbuModeEnter chan p _ => [(.channel, chan), (.partition, p)]
  | .nbuModeExit chan p => [(.channel, chan), (.partition, p)]
  | .nbuDoorbell chan p _ _ => [(.channel, chan), (.partition, p)]
  | .nbuNop chan => [(.channel, chan)]
  | .gather chan => [(.channel, chan)]
  | .gatherSum chan => [(.channel, chan)]
  | .scatterAdd chan => [(.channel, chan)]
  | .select chan => [(.channel, chan)]
  | .topk chan => [(.channel, chan)]
  | .ewise chan => [(.channel, chan)]
  | .nbuFill chan => [(.channel, chan)]
  | .nearBankCommandComplete chan => [(.channel, chan)]
  | .bar0AccessUnsupported f _ _ _ => [(.function, f)]
  | .registerWrite f _ _ _ => [(.function, f)]
  | .capturingRead f _ _ => [(.function, f)]
  | .obsPeekDataRead f port _ _ => [(.function, f), (.peekPort, port)]
  | .bar4Read f _ _ => [(.function, f)]
  | .bar4Write f _ _ => [(.function, f)]
  | .bar4Atomicop f _ _ _ _ _ => [(.function, f)]
  | .poisonedWriteTlp f b => [(.function, f), (.bar, b)]
  | .functionLevelReset v => [(.function, v)]
  | .hotReset => []
  | .hostWindowCompletion _ _ => []
  | .completionTimeout _ => []
  | .queueOpen f q _ => [(.function, f), (.queue, q)]
  | .queueClose f q => [(.function, f), (.queue, q)]
  | .sqTail f q _ => [(.function, f), (.queue, q)]
  | .cqHead f q _ => [(.function, f), (.queue, q)]
  | .commandFetch _ => []
  | .statusReply f q => [(.function, f), (.queue, q)]
  | .nopCommand f q => [(.function, f), (.queue, q)]
  | .query f q => [(.function, f), (.queue, q)]
  | .timeSyncRead f q => [(.function, f), (.queue, q)]
  | .timeSyncStep f q => [(.function, f), (.queue, q)]
  | .timeSyncSlew f q => [(.function, f), (.queue, q)]
  | .launch f q => [(.function, f), (.queue, q)]
  | .codeWrite f q => [(.function, f), (.queue, q)]
  | .copy f q => [(.function, f), (.queue, q)]
  | .fill f q => [(.function, f), (.queue, q)]
  | .anchor f q => [(.function, f), (.queue, q)]
  | .unanchor f q => [(.function, f), (.queue, q)]
  | .freeze f q => [(.function, f), (.queue, q)]
  | .freezeDeadline p => [(.partition, p)]
  | .partReset f q => [(.function, f), (.queue, q)]
  | .schedLoad f q => [(.function, f), (.queue, q)]
  | .schedStart f q => [(.function, f), (.queue, q)]
  | .schedStop f q => [(.function, f), (.queue, q)]
  | .partCreate f q => [(.function, f), (.queue, q)]
  | .partDestroy f q => [(.function, f), (.queue, q)]
  | .partShares f q => [(.function, f), (.queue, q)]
  | .allocSet f q => [(.function, f), (.queue, q)]
  | .regionSet f q => [(.function, f), (.queue, q)]
  | .rawSet f q => [(.function, f), (.queue, q)]
  | .anchorWaysSet f q => [(.function, f), (.queue, q)]
  | .remap f q => [(.function, f), (.queue, q)]
  | .scrubSet f q => [(.function, f), (.queue, q)]
  | .stackMargin f q m => [(.function, f), (.queue, q)] ++ (m.map fun r => (.marginChannel, r.1))
  | .clockSet f q => [(.function, f), (.queue, q)]
  | .powerSet f q => [(.function, f), (.queue, q)]
  | .linkConfig f q => [(.function, f), (.queue, q)]
  | .linkTrain f q _ => [(.function, f), (.queue, q)]
  | .linkDown f q => [(.function, f), (.queue, q)]
  | .linkSweep f q _ _ => [(.function, f), (.queue, q)]
  | .keySet f q => [(.function, f), (.queue, q)]
  | .collective f q => [(.function, f), (.queue, q)]
  | .collectiveComplete engine => [(.engine, engine)]
  | .ropeForm f q => [(.function, f), (.queue, q)]
  | .ropeMirror f q _ => [(.function, f), (.queue, q)]
  | .ropeFailover f q => [(.function, f), (.queue, q)]
  | .ropeDissolve f q => [(.function, f), (.queue, q)]
  | .obsConfig f q => [(.function, f), (.queue, q)]
  | .clpRead f q => [(.function, f), (.queue, q)]
  | .data l _ => [(.link, l)]
  | .start l _ => [(.link, l)]
  | .ack l _ => [(.link, l)]
  | .cnp l _ => [(.link, l)]
  | .hello l _ => [(.link, l)]
  | .echo l _ => [(.link, l)]
  | .ackTimer l => [(.link, l)]
  | .retransmissionTimeout l _ => [(.link, l)]
  | .rateIncrease l => [(.link, l)]
  | .helloTimer l => [(.link, l)]
  | .echoTimer l => [(.link, l)]
  | .berEstimate l _ => [(.link, l)]
  | .lossOfPhyLock l => [(.link, l)]
  | .form r => [(.link, r.link)]
  | .page r => [(.link, r.link)]
  | .journal r => [(.link, r.link)]
  | .state r => [(.link, r.link)]
  | .endRecord r => [(.link, r.link)]
  | .ropeAck r => [(.link, r.link)]
  | .beat r => [(.link, r.link)]
  | .dissolve r => [(.link, r.link)]
  | .formTimer => []
  | .beatTimer l => [(.link, l)]
  | .cut => []
  | .epochApply => []
  | .ackOverdue => []
  | .ropeResend l => [(.link, l)]
  | .slewComplete d => [(.domain, d)]
  | .voltageCommand d _ _ => [(.domain, d)]
  | .fastStep _ _ => []
  | .timeBaseCorrection => []
  | .crossingTimeout _ => []
  | .shortDetected d => [(.domain, d)]
  | .retryWaitExpiry d => [(.domain, d)]
  | .inServiceShort d => [(.domain, d)]
  | .droopSample d readings _ => [(.domain, d)] ++ (readings.map fun r => (.droopSensor, r.1))
  | .bondWindow d _ _ => [(.domain, d)]
  | .telemetryPoll reads => reads.map fun r => (.rail, r.rail)
  | .pmbAlertN r _ _ => [(.rail, r)]
  | .railLoss r => [(.rail, r)]
  | .powerMeasurement _ => []
  | .sustainedUpdate _ => []
  | .holdLevelStep _ => []
  | .fastLimiterStep => []
  | .powerCeilingLower => []
  | .powerCeilingRaise => []
  | .regAlertN _ => []
  | .regAlertRelease => []
  | .thermalSample readings _ _ => readings.map fun r => (.leafSensor, r.1)
  | .thermalCeilingLower => []
  | .thermalCeilingRaise => []
  | .tripDiodeSample readings => readings.map fun r => (.tripDiode, r.1)
  | .tripRestart => []
  | .powerOn => []
  | .rstN _ _ => []
  | .coldStart => []
  | .coldStartStepComplete _ => []
  | .stepDeadline => []
  | .failedStartRetry => []
  | .exitBaseCamp => []
  | .baseCampExit => []
  | .pldmFirmwareUpdate _ _ => []
  | .activateFirmware _ _ => []
  | .mgtAliveTimeout => []
  | .pwrFailN _ => []
  | .powerFailRestart => []
  | .refclkLoss _ => []
  | .colophonCommit => []
  | .colophonEraseDone => []
  | .counterAggregation => []
  | .traceRecord => []
  | .tapInstruction .. => []
  | .illegalInstruction g _ _ => grpIds g
  | .liveBitsRead f _ _ => [(.function, f)]
  | .vddAuxLoss => []

/-- A command is well formed when everything it names exists. -/
def Instr.wf (i : Instr) : Bool := i.names.all fun x => decide (x.2 < x.1.limit)

/-- The first thing a command names that does not exist. -/
def Instr.ill (i : Instr) : Option (Operand × Nat) := i.names.find? fun x => !decide (x.2 < x.1.limit)

theorem Instr.wf_iff_ill (i : Instr) : i.wf = true ↔ i.ill = none := by
  simp [Instr.wf, Instr.ill]

end Sys2Proof
end

