-- ==== Sys2Proof/Tests/Slice0.lean ====
section
/-! SUPPORT. The model's own tests. First a witness for each statement: a state and operands that meet all the hypotheses of
each of its clauses together, so that no clause is empty. Then the checks of WellFormed, words of R95 decoded, and a few
single steps with the results the spec gives. -/

namespace Sys2Proof.Tests

open Sys2Proof Sys2Proof.Machine

set_option linter.unusedVariables false
set_option Elab.async false

/-! ### States the witnesses stand on -/

/-- A group of cluster 0. -/
def g0 : Grp := ⟨0, 0, 0⟩

/-- A started group, all lanes active, at 0x1000; pair 1 (s2, s3) holds 0x10000, pair 2 a code address. -/
def grp0 : Machine.Group := { live := true, active := 0xFF, pc := 0x1000, sregs := [(2, 0x10000), (4, 0x2000)] }

/-- Partition 0 running: code allocated at 0 to 0xFFFF, data at 0x10000 to 0x1FFFF and the start of the spine-only range and
the host window. -/
def part0 : Part := {
  st := .running, f0 := some ⟨0, 0, 0, 0⟩
  allocs := [(0, ⟨0, 16, 2⟩), (1, ⟨16, 16, 1⟩), (2, ⟨0x010000000, 16, 1⟩), (3, ⟨0x040000000, 16, 1⟩)] }

def block0 : Block := { used := true, groups := 1, vregs := 16, scrSize := 4096 }

/-- A device in service. -/
def up0 : State := { rst := { vddAux := true, mgtUp := true, pwrEn := true, ready := true } }

/-- A device in service whose partition 0 runs one block of one group on cluster 0, the group being `gr`. -/
def coreWith (gr : Machine.Group) : State := { up0 with cl := [(0, { groups := [(0, gr)], blocks := [(0, block0)] })], parts := [(0, part0)] }

def core0 : State := coreWith grp0

/-- What a group that is ready needs to issue an instruction with legal fields. -/
theorem issues {s : State} {g : Grp} {u : Uses} (hh : s.hostReads = []) (hb : (s.cluster g.cl).vrfBad = [])
    (hc : canIssue s g = true) (hf : fetchFault s (issueBlock s g).part (issueGroup s g).pc u.words = none)
    (hi : u.ill = false) (hr : ∀ r ∈ u.vr, r < (issueBlock s g).vregs) (hn : halfHeld s g.cl = false := by decide +kernel)
    (hp : parityScalar (issueGroup s g) u (issueLanes s g u.pg) = false := by decide +kernel) : Issues s g u where
  can := hc
  runs := fun _ => hn
  scalarParity := hp
  vready := fun _ _ => by simp [pendingV, hh]
  sready := fun _ _ => by simp [pendingS, hh]
  code := hf
  legal := hi
  inRange := hr
  parity := fun _ _ _ _ _ => by rw [hb]; exact List.not_mem_nil

/-- The same for the states built on `coreWith`. -/
theorem issuesC {gr : Machine.Group} {u : Uses} (hc : canIssue (coreWith gr) g0 = true)
    (hf : fetchFault (coreWith gr) (issueBlock (coreWith gr) g0).part (issueGroup (coreWith gr) g0).pc u.words = none)
    (hi : u.ill = false) (hr : ∀ r ∈ u.vr, r < (issueBlock (coreWith gr) g0).vregs)
    (hn : halfHeld (coreWith gr) g0.cl = false := by decide +kernel)
    (hp : parityScalar (issueGroup (coreWith gr) g0) u (issueLanes (coreWith gr) g0 u.pg) = false := by decide +kernel) :
    Issues (coreWith gr) g0 u :=
  issues rfl rfl hc hf hi hr hn hp

/-! ### Witnesses: core instructions -/

/-- Every clause of VectorIntegerResult has a state and operands that meet it. -/
theorem witness_VectorIntegerResult :
    ∃ (s : State) (g : Grp) (op : VIntOp) (vd va : BitVec 7) (b : BSrc) (pg : BitVec 3), Issues s g (vUses vd va b pg 1 (vIntUnary op) (vIntReadsD op) false) := by
  exact ⟨core0, g0, .iadd, 1, 2, .vec 3, 0, issuesC (by decide +kernel) (by decide +kernel) (by decide +kernel) (by decide +kernel)⟩

/-- Every clause of LaneMoves has a state and operands that meet it. -/
theorem witness_LaneMoves :
    (∃ (s : State) (g : Grp) (vd va : BitVec 7) (b : BSrc) (ps : BitVec 3), Issues s g { vUses vd va b 0 1 false false false with psrc := [ps.toNat] }) ∧
    (∃ (s : State) (g : Grp) (vd va : BitVec 7) (b : BSrc) (pg : BitVec 3), Issues s g { vUses vd va b pg 1 false false false with vsrc := bRegs b 1 } ∧ (∀ i < 8, vIndex g (issueGroup s g) va.toNat i ∉ (s.cluster g.cl).vrfBad)) ∧
    (∃ (s : State) (g : Grp) (vd : BitVec 7) (sb : BitVec 4) (pg : BitVec 3), Issues s g { vr := [vd.toNat], sr := [sb.toNat], pg := pg.toNat }) ∧
    (∃ (s : State) (g : Grp) (vd : BitVec 7) (pg : BitVec 3), Issues s g { vr := [vd.toNat], pg := pg.toNat }) ∧
    (∃ (s : State) (g : Grp) (vd : BitVec 7) (imm : BitVec 32) (pg : BitVec 3), Issues s g { vr := [vd.toNat], pg := pg.toNat, words := 2 }) := by
  refine ⟨?_, ?_, ?_, ?_, ?_⟩
  · exact ⟨core0, g0, 1, 2, .vec 3, 1, issuesC (by decide +kernel) (by decide +kernel) (by decide +kernel) (by decide +kernel)⟩
  · exact ⟨core0, g0, 1, 2, .vec 3, 0, issuesC (by decide +kernel) (by decide +kernel) (by decide +kernel) (by decide +kernel), by decide⟩
  · exact ⟨core0, g0, 1, 2, 0, issuesC (by decide +kernel) (by decide +kernel) (by decide +kernel) (by decide +kernel)⟩
  · exact ⟨core0, g0, 15, 0, issuesC (by decide +kernel) (by decide +kernel) (by decide +kernel) (by decide +kernel)⟩
  · exact ⟨core0, g0, 1, 0x80000000, 0, issuesC (by decide +kernel) (by decide +kernel) (by decide +kernel) (by decide +kernel)⟩

/-- Every clause of PredicateMembers has a state and operands that meet it. -/
theorem witness_PredicateMembers :
    (∃ (s : State) (g : Grp) (sg : Bool) (cc pd : BitVec 3) (va : BitVec 7) (b : BSrc) (pg : BitVec 3), cc.toNat < 6 ∧ Issues s g {
      vr := regRun va.toNat 1 ++ bRegs b 1, vsrc := regRun va.toNat 1 ++ bRegs b 1, sr := bSRegs b 1, pg := pg.toNat }) ∧
    (∃ (s : State) (g : Grp) (f : FFmt) (cc pd : BitVec 3) (va : BitVec 7) (b : BSrc) (pg : BitVec 3), Issues s g {
      vr := regRun va.toNat (ffmtRegs f) ++ bRegs b (ffmtRegs f), vsrc := regRun va.toNat (ffmtRegs f) ++ bRegs b (ffmtRegs f)
      sr := bSRegs b (ffmtRegs f), ill := misReg va.toNat (ffmtRegs f) || bMis b (ffmtRegs f), pg := pg.toNat }) ∧
    (∃ (s : State) (g : Grp) (op : PredOp) (pd pa pb : BitVec 3), Issues s g { psrc := [pa.toNat, pb.toNat] }) ∧
    (∃ (s : State) (g : Grp) (pd : BitVec 3) (sa : BitVec 4), Issues s g { sr := [sa.toNat] }) ∧
    (∃ (s : State) (g : Grp) (sd : BitVec 4) (pa : BitVec 3), Issues s g { sr := [sd.toNat], ssrc := [], psrc := [pa.toNat] }) ∧
    (∃ (s : State) (g : Grp) (sd : BitVec 4) (va : BitVec 7) (k : BitVec 3), Issues s g { vr := [va.toNat], sr := [sd.toNat], ssrc := [] } ∧ vIndex g (issueGroup s g) va.toNat k.toNat ∉ (s.cluster g.cl).vrfBad) := by
  refine ⟨?_, ?_, ?_, ?_, ?_, ?_⟩
  · exact ⟨core0, g0, true, 5, 1, 2, .vec 3, 0, by decide, issuesC (by decide +kernel) (by decide +kernel) (by decide +kernel) (by decide +kernel)⟩
  · exact ⟨core0, g0, .fp64, 6, 1, 2, .vec 4, 0, issuesC (by decide +kernel) (by decide +kernel) (by decide +kernel) (by decide +kernel)⟩
  · exact ⟨core0, g0, .pandn, 1, 2, 3, issuesC (by decide +kernel) (by decide +kernel) (by decide +kernel) (by decide +kernel)⟩
  · exact ⟨core0, g0, 7, 2, issuesC (by decide +kernel) (by decide +kernel) (by decide +kernel) (by decide +kernel)⟩
  · exact ⟨core0, g0, 15, 7, issuesC (by decide +kernel) (by decide +kernel) (by decide +kernel) (by decide +kernel)⟩
  · exact ⟨core0, g0, 15, 2, 7, issuesC (by decide +kernel) (by decide +kernel) (by decide +kernel) (by decide +kernel), by decide⟩

/-- Every clause of FloatMembers has a state and operands that meet it. -/
theorem witness_FloatMembers :
    (∃ (s : State) (g : Grp) (f : FFmt) (op : FOp) (vd va : BitVec 7) (b : BSrc) (pg : BitVec 3), Issues s g (vUses vd va b pg (ffmtRegs f) (fopUnary op) (fopReadsD op) (!fopExists f op))) ∧
    (∃ (s : State) (g : Grp) (op : EstOp) (vd va : BitVec 7) (pg : BitVec 3), Issues s g (vUses vd va (.vec 0) pg 1 true false false)) ∧
    (∀ cb : Bool, ∃ (s : State) (g : Grp) (vd va : BitVec 7) (pg : BitVec 3) (ext : BitVec 32), let x := cvtExt ext
    Issues s g {
      vr := regRun vd.toNat (cvtRegs x.dst) ++ regRun va.toNat (cvtRegs x.src), vsrc := regRun va.toNat (cvtRegs x.src)
      ill := cvtIllegal x || misReg vd.toNat (cvtRegs x.dst) || misReg va.toNat (cvtRegs x.src), pg := pg.toNat, words := 2 } ∧
    (isCodebook x.src || isCodebook x.dst) = cb ∧ (cb = true → cbLoading s g.cl x.slot = false ∧ cvtBad (s.cluster g.cl) x = false)) := by
  refine ⟨?_, ?_, ?_⟩
  · exact ⟨core0, g0, .fp64, .fma, 2, 4, .vec 6, 0, issuesC (by decide +kernel) (by decide +kernel) (by decide +kernel) (by decide +kernel)⟩
  · exact ⟨core0, g0, .log2, 1, 2, 0, issuesC (by decide +kernel) (by decide +kernel) (by decide +kernel) (by decide +kernel)⟩
  · intro cb
    cases cb
    · exact ⟨core0, g0, 1, 2, 0, 0x000001CF, issuesC (by decide +kernel) (by decide +kernel) (by decide +kernel) (by decide +kernel), by decide +kernel, by decide +kernel⟩
    · exact ⟨core0, g0, 1, 2, 0, 0x000001CB, issuesC (by decide +kernel) (by decide +kernel) (by decide +kernel) (by decide +kernel), by decide +kernel, by decide +kernel⟩

/-- Two groups of one block, the second at barrier `b` or running. -/
def pairAt (b : Option Nat) : State := { up0 with
  cl := [(0, { groups := [(0, grp0), (4, { grp0 with gidx := 1, barrier := b })], blocks := [(0, { block0 with groups := 2 })] })]
  parts := [(0, part0)] }

/-- Every clause of ControlTransfers has a state and operands that meet it. -/
theorem witness_ControlTransfers :
    (∃ (s : State) (g : Grp), Issues s g { vector := false }) ∧
    (∃ (s : State) (g : Grp) (off : BitVec 24), Issues s g { vector := false }) ∧
    (∃ (s : State) (g : Grp) (nz : Bool) (sc : BitVec 4) (off : BitVec 20), Issues s g { sr := [sc.toNat], vector := false }) ∧
    (∃ (s : State) (g : Grp) (lp : BitVec 3) (off : BitVec 21), Issues s g { sr := [2 * lp.toNat, 2 * lp.toNat + 1], ssrc := [], vector := false }) ∧
    (∃ (s : State) (g : Grp) (lp tp : BitVec 3), Issues s g (Claims.callrUses lp tp)) ∧
    (∃ (s : State) (g : Grp) (tp : BitVec 3), Issues s g { sr := [2 * tp.toNat, 2 * tp.toNat + 1], vector := false }) ∧
    (∃ (s : State) (g : Grp) (scope kind : BitVec 2), Issues s g { ill := kind == 0, vector := false } ∧ (∀ h ∈ s.hostReads, ∀ l vd n sg pc, h.kind ≠ .lane g l vd n sg pc) ∧ (∀ h ∈ s.hostReads, ∀ sd pc, h.kind ≠ .scalar g sd pc)) ∧
    ((∃ (s : State) (g : Grp) (tp : BitVec 3), Issues s g { sr := [2 * tp.toNat, 2 * tp.toNat + 1], vector := false } ∧ (issueGroup s g).pair tp.toNat % 4 ≠ 0)) := by
  refine ⟨?_, ?_, ?_, ?_, ?_, ?_, ?_, ?_⟩
  · exact ⟨core0, g0, issuesC (by decide +kernel) (by decide +kernel) (by decide +kernel) (by decide +kernel)⟩
  · exact ⟨core0, g0, 0x800000, issuesC (by decide +kernel) (by decide +kernel) (by decide +kernel) (by decide +kernel)⟩
  · exact ⟨core0, g0, true, 15, 0x7FFFF, issuesC (by decide +kernel) (by decide +kernel) (by decide +kernel) (by decide +kernel)⟩
  · exact ⟨core0, g0, 7, 0x0FFFFF, issuesC (by decide +kernel) (by decide +kernel) (by decide +kernel) (by decide +kernel)⟩
  · exact ⟨core0, g0, 7, 2, issuesC (by decide +kernel) (by decide +kernel) (by decide +kernel) (by decide +kernel)⟩
  · exact ⟨core0, g0, 2, issuesC (by decide +kernel) (by decide +kernel) (by decide +kernel) (by decide +kernel)⟩
  · exact ⟨core0, g0, 3, 3, issuesC (by decide +kernel) (by decide +kernel) (by decide +kernel) (by decide +kernel), fun _ h => absurd h List.not_mem_nil, fun _ h => absurd h List.not_mem_nil⟩
  · exact ⟨coreWith { grp0 with sregs := [(4, 0x2003)] }, g0, 2, issuesC (by decide +kernel) (by decide +kernel) (by decide +kernel) (by decide +kernel), by decide⟩

/-- Every clause of DivergentBranch has a state and operands that meet it. -/
theorem witness_DivergentBranch :
    (∃ (s : State) (g : Grp) (nz : Bool) (sc : BitVec 4) (off : BitVec 20), Issues s g { sr := [sc.toNat], vector := false }) ∧
    (∃ gr : Machine.Group, gr.pc ≠ gr.rpc) ∧
    (∃ (gr : Machine.Group) (e : RcEntry) (rest : List RcEntry), gr.stack = e :: rest ∧ gr.pc = gr.rpc) ∧
    (∃ (c c' : Cluster) (b gidx vregs entry args : Nat), placeGroup c b gidx vregs entry args = some c' ∧ entry < 2 ^ 48) ∧
    (∃ (s : State) (g : Grp) (lp tp : BitVec 3) (off : BitVec 21), Issues s g (Claims.callrUses lp tp) ∧ (issueGroup s g).pair tp.toNat % 4 = 0) ∧
    ((∀ k < 4, ∃ (s : State) (g : Grp) (p : BitVec 3) (j : BitVec 11), Issues s g { ill := j == 0, psrc := [p.toNat], vector := false } ∧
      let gr := issueGroup s g
      let take := gr.active &&& gr.p p.toNat
      let fall := gr.active &&& ~~~(gr.p p.toNat)
      let entries := 1 + (if gr.pc + BitVec.ofNat 48 (4 * j.toNat) = gr.rpc then 0 else 1) + gr.stack.length
      if k = 0 then take = 0 else if k = 1 then take ≠ 0 ∧ fall = 0 else
        take ≠ 0 ∧ fall ≠ 0 ∧ (if k = 2 then entries = 32 else entries = 33))) := by
  refine ⟨?_, ?_, ?_, ?_, ?_, ?_⟩
  · exact ⟨core0, g0, false, 0, 1, issuesC (by decide +kernel) (by decide +kernel) (by decide +kernel) (by decide +kernel)⟩
  · exact ⟨grp0, by decide⟩
  · exact ⟨{ grp0 with rpc := 0x1000, stack := [⟨0x1010, 0x0F, 0x1020⟩] }, _, _, rfl, rfl⟩
  · exact ⟨{}, _, 3, 15, 16, 0x10000, 0, rfl, by decide⟩
  · exact ⟨core0, g0, 0, 2, 1, issuesC (by decide +kernel) (by decide +kernel) (by decide +kernel) (by decide +kernel), by decide⟩
  · intro k hk
    match k, hk with
    | 0, _ => exact ⟨coreWith { grp0 with preds := [(1, 0)] }, g0, 1, 2, issuesC (by decide +kernel) (by decide +kernel) (by decide +kernel) (by decide +kernel), by decide⟩
    | 1, _ => exact ⟨core0, g0, 1, 2, issuesC (by decide +kernel) (by decide +kernel) (by decide +kernel) (by decide +kernel), by decide⟩
    | 2, _ => exact ⟨coreWith { grp0 with preds := [(1, 0x0F)], stack := List.replicate 30 ⟨0x3000, 0xFF, 0x4000⟩ }, g0, 1, 2, issuesC (by decide +kernel) (by decide +kernel) (by decide +kernel) (by decide +kernel), by decide⟩
    | 3, _ => exact ⟨coreWith { grp0 with preds := [(1, 0x0F)], stack := List.replicate 31 ⟨0x3000, 0xFF, 0x4000⟩ }, g0, 1, 2, issuesC (by decide +kernel) (by decide +kernel) (by decide +kernel) (by decide +kernel), by decide⟩

/-- Every clause of ExitAndBarrier has a state and operands that meet it. -/
theorem witness_ExitAndBarrier :
    ((∀ k < 3, ∃ (s : State) (g : Grp) (pg : BitVec 3), Issues s g { pg := pg.toNat, vector := false } ∧
      let gr := issueGroup s g
      let lanes := issueLanes s g pg.toNat
      let rest := (gr.stack.map fun e => { e with mask := e.mask &&& ~~~lanes }).dropWhile fun e => e.mask = 0
      if k = 0 then gr.active &&& ~~~lanes ≠ 0 else gr.active &&& ~~~lanes = 0 ∧ (if k = 1 then rest ≠ [] else rest = []))) ∧
    ((∃ (s : State) (g : Grp), Issues s g { vector := false } ∧ ∃ e ∈ (s.cluster g.cl).groups, e.1 ≠ gKey g.core g.slot ∧ e.2.live = true ∧
      e.2.bslot = (issueGroup s g).bslot ∧ e.2.ended = false ∧ e.2.barrier ≠ some 3)) ∧
    ((∃ (s : State) (g : Grp), Issues s g { vector := false } ∧ ∀ e ∈ (s.cluster g.cl).groups, e.1 ≠ gKey g.core g.slot → e.2.live = true →
      e.2.bslot = (issueGroup s g).bslot → e.2.ended = true ∨ e.2.barrier = some 3)) := by
  refine ⟨?_, ?_, ?_⟩
  · intro k hk
    match k, hk with
    | 0, _ => exact ⟨coreWith { grp0 with preds := [(1, 0x0F)] }, g0, 1, issuesC (by decide +kernel) (by decide +kernel) (by decide +kernel) (by decide +kernel), by decide⟩
    | 1, _ => exact ⟨coreWith { grp0 with active := 0x0F, stack := [⟨0x3000, 0x0F, 0x4000⟩, ⟨0x3100, 0xFF, 0x4000⟩] }, g0, 0, issuesC (by decide +kernel) (by decide +kernel) (by decide +kernel) (by decide +kernel), by decide⟩
    | 2, _ => exact ⟨core0, g0, 0, issuesC (by decide +kernel) (by decide +kernel) (by decide +kernel) (by decide +kernel), by decide⟩
  · exact ⟨pairAt none, g0, issues rfl rfl (by decide +kernel) (by decide +kernel) (by decide +kernel) (by decide +kernel), _, List.mem_cons_of_mem _ List.mem_cons_self, by decide, rfl, rfl, rfl, by decide⟩
  · exact ⟨pairAt (some 3), g0, issues rfl rfl (by decide +kernel) (by decide +kernel) (by decide +kernel) (by decide +kernel), by decide⟩

/-- Every clause of ScalarMembers has a state and operands that meet it. -/
theorem witness_ScalarMembers :
    (∃ (s : State) (g : Grp) (op : ScaOp), let f := scaFields op
    Issues s g { sr := f.1 :: f.2.1, ssrc := f.2.1, ill := f.2.2.1, words := f.2.2.2, vector := false }) ∧
    (∃ (s : State) (g : Grp) (sd : BitVec 4) (srn : BitVec 8), Issues s g { sr := [sd.toNat], ssrc := [], ill := decide (0x0F ≤ srn.toNat), vector := false } ∧ srn = 1 ∧ vecOutstanding s g = false) ∧
    (∃ (s : State) (g : Grp) (sa : BitVec 4), Issues s g { sr := [sa.toNat], vector := false } ∧ vecOutstanding s g = false) ∧
    (∃ (s : State) (g : Grp) (sa : BitVec 4), Issues s g { sr := [sa.toNat], vector := false }) := by
  refine ⟨?_, ?_, ?_, ?_⟩
  · exact ⟨core0, g0, .smovi 15 0xFFFFFFFF, issuesC (by decide +kernel) (by decide +kernel) (by decide +kernel) (by decide +kernel)⟩
  · exact ⟨core0, g0, 0, 0x01, issuesC (by decide +kernel) (by decide +kernel) (by decide +kernel) (by decide +kernel), rfl, by decide +kernel⟩
  · exact ⟨core0, g0, 15, issuesC (by decide +kernel) (by decide +kernel) (by decide +kernel) (by decide +kernel), by decide +kernel⟩
  · exact ⟨core0, g0, 0, issuesC (by decide +kernel) (by decide +kernel) (by decide +kernel) (by decide +kernel)⟩

/-- Every clause of IllegalInstructionFaults has a state and operands that meet it. -/
theorem witness_IllegalInstructionFaults :
    (∃ (s : State) (g : Grp) (w ext : BitVec 32), decodeCore g w ext = none ∧ canIssue s g = true ∧ fetchFault s (issueBlock s g).part (issueGroup s g).pc (wordsOf w) = none) ∧
    (∃ (s : State) (g : Grp) (op : VIntOp) (vd va : BitVec 7) (b : BSrc) (pg : BitVec 3), canIssue s g = true ∧ halfHeld s g.cl = false ∧ s.hostReads = [] ∧ fetchFault s (issueBlock s g).part (issueGroup s g).pc 1 = none ∧ (issueBlock s g).vregs ≤ vd.toNat) := by
  refine ⟨?_, ?_⟩
  · exact ⟨core0, g0, 0xFFFFFFFF, 0, by decide, by decide, by decide⟩
  · exact ⟨core0, g0, .popc, 16, 0, .vec 0, 0, by decide, by decide +kernel, rfl, by decide, by decide⟩

/-- One executing lane; pair 1 names data, pair 2 the host window. -/
def lane0 : State := coreWith { grp0 with active := 0x01, sregs := [(2, 0x10000), (5, 0x0400)] }

/-- A memory in which cluster 3 owns line 8, which its L1 and its slice hold. -/
def owned : MemSys := {
  lines := [(8, { present := true, s0 := { valid := true }, dir := .own 3 })]
  l1 := [(3, { lines := [(8, { present := true, s0 := { mask := BitVec.allOnes 32 } })] })] }

/-- Every clause of ScratchAccess has a state and operands that meet it. -/
theorem witness_ScratchAccess :
    (∃ (s : State) (g : Grp) (w : LdWidth) (vd va : BitVec 7) (sp pg : BitVec 3), let n := (ldInfo w).1
    let regs := (ldInfo w).2.1
    Issues s g (mUses vd va sp pg regs false regs) ∧ (∀ i < 8, (issueLanes s g pg.toNat).getLsbD i = true → Claims.scratchReadable s g (Claims.lds s g va sp i - (issueBlock s g).scrBase) n)) ∧
    (∃ (s : State) (g : Grp) (w : StWidth) (vd va : BitVec 7) (sp pg : BitVec 3), let n := (stInfo w).1
    let regs := (stInfo w).2
    Issues s g (mUses vd va sp pg regs true regs) ∧ (∀ i < 8, (issueLanes s g pg.toNat).getLsbD i = true → Claims.scratchWritable s g (Claims.lds s g va sp i - (issueBlock s g).scrBase) n)) ∧
    (∃ (s : State) (g : Grp) (sd : BitVec 4) (sp : BitVec 3) (imm : BitVec 16), Issues s g (smUses sd sp false false) ∧ let o := ((issueGroup s g).s (2 * sp.toNat) + BitVec.ofInt 32 imm.toInt).toNat
    Claims.scratchReadable s g o 4) ∧
    (∃ (s : State) (g : Grp) (sd : BitVec 4) (sp : BitVec 3) (imm : BitVec 16), Issues s g (smUses sd sp false true) ∧ let o := ((issueGroup s g).s (2 * sp.toNat) + BitVec.ofInt 32 imm.toInt).toNat
    Claims.scratchWritable s g o 4) := by
  refine ⟨?_, ?_, ?_, ?_⟩
  · refine ⟨core0, g0, .s16, 1, 2, 0, 0, issuesC (by decide +kernel) (by decide +kernel) (by decide +kernel) (by decide +kernel), fun i _ _ => ?_⟩
    show _ ∧ _ ∧ _ ∧ _
    exact ⟨rfl, (by decide : 0 < 4096), fun _ _ => List.not_mem_nil, fun _ h => absurd h List.not_mem_nil⟩
  · exact ⟨core0, g0, .w128, 4, 2, 0, 0, issuesC (by decide +kernel) (by decide +kernel) (by decide +kernel) (by decide +kernel), by simp only [Claims.scratchWritable]; decide +kernel⟩
  · exact ⟨core0, g0, 1, 0, 0x0FFC, issuesC (by decide +kernel) (by decide +kernel) (by decide +kernel) (by decide +kernel), by simp only [Claims.scratchReadable]; decide +kernel⟩
  · exact ⟨core0, g0, 1, 0, 0x0FFC, issuesC (by decide +kernel) (by decide +kernel) (by decide +kernel) (by decide +kernel), by simp only [Claims.scratchWritable]; decide +kernel⟩

/-- Every clause of GlobalAccess has a state and operands that meet it. -/
theorem witness_GlobalAccess :
    (∀ host : Bool, ∃ (s : State) (g : Grp) (w : LdWidth) (vd va : BitVec 7) (sp pg : BitVec 3),
    let n := (ldInfo w).1
    let regs := (ldInfo w).2.1
    let u := mUses vd va sp pg regs false regs
    let ls := lanesOf (issueLanes s g pg.toNat)
    let a := Claims.ldg s g va sp
    Issues s g u ∧ (∀ i ∈ ls, Claims.reachable (issueState s g u) g (a i) n false) ∧ ls ≠ [] ∧ (∀ i ∈ ls, decide (rangeOf (a i) = .hostWin) = host)) ∧
    (∃ (s : State) (g : Grp) (w : StWidth) (vd va : BitVec 7) (sp pg : BitVec 3),
    let n := (stInfo w).1
    let regs := (stInfo w).2
    let u := mUses vd va sp pg regs true regs
    let ls := lanesOf (issueLanes s g pg.toNat)
    Issues s g u ∧ (∀ i ∈ ls, Claims.reachable (issueState s g u) g (Claims.ldg s g va sp i) n true) ∧ ls ≠ []) ∧
    (∃ (s : State) (g : Grp) (wide : Bool) (vd va : BitVec 7) (sp pg : BitVec 3),
    let regs := if wide then 2 else 1
    let u := mUses vd va sp pg regs false regs
    let ls := lanesOf (issueLanes s g pg.toNat)
    Issues s g u ∧ (∀ i ∈ ls, Claims.sliceReachable (issueState s g u) g (Claims.ldg s g va sp i) (4 * regs) false) ∧ ls ≠ []) ∧
    (∃ (s : State) (g : Grp) (wide : Bool) (vd va : BitVec 7) (sp pg : BitVec 3),
    let regs := if wide then 2 else 1
    let u := mUses vd va sp pg regs true regs
    let ls := lanesOf (issueLanes s g pg.toNat)
    Issues s g u ∧ (∀ i ∈ ls, Claims.sliceReachable (issueState s g u) g (Claims.ldg s g va sp i) (4 * regs) true) ∧ ls ≠ []) ∧
    (∃ (s : State) (g : Grp) (op : AtomOp) (vd va : BitVec 7) (sp pg : BitVec 3),
    let f := atomInfo op
    let u := mUses vd va sp pg f.1 true f.2.1
    let ls := lanesOf (issueLanes s g pg.toNat)
    Issues s g u ∧ (∀ i ∈ ls, Claims.sliceReachable (issueState s g u) g (Claims.ldg s g va sp i) f.2.2 true) ∧ ls ≠ []) ∧
    (∃ (s : State) (g : Grp) (op : AtomOp) (vd va : BitVec 7) (sp pg : BitVec 3) (i : Nat) (x : PcieAtomic × BitVec 64 × BitVec 64),
    let f := atomInfo op
    let u := mUses vd va sp pg f.1 true f.2.1
    let a := Claims.ldg s g va sp i
    Issues s g u ∧ lanesOf (issueLanes s g pg.toNat) = [i] ∧ Claims.reachable (issueState s g u) g a f.2.2 true ∧ rangeOf a = .hostWin ∧ atomHostOp op ((s.cluster g.cl).vWide g (issueGroup s g) vd.toNat i f.1) = some x) ∧
    (∀ k < 3, ∃ (s : State) (g : Grp) (sd : BitVec 4) (sp : BitVec 3) (imm : BitVec 16),
    let u := smUses sd sp true false
    let a := (BitVec.ofNat 48 ((issueGroup s g).pair sp.toNat) + BitVec.ofInt 48 imm.toInt).toNat
    let s1 := issueState s g u
    let p := (issueBlock s g).part
    let r := globalLoad (countL1 s1 g.cl p [a] 4 false) g.cl p a 4
    Issues s g u ∧ Claims.reachable s1 g a 4 false ∧ (if k = 2 then rangeOf a = .hostWin else rangeOf a ≠ .hostWin ∧ r.2.2 = decide (k = 1))) ∧
    (∃ (s : State) (g : Grp) (sd : BitVec 4) (sp : BitVec 3) (imm : BitVec 16),
    let u := smUses sd sp true true
    let a := (BitVec.ofNat 48 ((issueGroup s g).pair sp.toNat) + BitVec.ofInt 48 imm.toInt).toNat
    Issues s g u ∧ Claims.reachable (issueState s g u) g a 4 true) := by
  refine ⟨?_, ?_, ?_, ?_, ?_, ?_, ?_, ?_⟩
  · intro host
    cases host
    · exact ⟨lane0, g0, .w64, 4, 2, 1, 0, issuesC (by decide +kernel) (by decide +kernel) (by decide +kernel) (by decide +kernel), (by simp only [Claims.reachable]; decide +kernel), (by decide +kernel), (by decide +kernel)⟩
    · exact ⟨lane0, g0, .s8, 4, 2, 2, 0, issuesC (by decide +kernel) (by decide +kernel) (by decide +kernel) (by decide +kernel), (by simp only [Claims.reachable]; decide +kernel), (by decide +kernel), (by decide +kernel)⟩
  · exact ⟨lane0, g0, .b8, 4, 2, 2, 0, issuesC (by decide +kernel) (by decide +kernel) (by decide +kernel) (by decide +kernel), (by simp only [Claims.reachable]; decide +kernel), (by decide +kernel)⟩
  · exact ⟨lane0, g0, true, 4, 2, 1, 0, issuesC (by decide +kernel) (by decide +kernel) (by decide +kernel) (by decide +kernel), (by simp only [Claims.sliceReachable]; decide +kernel), (by decide +kernel)⟩
  · exact ⟨lane0, g0, false, 4, 2, 1, 0, issuesC (by decide +kernel) (by decide +kernel) (by decide +kernel) (by decide +kernel), (by simp only [Claims.sliceReachable]; decide +kernel), (by decide +kernel)⟩
  · exact ⟨lane0, g0, .cas64, 4, 2, 1, 0, issuesC (by decide +kernel) (by decide +kernel) (by decide +kernel) (by decide +kernel), (by simp only [Claims.sliceReachable]; decide +kernel), (by decide +kernel)⟩
  · exact ⟨lane0, g0, .add32, 4, 2, 2, 0, 0, (.fetchAdd, 0, 0), issuesC (by decide +kernel) (by decide +kernel) (by decide +kernel) (by decide +kernel), (by decide +kernel), (by simp only [Claims.reachable]; decide +kernel), (by decide +kernel), (by decide +kernel)⟩
  · intro k hk
    match k, hk with
    | 0, _ => exact ⟨lane0, g0, 1, 1, 0x7FFC, issuesC (by decide +kernel) (by decide +kernel) (by decide +kernel) (by decide +kernel), (by simp only [Claims.reachable]; decide +kernel), (by decide +kernel)⟩
    | 1, _ => exact ⟨{ lane0 with mem := { lines := [(512, { present := true, s0 := { valid := true, poison := true } })] } }, g0, 1, 1, 0, issues rfl rfl (by decide +kernel) (by decide +kernel) (by decide +kernel) (by decide +kernel), (by simp only [Claims.reachable]; decide +kernel), (by decide +kernel)⟩
    | 2, _ => exact ⟨lane0, g0, 1, 2, 0, issuesC (by decide +kernel) (by decide +kernel) (by decide +kernel) (by decide +kernel), (by simp only [Claims.reachable]; decide +kernel), (by decide +kernel)⟩
  · exact ⟨lane0, g0, 1, 1, 0, issuesC (by decide +kernel) (by decide +kernel) (by decide +kernel) (by decide +kernel), (by simp only [Claims.reachable]; decide +kernel)⟩

/-- Every clause of DramWriteThenRead has a state and operands that meet it. -/
theorem witness_DramWriteThenRead :
    ∃ (m : MemSys) (t : BitVec 64) (a : Nat) (d : BitVec 256), rangeOf a = .dram := by
  exact ⟨{}, 0, 0x7FFFFFFFFF, 0, by decide⟩

/-- Every clause of L1HitAndOwnerStore has a state and operands that meet it. -/
theorem witness_L1HitAndOwnerStore :
    (∃ (m : MemSys) (t : BitVec 64) (mask : BitVec 16) (c a n : Nat), isNbRaw m a = false ∧ let x := m.l1Line c (a / 128)
    let y := x.sec (a % 128 / 32)
    x.present = true ∧ y.parBad &&& byteMask (a % 32) n = 0 ∧ y.mask &&& byteMask (a % 32) n = byteMask (a % 32) n) ∧
    (∃ (m : MemSys) (t : BitVec 64) (mask : BitVec 16) (c a n v : Nat), isNbRaw m a = false ∧ m.rsv (a / 128) = false ∧ checkSet m t a = m ∧ (m.lineAt (a / 128)).present = true ∧ (m.lineAt (a / 128)).dir = .own c ∧ (m.l1Line c (a / 128)).present = true) := by
  refine ⟨?_, ?_⟩
  · exact ⟨owned, 0, 0xFFFF, 3, 0x400, 16, by decide, by decide, by decide, by decide⟩
  · exact ⟨owned, 0, 0xFFFF, 3, 0x41F, 1, 0xFF, by decide, by decide, (by decide +kernel), by decide, by decide, by decide⟩

/-- The image of an 8 x 8 tensor of code 0x0D at 0x10000, row stride 16 bytes; and of its first row. -/
def image2 : BitVec 512 := 0x7070000000000000000000000000000000000000010000000000000000000000000070000070000000000010000000000000005AD11
def image1 : BitVec 512 := 0xF00000000000000000000000000000000000000000000000000000000000000000000000F0000000000010000000000000001AD11

/-- A root of 64 elements, four local words each. -/
def red0 : RedHandle := { redImg 0 with root := true, words := 64, localContrib := 4, opActive := true }

/-- A group with a chain open where `o` is set, s6 = 8, and handles in slots 0 (tensor), 1 (vector), 2 and 3 (reductions). -/
def async0 (o : Bool) : State := { up0 with
  cl := [(0, {
    groups := [(0, { grp0 with chainOpen := o, sregs := [(1, 1), (2, 2), (6, 8), (7, 3)] })], blocks := [(0, block0)]
    td := [(0, { live := true, image := image2 }), (1, { live := true, image := image1 }), (2, { live := true, red := some red0 }),
      (3, { live := true, red := some { red0 with localContrib := 0 } })] })]
  parts := [(0, part0)] }

/-- The same with the tensor's image in scratch at 64. -/
def asyncScr : State := { up0 with
  cl := [(0, { groups := [(0, { grp0 with sregs := [(1, 64)] })], blocks := [(0, block0)]
               scratch := ByteMap.writeNat [] 64 64 image2.toNat })]
  parts := [(0, part0)] }

/-- Every clause of MatrixIssue has a state and operands that meet it. -/
theorem witness_MatrixIssue :
    (∀ opened : Bool, ∃ (s : State) (g : Grp) (sa : BitVec 4) (f : BitVec 12), let gr := issueGroup s g
    let init := f.toNat / 1024
    let bf := f.toNat / 32 % 32
    let off := (gr.s sa.toNat).toNat / 32 * 32
    let u : Uses := {
      sr := if init = 0 then [] else [sa.toNat], vector := false
      ill := f.toNat % 8 ≠ 0 || init = 3 || (if init = 0 then bf ≠ 0 || sa ≠ 0 else !([0x05, 0x0D, 0x0E, 0x0F, 0x12].contains bf)) }
    Issues s g u ∧ (Claims.mxQueue s g).length < 4 ∧ (init ≠ 0 → off + round32 (biasLen init bf) ≤ (issueBlock s g).scrSize) ∧ gr.chainOpen = opened) ∧
    (∃ (s : State) (g : Grp) (sa sb sc : BitVec 4) (ext : BitVec 32), let gr := issueGroup s g
    let u : Uses := { sr := [sa.toNat, sb.toNat, sc.toNat], ill := mmaIll ext, words := 2, vector := false }
    let k := (gr.s sc.toNat).toNat
    let ch := gr.chainExt.getD ext
    let offA := (gr.s sa.toNat).toNat / 32 * 32
    let offB := (gr.s sb.toNat).toNat / 32 * 32
    let len := panelBytes gr.chainPack k ch
    Issues s g u ∧ (Claims.mxQueue s g).length < 4 ∧ gr.chainOpen = true ∧ gr.chainK + k ≤ 2 ^ 20 ∧ offA + round32 len.1 ≤ (issueBlock s g).scrSize ∧ offB + round32 len.2 ≤ (issueBlock s g).scrSize) ∧
    (∃ (s : State) (g : Grp) (sa sb sc : BitVec 4) (ext : BitVec 32), let gr := issueGroup s g
    let u : Uses := { sr := [sa.toNat, sb.toNat, sc.toNat], ill := mmaIll ext, words := 2, vector := false }
    Issues s g u ∧ (Claims.mxQueue s g).length < 4 ∧ gr.chainOpen = false) ∧
    (∃ (s : State) (g : Grp) (sa sb : BitVec 4) (i : Nat) (d : TImg), let gr := issueGroup s g
    let u : Uses := { sr := [sa.toNat, sb.toNat], vector := false }
    let c := s.cluster g.cl
    Issues s g u ∧ (Claims.mxQueue s g).length < 4 ∧ (c.mx.incomplete.countP fun x => x = Claims.owner s g) < 16 ∧ (gr.s sa.toNat).toNat % 64 ∉ c.tdBad ∧ gr.chainOpen = true ∧ tensorUse c gr.bslot (gr.s sa.toNat).toNat = some (i, d) ∧ storable d = true ∧ (gr.s sb.toNat).toNat < listProd d.view) ∧
    (∃ (s : State) (g : Grp) (n : BitVec 4), Issues s g { vector := false } ∧ ((s.cluster g.cl).mx.incomplete.countP fun x => x = Claims.owner s g) ≤ n.toNat) := by
  refine ⟨?_, ?_, ?_, ?_, ?_⟩
  · intro o
    cases o
    · exact ⟨async0 false, g0, 6, 0x5A0, issues rfl rfl (by decide +kernel) (by decide +kernel) (by decide +kernel) (by decide +kernel), (by decide +kernel), (by decide +kernel), rfl⟩
    · exact ⟨async0 true, g0, 6, 0x5A0, issues rfl rfl (by decide +kernel) (by decide +kernel) (by decide +kernel) (by decide +kernel), (by decide +kernel), (by decide +kernel), rfl⟩
  · exact ⟨async0 true, g0, 0, 0, 6, 0x1AD, issues rfl rfl (by decide +kernel) (by decide +kernel) (by decide +kernel) (by decide +kernel), (by decide +kernel), (by decide +kernel), (by decide +kernel), (by decide +kernel), (by decide +kernel)⟩
  · exact ⟨async0 false, g0, 0, 0, 6, 0x1AD, issues rfl rfl (by decide +kernel) (by decide +kernel) (by decide +kernel) (by decide +kernel), (by decide +kernel), (by decide +kernel)⟩
  · exact ⟨async0 true, g0, 0, 0, 0, tImg image2, issues rfl rfl (by decide +kernel) (by decide +kernel) (by decide +kernel) (by decide +kernel), (by decide +kernel), (by decide +kernel), (by decide +kernel), (by decide +kernel), (by decide +kernel), (by decide +kernel), (by decide +kernel)⟩
  · exact ⟨async0 true, g0, 0, issues rfl rfl (by decide +kernel) (by decide +kernel) (by decide +kernel) (by decide +kernel), (by decide +kernel)⟩

/-- The same with the image of a root of one element. -/
def redScr : State := { asyncScr with
  cl := [(0, { groups := [(0, { grp0 with sregs := [(1, 64)] })], blocks := [(0, block0)]
               scratch := ByteMap.writeNat [] 64 64 0x10000f00000000400040000000000000000000000010000000000000012 })] }

/-- Every clause of DescriptorIssue has a state and operands that meet it. -/
theorem witness_DescriptorIssue :
    (∀ k < 3, ∃ (s : State) (g : Grp) (sa sb : BitVec 4),
    let gr := issueGroup s g
    let b := issueBlock s g
    let u : Uses := { sr := [sa.toNat, sb.toNat], ssrc := [sb.toNat], vector := false }
    let s1 := issueState s g u
    let off := (gr.s sb.toNat).toNat
    let img := BitVec.ofNat 512 (ByteMap.readNat (s.cluster g.cl).scratch (b.scrBase + off) 64)
    let st := tdStatus s1 g.cl gr.bslot img
    Issues s g u ∧ tdCount s1 g.cl (Claims.owner s g) < 16 ∧ off % 64 = 0 ∧ off + 64 ≤ b.scrSize ∧ (s.cluster g.cl).tdOps = [] ∧
    rbufAt (s.cluster g.cl) (b.scrBase + off) 64 = false ∧ (s.cluster g.cl).scratchBad = [] ∧
    (if k = 0 then st ≠ 0 else st = 0 ∧ decide (imgKind img = 1) = decide (k = 1) ∧ lowestBelow 64 (tdFree s1 g.cl) = some 0 ∧
      (imgKind img = 2 → (redImg img).root = true →
        heldAt (s.cluster g.cl) (b.scrBase + (redImg img).rbuf) (32 * (redImg img).words) = false ∧
        redCount (s.cluster g.cl) (Claims.owner s g) < 16))) ∧
    (∀ load bad : Bool, ∃ (s : State) (g : Grp) (sa sb sc : BitVec 4),
    let gr := issueGroup s g
    let b := issueBlock s g
    let u : Uses := { sr := [sa.toNat, sb.toNat, sc.toNat], vector := false }
    let s1 := issueState s g u
    Issues s g u ∧ tdCount s1 g.cl (Claims.owner s g) < 16 ∧
    (tileFault (s1.cluster g.cl) gr b (gr.s sa.toNat).toNat (gr.s sc.toNat).toNat (gr.s sb.toNat).toNat load).isSome = bad) ∧
    (∃ (s : State) (g : Grp) (sa : BitVec 4) (slot table : Nat) (cb8 : Bool) (i : Nat) (d : TImg),
    let gr := issueGroup s g
    let u : Uses := { sr := [sa.toNat], vector := false }
    let s1 := issueState s g u
    slot < 4 ∧ table < 16 ∧ (cb8 = true → table = 0) ∧ Issues s g u ∧ tdCount s1 g.cl (Claims.owner s g) < 16 ∧
    (gr.s sa.toNat).toNat % 64 ∉ (s.cluster g.cl).tdBad ∧ tensorUse (s.cluster g.cl) gr.bslot (gr.s sa.toNat).toNat = some (i, d) ∧
    d.fmt = 0x0D ∧ d.sfmt = 0x0D ∧ d.ndim = 1 ∧ d.nwin = 0 ∧ d.sbind = 0 ∧ (if cb8 then 256 else 16) ≤ d.extD 0) ∧
    (∃ (s : State) (g : Grp) (sa : BitVec 4) (i : Nat),
    let gr := issueGroup s g
    let u : Uses := { sr := [sa.toNat], vector := false }
    let s1 := issueState s g u
    Issues s g u ∧ tdCount s1 g.cl (Claims.owner s g) < 16 ∧ (gr.s sa.toNat).toNat % 64 ∉ (s.cluster g.cl).tdBad ∧
    tdLookup (s.cluster g.cl) gr.bslot (gr.s sa.toNat).toNat = some i) ∧
    (∃ (s : State) (g : Grp) (n : BitVec 4), Issues s g { vector := false } ∧ tdCount (issueState s g { vector := false }) g.cl (Claims.owner s g) ≤ n.toNat) := by
  refine ⟨?_, ?_, ?_, ?_, ?_⟩
  · intro k hk
    match k, hk with
    | 0, _ => exact ⟨core0, g0, 0, 0, issues rfl rfl (by decide +kernel) (by decide +kernel) (by decide +kernel) (by decide +kernel), (by decide +kernel), (by decide +kernel), (by decide +kernel), rfl, (by decide +kernel), rfl, (by decide +kernel)⟩
    | 1, _ => exact ⟨asyncScr, g0, 0, 1, issues rfl rfl (by decide +kernel) (by decide +kernel) (by decide +kernel) (by decide +kernel), (by decide +kernel), (by decide +kernel), (by decide +kernel), rfl, (by decide +kernel), rfl, (by decide +kernel)⟩
    | 2, _ => exact ⟨redScr, g0, 0, 1, issues rfl rfl (by decide +kernel) (by decide +kernel) (by decide +kernel) (by decide +kernel), (by decide +kernel), (by decide +kernel), (by decide +kernel), rfl, (by decide +kernel), rfl, (by decide +kernel)⟩
  · intro load bad
    cases load <;> cases bad
    · exact ⟨async0 false, g0, 0, 0, 0, issues rfl rfl (by decide +kernel) (by decide +kernel) (by decide +kernel) (by decide +kernel), (by decide +kernel), (by decide +kernel)⟩
    · exact ⟨async0 false, g0, 2, 0, 0, issues rfl rfl (by decide +kernel) (by decide +kernel) (by decide +kernel) (by decide +kernel), (by decide +kernel), (by decide +kernel)⟩
    · exact ⟨async0 false, g0, 0, 0, 0, issues rfl rfl (by decide +kernel) (by decide +kernel) (by decide +kernel) (by decide +kernel), (by decide +kernel), (by decide +kernel)⟩
    · exact ⟨async0 false, g0, 2, 0, 0, issues rfl rfl (by decide +kernel) (by decide +kernel) (by decide +kernel) (by decide +kernel), (by decide +kernel), (by decide +kernel)⟩
  · exact ⟨async0 false, g0, 1, 3, 15, false, 1, tImg image1, (by decide +kernel), (by decide +kernel), (by decide +kernel), issues rfl rfl (by decide +kernel) (by decide +kernel) (by decide +kernel) (by decide +kernel), (by decide +kernel), (by decide +kernel), (by decide +kernel), (by decide +kernel), (by decide +kernel), (by decide +kernel), (by decide +kernel), (by decide +kernel), (by decide +kernel)⟩
  · exact ⟨async0 false, g0, 2, 2, issues rfl rfl (by decide +kernel) (by decide +kernel) (by decide +kernel) (by decide +kernel), (by decide +kernel), (by decide +kernel), (by decide +kernel)⟩
  · exact ⟨async0 false, g0, 2, issues rfl rfl (by decide +kernel) (by decide +kernel) (by decide +kernel) (by decide +kernel), (by decide +kernel)⟩

/-- Every clause of ReductionIssue has a state and operands that meet it. -/
theorem witness_ReductionIssue :
    (∃ (s : State) (g : Grp) (sa sb sc : BitVec 4) (i : Nat) (r : RedHandle), let gr := issueGroup s g
    let u : Uses := { sr := [sa.toNat, sb.toNat, sc.toNat], vector := false }
    let n := (gr.s sc.toNat).toNat
    Issues s g u ∧ n = 0) ∧
    (∃ (s : State) (g : Grp) (sa sb sc : BitVec 4) (i : Nat) (r : RedHandle), let gr := issueGroup s g
    let b := issueBlock s g
    let u : Uses := { sr := [sa.toNat, sb.toNat, sc.toNat], vector := false }
    let n := (gr.s sc.toNat).toNat
    let off := (gr.s sb.toNat).toNat
    Issues s g u ∧ n ≠ 0 ∧ redCount (s.cluster g.cl) (Claims.owner s g) < 16 ∧ off % 16 = 0 ∧ (gr.s sa.toNat).toNat % 64 ∉ (s.cluster g.cl).tdBad ∧ off + 16 * n ≤ b.scrSize ∧ redUse (s.cluster g.cl) gr.bslot (gr.s sa.toNat).toNat = some (i, r) ∧ r.accepts gr.gidx n = false) ∧
    (∃ (s : State) (g : Grp) (sa sb sc : BitVec 4) (i : Nat) (r : RedHandle), let gr := issueGroup s g
    let b := issueBlock s g
    let u : Uses := { sr := [sa.toNat, sb.toNat, sc.toNat], vector := false }
    let n := (gr.s sc.toNat).toNat
    let off := (gr.s sb.toNat).toNat
    Issues s g u ∧ n ≠ 0 ∧ redCount (s.cluster g.cl) (Claims.owner s g) < 16 ∧ off % 16 = 0 ∧ (gr.s sa.toNat).toNat % 64 ∉ (s.cluster g.cl).tdBad ∧ off + 16 * n ≤ b.scrSize ∧ redUse (s.cluster g.cl) gr.bslot (gr.s sa.toNat).toNat = some (i, r) ∧ r.accepts gr.gidx n = true ∧ (s.cluster g.cl).scratchBad = [] ∧ rbufAt (s.cluster g.cl) (b.scrBase + off) (16 * n) = false) ∧
    (∃ (s : State) (g : Grp) (sa : BitVec 4) (i : Nat) (r : RedHandle), let gr := issueGroup s g
    let u : Uses := { sr := [sa.toNat], vector := false }
    let c := s.cluster g.cl
    Issues s g u ∧ (Claims.mxQueue s g).length < 4 ∧ (c.mx.incomplete.countP fun x => x = Claims.owner s g) < 16 ∧ redCount c (Claims.owner s g) < 16 ∧ (gr.s sa.toNat).toNat % 64 ∉ c.tdBad ∧ gr.chainOpen = true ∧ redUse c gr.bslot (gr.s sa.toNat).toNat = some (i, r) ∧ r.accepts gr.gidx 64 = true) ∧
    (∃ (s : State) (g : Grp) (n : BitVec 4), Issues s g { vector := false } ∧ redCount (s.cluster g.cl) (Claims.owner s g) ≤ n.toNat) := by
  refine ⟨?_, ?_, ?_, ?_, ?_⟩
  · exact ⟨async0 false, g0, 2, 0, 3, 0, red0, issues rfl rfl (by decide +kernel) (by decide +kernel) (by decide +kernel) (by decide +kernel), (by decide +kernel)⟩
  · exact ⟨async0 false, g0, 7, 0, 6, 3, { red0 with localContrib := 0 }, issues rfl rfl (by decide +kernel) (by decide +kernel) (by decide +kernel) (by decide +kernel), (by decide +kernel), (by decide +kernel), (by decide +kernel), (by decide +kernel), (by decide +kernel), (by decide +kernel), (by decide +kernel)⟩
  · exact ⟨async0 false, g0, 2, 0, 6, 2, red0, issues rfl rfl (by decide +kernel) (by decide +kernel) (by decide +kernel) (by decide +kernel), (by decide +kernel), (by decide +kernel), (by decide +kernel), (by decide +kernel), (by decide +kernel), (by decide +kernel), (by decide +kernel), (by decide +kernel), (by decide +kernel)⟩
  · exact ⟨async0 true, g0, 2, 2, red0, issues rfl rfl (by decide +kernel) (by decide +kernel) (by decide +kernel) (by decide +kernel), (by decide +kernel), (by decide +kernel), (by decide +kernel), (by decide +kernel), (by decide +kernel), (by decide +kernel), (by decide +kernel)⟩
  · exact ⟨async0 false, g0, 2, issues rfl rfl (by decide +kernel) (by decide +kernel) (by decide +kernel) (by decide +kernel), (by decide +kernel)⟩

theorem triple {α β γ : Type} (x : α × β × γ) {c : γ} (h : x.2.2 = c) : x = (x.1, x.2.1, c) := by subst h; rfl
theorem some_get {α : Type} {o : Option α} (h : o.isSome = true) : o = some (o.get h) := by simp

/-- A context of one block of partition 0, waiting to be placed, or STREAMED. -/
def ctx0 (placed : Bool) : Ctx := {
  live := true, entry := 0x1000, groups := 1, vregs := 16, scratch := 4096, gx := 1, gy := 1, gz := 1, placed := placed }

/-- Partition 0 running a context, no block yet on cluster 0. -/
def fresh0 (placed : Bool) (c : Cluster) : State := { up0 with cl := [(0, c)], parts := [(0, part0)], ctxs := [(0, ctx0 placed)] }

/-- A noted fault of context 0 in partition 0. -/
def noted (st : PartSt) : State := { up0 with parts := [(0, { part0 with st := st, notes := [{ cls := 5, time := 7, cluster := 0, ctx := some 0 }] })] }

def own0 : ChainOwner := ⟨0, 0, 0, 0, 0, 0⟩

/-- A cluster whose array is `m`, with a tensor in slot 0 and a reduction in slot 2. -/
def arrayAt (m : MxArray) : State := { up0 with
  cl := [(0, {
    groups := [(0, grp0)], blocks := [(0, block0)], mx := m
    td := [(0, { live := true, image := image2 }), (2, { live := true, red := some { red0 with anchored := true } })] })]
  parts := [(0, part0)] }

/-- A chain of one MXA.MMA with one K step of FP16 (streaming) or BF16 (deferred). -/
def chain1 (ext : BitVec 32) (done : Bool) : Chain := {
  owner := own0, opened := true, mmas := [{ a := 0, b := 64, k := 1, ext := ext, held := 0, pc := 0x1000, order := 0, scanned := done, multiplied := done }] }

/-- A root that expects `n` contributors by fabric, and a word of four that has arrived for its element 0. -/
def rootAt (n : Nat) : State := { up0 with
  cl := [(0, { td := [(2, { live := true, red := some { red0 with fabricContrib := n } })]
               streamOut := [(15, { bound := some 2, buf := [(0x40000000000000000000000000000000000000, false)] })] })] }

/-- A root of two elements, both delivered, whose creator is still there. -/
def rootDone : State := { up0 with
  cl := [(0, { groups := [(0, grp0)], blocks := [(0, block0)]
               td := [(2, { live := true, red := some { red0 with words := 2, delivered := [(0, 1), (1, 1)] } })] })] }

/-- Every clause of BlockLifetime has a state and operands that meet it. -/
theorem witness_BlockLifetime :
    (∃ (s : State) (cl p : Nat) (o : Offer) (rest : List Offer) (c' : Cluster), partOf s cl = some p ∧ (s.part p).st = .running ∧ (s.part p).notes = [] ∧ (s.cluster cl).offers = o :: rest ∧ (∀ k, oldestStream s p = some k → o.order ≤ (s.ctx k).offered) ∧ admitAll (s.cluster cl) o.ctx (s.ctx o.ctx) o.blocks = some c') ∧
    (∃ (s : State) (cl p k : Nat) (c' : Cluster), partOf s cl = some p ∧ (s.part p).st = .running ∧ (s.part p).notes = [] ∧ oldestStream s p = some k ∧ (∀ o ∈ (s.cluster cl).offers, (s.ctx k).offered < o.order) ∧ admitBlock (s.cluster cl) k (s.ctx k) (s.ctx k).next = some c' ∧ (∀ n < (s.part p).index cl, hasRoom s ((s.part p).nth n) k = false)) ∧
    (∃ (s : State) (cl b : Nat), ((s.cluster cl).block b).used = true ∧ ((s.cluster cl).block b).zeroing = true ∧ (∀ e ∈ (s.cluster cl).blocks, e.2.used = true → e.2.zeroing = true → ((s.cluster cl).block b).order ≤ e.2.order)) ∧
    (∃ (s : State) (cl b : Nat), ((s.cluster cl).block b).used = true ∧ ((s.cluster cl).block b).zeroing = false ∧ (∀ e ∈ blockGroups (s.cluster cl) b, e.2.ended = true) ∧ blockBusy s cl b = false) ∧
    (∃ (s : State) (p k : Nat), let x := s.ctx k
    let q := s.queue x.cmd.f x.cmd.q
    x.live = true ∧ x.ended = false ∧ x.part = p ∧ x.retired = x.total ∧ (s.part p).st = .running ∧ s.eventOpen p = false ∧ storesPending s p = false ∧ (q.replying = true → q.replies = [] ∧ q.ringFull = false)) := by
  refine ⟨?_, ?_, ?_, ?_, ?_⟩
  · exact ⟨fresh0 true { offers := [⟨0, 0, [0], 0⟩] }, 0, 0, ⟨0, 0, [0], 0⟩, [], _, (by decide +kernel), (by decide +kernel), (by decide +kernel), rfl, fun _ _ => Nat.zero_le _, some_get (by decide +kernel)⟩
  · exact ⟨fresh0 false {}, 0, 0, 0, _, (by decide +kernel), (by decide +kernel), (by decide +kernel), (by decide +kernel), by decide, some_get (by decide +kernel), by decide⟩
  · exact ⟨fresh0 true { blocks := [(2, { block0 with zeroing := true, order := 1 }), (3, { block0 with zeroing := true, order := 2 })] }, 0, 2, (by decide +kernel), (by decide +kernel), (by decide +kernel)⟩
  · exact ⟨fresh0 true { blocks := [(3, block0)], groups := [(0, { grp0 with ended := true, bslot := 3 })] }, 0, 3, (by decide +kernel), (by decide +kernel), (by decide +kernel), (by decide +kernel)⟩
  · exact ⟨{ fresh0 true {} with ctxs := [(0, { ctx0 true with retired := 1 })], queues := [(0, { state := 1, cqLog2 := 4 })] }, 0, 0, (by decide +kernel), (by decide +kernel), (by decide +kernel), (by decide +kernel), (by decide +kernel), (by decide +kernel), (by decide +kernel), (by decide +kernel)⟩

/-- Every clause of GroupStartState has a state and operands that meet it. -/
theorem witness_GroupStartState :
    ∃ (c c' : Cluster) (b gidx vregs entry args : Nat), placeGroup c b gidx vregs entry args = some c' ∧ entry < 2 ^ 48 := by
  exact ⟨{}, _, 3, 15, 16, 0xFFFFFFFFFFFC, 0, rfl, by decide⟩

/-- Every clause of FaultEventEffect has a state and operands that meet it. -/
theorem witness_FaultEventEffect :
    (∀ st : PartSt, ∃ (s : State) (p : Nat) (n0 : FaultNote) (ns : List FaultNote), (s.part p).notes = n0 :: ns ∧ (s.part p).st = st) ∧
    (∃ (s : State) (p : Nat) (n0 : FaultNote) (ns : List FaultNote), (s.part p).notes = n0 :: ns ∧ (recorded n0 ns).ctx = none ∧ s.openCtxs p ≠ []) ∧
    (∃ (n : FaultNote) (m : Bool) (id : Nat), n.cls < 32 ∧ n.inGroup = true ∧ n.core < 4 ∧ n.slot < 4 ∧ n.gidx < 16 ∧ id < 65536 ∧ n.cluster < 2 ^ 17 ∧ n.addr < 2 ^ 48) := by
  refine ⟨fun st => ⟨noted st, 0, _, _, rfl, rfl⟩, ?_, ?_⟩
  · exact ⟨{ noted .running with parts := [(0, { part0 with notes := [{ cls := 5, time := 7, cluster := 0 }] })], ctxs := [(0, ctx0 true)] }, 0, _, _, rfl, rfl, (by decide +kernel)⟩
  · exact ⟨{ cls := 31, time := 0, cluster := 131071, inGroup := true, core := 3, slot := 3, gidx := 15, addr := 2 ^ 48 - 1 }, true, 65535, by decide⟩

/-- Every clause of ArraySteps has a state and operands that meet it. -/
theorem witness_ArraySteps :
    (∃ (s : State) (cl key : Nat) (e : MxEntry) (es : List MxEntry) (bias : Nat) (f : BitVec 12) (id : Nat), (s.cluster cl).mx.current = none ∧ (key, e :: es) ∈ (s.cluster cl).mx.queues ∧ e.op = .init bias f id ∧
      (∀ q ∈ (s.cluster cl).mx.queues, ∀ x xs, q.2 = x :: xs → (∃ b g i, x.op = .init b g i) → x = e ∨ e.order < x.order)) ∧
    (∀ k < 3, ∃ (s : State) (cl : Nat) (ch : Chain) (e : MxEntry) (es : List MxEntry), (s.cluster cl).mx.current = some ch ∧ NMap.get [] (s.cluster cl).mx.queues (4 * ch.owner.core + ch.owner.slot) = e :: es ∧ e.owner = ch.owner ∧ takeReady ch = true ∧
      (if k = 0 then ∃ bias f id, e.op = .init bias f id ∧ ch.opened = false ∧ Claims.soundPanel s cl bias (biasLen (f.toNat / 1024) (f.toNat / 32 % 32)) ∧ rbufAt (s.cluster cl) bias (round32 (biasLen (f.toNat / 1024) (f.toNat / 32 % 32))) = false
        else if k = 1 then ∃ a b k ext id, e.op = .mma a b k ext id else ∃ h i, e.op = .store h i)) ∧
    (∃ (s : State) (cl i : Nat) (ch : Chain) (m : MmaRec), (s.cluster cl).mx.current = some ch ∧ ch.deferred = true ∧ ch.mmas[i]? = some m ∧ m.scanned = false ∧ (∀ j < i, ∀ x, ch.mmas[j]? = some x → x.scanned = true) ∧ cbAwaited (s.cluster cl) (ch.ext.getD m.ext) m.ext m.order = false ∧ Claims.soundMma s cl ch m) ∧
    (∀ deferred : Bool, ∃ (s : State) (cl i : Nat) (ch : Chain) (m : MmaRec), (s.cluster cl).mx.current = some ch ∧ ch.deferred = deferred ∧ ch.mmas[i]? = some m ∧ m.multiplied = false ∧ (∀ j < i, ∀ x, ch.mmas[j]? = some x → x.multiplied = true) ∧
      (ch.deferred = true → ch.closing.isSome = true ∧ ∀ x ∈ ch.mmas, x.scanned = true) ∧ cbAwaited (s.cluster cl) (ch.ext.getD m.ext) m.ext m.order = false ∧ halfHeld s cl = false ∧ Claims.soundMma s cl ch m ∧ ((s.cluster cl).mx.dBad = true → m.k = 0)) ∧
    (∃ (s : State) (cl : Nat) (ch : Chain), (s.cluster cl).mx.current = some ch ∧ (s.cluster cl).mx.drain = none ∧ ch.closing.isSome = true ∧ (∀ m ∈ ch.mmas, m.multiplied = true)) ∧
    (∀ bad : Bool, ∃ (s : State) (cl : Nat) (ch : Chain), (s.cluster cl).mx.drain = some ch ∧ ch.checked = false ∧
      (if bad then ∃ p < problems ch.pack, p ∉ ch.trunc ∧ (checkProblem ch p).bad = true
        else (∀ p < problems ch.pack, p ∉ ch.trunc → (checkProblem ch p).bad = false) ∧ runsDiffer ch = [])) ∧
    (∃ (s : State) (cl slot cursor : Nat) (ch : Chain) (r : RedHandle), (s.cluster cl).mx.drain = some ch ∧ ch.checked = true ∧ ch.closing = some (.redAcc slot cursor) ∧ (NMap.get {} (s.cluster cl).td slot).red = some r ∧ (r.anchored = true ∨ ∀ p < problems ch.pack, ch.anchors.getD p 0 = r.anchor)) ∧
    (∀ bad : Bool, ∃ (s : State) (cl h idx : Nat) (ch : Chain), (s.cluster cl).mx.drain = some ch ∧ ch.checked = true ∧ ch.closing = some (.store h idx) ∧
      let d := tImg (NMap.get {} (s.cluster cl).td (h % 64)).image
      let w := chainWrites (s.cluster cl) d ch idx
      (d.fmt = 0x12 → ∀ p < problems ch.pack, ch.anchors.getD p 0 = d.anchorScale) ∧ writesHeld s w.1 = false ∧
      (putAll s cl ch.owner.part w.1).bad.isSome = bad) ∧
    (∃ (s : State) (cl : Nat) (ch : Chain) (waiting rest : List Chain), (s.cluster cl).mx.drained = waiting ++ ch :: rest ∧ (∀ x ∈ waiting, Claims.awaits s x) ∧ ¬ Claims.awaits s ch ∧ ownerHere (s.cluster cl) ch.owner = true) := by
  refine ⟨?_, ?_, ?_, ?_, ?_, ?_, ?_, ?_, ?_⟩
  · refine ⟨arrayAt { queues := [(0, [⟨own0, 0x1000, .init 0 0 0, 0⟩])] }, 0, 0, ⟨own0, 0x1000, .init 0 0 0, 0⟩, [], _, _, _, rfl, List.mem_cons_self, rfl, ?_⟩
    rintro q hq x xs h -
    rw [List.mem_singleton.mp hq] at h
    exact .inl (List.cons.inj h).1.symm
  · intro k hk
    match k, hk with
    | 0, _ => exact ⟨arrayAt { current := some { owner := own0 }, queues := [(0, [⟨own0, 0x1000, .init 0 0x5A0 0, 0⟩])] }, 0, _, _, _, rfl, rfl, rfl, rfl, _, _, _, rfl, rfl, fun _ _ => List.not_mem_nil, (by decide +kernel)⟩
    | 1, _ => exact ⟨arrayAt { current := some { owner := own0, opened := true }, queues := [(0, [⟨own0, 0x1000, .mma 0 64 1 0x1AD 0, 0⟩])] }, 0, _, _, _, rfl, rfl, rfl, rfl, _, _, _, _, _, rfl⟩
    | 2, _ => exact ⟨arrayAt { current := some { owner := own0, opened := true }, queues := [(0, [⟨own0, 0x1000, .store 0 0, 0⟩])] }, 0, _, _, _, rfl, rfl, rfl, rfl, _, _, rfl⟩
  · exact ⟨arrayAt { current := some (chain1 0x1CE false) }, 0, 0, chain1 0x1CE false, { a := 0, b := 64, k := 1, ext := 0x1CE, held := 0, pc := 0x1000, order := 0 }, rfl, (by decide +kernel), rfl, rfl, by decide, (by decide +kernel), fun _ _ => List.not_mem_nil, fun _ _ => List.not_mem_nil, by decide, by decide⟩
  · intro d
    cases d
    · exact ⟨arrayAt { current := some (chain1 0x1AD false) }, 0, 0, chain1 0x1AD false, { a := 0, b := 64, k := 1, ext := 0x1AD, held := 0, pc := 0x1000, order := 0 }, rfl, (by decide +kernel), rfl, rfl, by decide, (by decide +kernel), (by decide +kernel), (by decide +kernel), ⟨fun _ _ => List.not_mem_nil, fun _ _ => List.not_mem_nil, by decide, by decide⟩, by decide⟩
    · exact ⟨arrayAt { current := some { chain1 0x1CE false with closing := some (.store 0 0), mmas := [{ a := 0, b := 64, k := 1, ext := 0x1CE, held := 0, pc := 0x1000, order := 0, scanned := true }] } }, 0, 0, _, { a := 0, b := 64, k := 1, ext := 0x1CE, held := 0, pc := 0x1000, order := 0, scanned := true }, rfl, (by decide +kernel), rfl, rfl, by decide, (by decide +kernel), (by decide +kernel), (by decide +kernel), ⟨fun _ _ => List.not_mem_nil, fun _ _ => List.not_mem_nil, by decide, by decide⟩, by decide⟩
  · exact ⟨arrayAt { current := some { chain1 0x1AD true with closing := some (.store 0 0) } }, 0, _, rfl, rfl, rfl, by decide⟩
  · intro bad
    cases bad
    · exact ⟨arrayAt { drain := some { chain1 0x1AD true with closing := some (.store 0 0) } }, 0, _, rfl, rfl, (by decide +kernel)⟩
    · exact ⟨arrayAt { drain := some { chain1 0x1CE true with closing := some (.store 0 0), cr := [(0, { v := 1 })] } }, 0, _, rfl, rfl, 0, by decide, (by decide +kernel), (by decide +kernel)⟩
  · exact ⟨arrayAt { drain := some { chain1 0x1CE true with closing := some (.redAcc 2 0), checked := true } }, 0, 2, 0, _, _, rfl, rfl, rfl, rfl, .inl rfl⟩
  · intro bad
    cases bad
    · exact ⟨arrayAt { drain := some { chain1 0x1AD true with closing := some (.store 0 0), checked := true } }, 0, 0, 0, _, rfl, rfl, rfl, (by decide +kernel), (by decide +kernel), (by decide +kernel)⟩
    · exact ⟨{ arrayAt { drain := some { chain1 0x1AD true with closing := some (.store 0 1), checked := true } } with mem := { lines := [(512, { present := true, s0 := { valid := true, dirty := true, parBad := true } })] } }, 0, 0, 1, _, rfl, rfl, rfl, (by decide +kernel), (by decide +kernel), (by decide +kernel)⟩
  · refine ⟨{ arrayAt { drained := [{ chain1 0x1AD true with merge := some 5 }, chain1 0x1AD true] } with hostReads := [⟨5, 1, [(0, 1)], .merge 0 [] [], 0⟩] }, 0, chain1 0x1AD true, [{ chain1 0x1AD true with merge := some 5 }], [], rfl, ?_, ?_, (by decide +kernel)⟩
    · exact fun x hx => ⟨_, List.mem_cons_self, by rw [List.mem_singleton.mp hx]⟩
    · rintro ⟨h, hh, e⟩
      cases e

/-- Every clause of ColumnChecksumsAgree has a state and operands that meet it. -/
theorem witness_ColumnChecksumsAgree :
    ∃ (ch : Chain) (ext : BitVec 32) (sts : List (List Elem × List Elem)) (j : Nat), j < 8 ∧ ch.pack = 0 ∧ ch.init = 0 ∧ ch.started = false ∧ ch.acc = [] ∧ ch.cr = [] ∧ ch.cc = [] ∧ ch.cn = [] ∧ ch.kind = .anchored ∧ ch.ext = some ext := by
  exact ⟨{ chain1 0x1CE false with mmas := [{ a := 0, b := 64, k := 1, ext := 0x1CE, held := 0, pc := 0x1000, order := 0, scanned := true }] }, _, [], 7, by decide, rfl, rfl, rfl, rfl, rfl, rfl, rfl, (by decide +kernel), rfl⟩

/-- Every clause of RootSteps has a state and operands that meet it. -/
theorem witness_RootSteps :
    (∀ ok : Bool, ∃ (s : State) (cl stream i : Nat) (w : BitVec 256) (rest : List (BitVec 256 × Bool)) (r : RedHandle), (NMap.get {} (s.cluster cl).streamOut stream).buf = (w, false) :: rest ∧ (NMap.get {} (s.cluster cl).streamOut stream).bound = some i ∧ (NMap.get {} (s.cluster cl).td i).red = some r ∧ r.root = true ∧ ((rwId w = r.redId ∧ rwElem w = (r.elemBase + r.arrivals) % r.words ∧ rwCount w = r.fabricContrib ∧ r.arrivals < r.words) ↔ ok = true)) ∧
    (∃ (s : State) (cl slot : Nat) (r : RedHandle), (NMap.get {} (s.cluster cl).td slot).red = some r ∧ r.root = true ∧ r.opActive = true ∧ (∀ e < r.words, r.takeWord.complete e = false)) ∧
    (∃ (r : RedHandle) (w : BitVec 256) (ws : List (BitVec 256)), r.fabricQ = w :: ws) ∧
    (∃ (s : State) (cl slot : Nat) (r : RedHandle), (NMap.get {} (s.cluster cl).td slot).red = some r ∧ r.root = true ∧ r.opActive = true ∧ (∀ e < r.words, NMap.get 0 r.delivered e = 1) ∧ (∀ h ∈ s.hostReads, h.id ∉ r.merges) ∧ (s.cluster cl).tdOps = [] ∧ ownerHere (s.cluster cl) r.creator = true) := by
  refine ⟨?_, ?_, ?_, ?_⟩
  · intro ok
    cases ok
    · exact ⟨rootAt 5, 0, 15, 2, 0x40000000000000000000000000000000000000, [], _, rfl, rfl, rfl, rfl, (by decide +kernel)⟩
    · exact ⟨rootAt 4, 0, 15, 2, 0x40000000000000000000000000000000000000, [], _, rfl, rfl, rfl, rfl, (by decide +kernel)⟩
  · exact ⟨rootAt 4, 0, 2, _, rfl, rfl, rfl, (by decide +kernel)⟩
  · exact ⟨{ red0 with fabricQ := [0] }, _, _, rfl⟩
  · exact ⟨rootDone, 0, 2, _, rfl, rfl, rfl, (by decide +kernel), (fun _ h => nomatch h), rfl, (by decide +kernel)⟩

/-- A fixed-line flit from site 0, and an arbitrated head-and-tail flit for the site across V. -/
def flit0 : Flit := mkFlit (flHdr 0 false) 0
def head0 : Flit := mkFlit (withHpar 13) (4 * 32768)

/-- Folio 0 in service in cycle 3, partition 0's region its gathering 0, a flit waiting at port 1 of site 0, and one route entry,
from port 1 to port 3 in slot 3 of 10. -/
def fabric0 (running : Bool) : State := { up0 with
  fab := {
    folio0 := { inService := true }, cycle := 3
    routers := [(0, { routes := [(0, BitVec.ofNat 64 (3 + 2 ^ 31 + 2 ^ 40 + 2 ^ 53))], fl := [⟨1, 3, flit0⟩], nextCycle := 3 })] }
  parts := [(0, { part0 with sched := some ([], 9), schedRunning := running, schedArmed := !running, schedC0 := if running then some 0 else none })] }

/-- The same with a packet that has waited since cycle 3 in cycle 67. -/
def waits0 : State := { up0 with
  fab := { folio0 := { inService := true }, cycle := 67, routers := [(0, { arb := [{ port := 0, vc := 0, outs := [5], rc := 3, flit := head0 }] })] } }

/-- Every clause of FabricSteps has a state and operands that meet it. -/
theorem witness_FabricSteps :
    (∃ (s s1 : State) (c cycle : Nat), s.toCycle cycle = some s1 ∧ siteValid c = true ∧ (s1.folio (siteFolio c)).inService = true ∧ (s1.router c).nextCycle ≤ cycle ∧ (∀ x ∈ (s1.router c).arbIn, cycle < x.cycle)) ∧
    (∃ (s : State) (c k p o n c0 period : Nat) (f : Flit) (w : BitVec 64), let cycle := s.fab.cycle
      Claims.standsAt s c p f ∧ runningAt s c cycle = some (c0, period) ∧ (s.router c).routes = [(k, w)] ∧ (s.router c).routeBad = [] ∧ (routeOf w).covers ((cycle - c0) % period) = true ∧ (routeOf w).reduce = false ∧ portsOf (routeOf w).inMask = [p] ∧ portsOf (routeOf w).outMask = [o] ∧ 1 ≤ o ∧ o ≤ 5 ∧ f.hdr.getLsbD 1 = true ∧ flitOk f = true ∧ fencedAt s c p f.hdr = false ∧ edgeClosed s c o = false ∧ neighbour c o = some n ∧ n ≠ c) ∧
    (∀ inPart : Bool, ∃ (s : State) (c p : Nat) (f : Flit), Claims.standsAt s c p f ∧ runningAt s c s.fab.cycle = none ∧ fencedAt s c p f.hdr = false ∧ (sitePart s c).isSome = inPart) ∧
    (∃ (s s1 : State) (p cycle : Nat), (s.part p).schedArmed = true ∧ ((s.part p).startTime s).toNat ≤ s.clk.master.toNat ∧ (s.part p).schedTick.toNat ≤ s.clk.master.toNat ∧ cycle = firstStart s (s.part p) ∧ s.toCycle cycle = some s1) ∧
    (∀ taken : Bool, ∃ (s s1 : State) (c port : Nat) (f : Flit), siteValid c = true ∧ (s.folio (siteFolio c)).inService = true ∧ hasPort c port = true ∧ f.hdr.getLsbD 0 = true ∧ f.hdr.getLsbD 1 = false ∧ takeArrival s c port f = some s1 ∧ (((s.router c).nextCycle ≤ s.fab.cycle ∧ consumedAt s c s.fab.cycle port = true) ↔ taken = true)) ∧
    (∃ (s s1 : State) (c port : Nat) (f : Flit), takeArrival s c port f = some s1 ∧
      let w := f.payload.toNat % 2 ^ 64
      let dest := w / 4 % 2 ^ 17
      let o := unicastOut c (flitSrc f.hdr) dest
      f.hdr.getLsbD 2 = true ∧ flitOk f = true ∧ hparOf f.hdr.toNat = f.hdr.toNat / 2 ^ 28 ∧ w % 4 = 0 ∧ siteValid dest = true ∧ renameRoute s c w = w ∧ fencedAt s c port f.hdr = false ∧ edgeClosed s c o = false ∧ (o = 5 → (s.router c).vBroken = false)) ∧
    (∃ (s : State) (c n : Nat) (a : ArbFlit), (s.router c).arb[n]? = some a ∧ a.aged = false ∧ a.rc + 64 ≤ s.fab.cycle) := by
  have stands (run : Bool) (ps : NMap Part) : Claims.standsAt { fabric0 run with parts := ps } 0 1 flit0 :=
    ⟨by decide +kernel, rfl, Nat.le_refl 3, rfl, (fun _ h => nomatch h), rfl, rfl, rfl⟩
  refine ⟨?_, ?_, ?_, ?_, ?_, ?_, ?_⟩
  · exact ⟨fabric0 true, _, 0, 3, rfl, (by decide +kernel), rfl, by decide, (fun _ h => nomatch h)⟩
  · exact ⟨fabric0 true, 0, 0, 1, 3, _, 0, 10, flit0, _, stands true _, (by decide +kernel), rfl, rfl, (by decide +kernel), (by decide +kernel), (by decide +kernel), (by decide +kernel), by decide, by decide, (by decide +kernel), (by decide +kernel), (by decide +kernel), (by decide +kernel), rfl, (by decide +kernel)⟩
  · intro b
    cases b
    · exact ⟨{ fabric0 false with parts := [] }, 0, 1, flit0, stands false [], (by decide +kernel), (by decide +kernel), (by decide +kernel)⟩
    · exact ⟨fabric0 false, 0, 1, flit0, stands false _, (by decide +kernel), (by decide +kernel), (by decide +kernel)⟩
  · exact ⟨fabric0 false, _, 0, 3, rfl, (by decide +kernel), (by decide +kernel), (by decide +kernel), rfl⟩
  · intro b
    cases b
    · exact ⟨fabric0 true, _, 0, 0, head0, (by decide +kernel), rfl, (by decide +kernel), (by decide +kernel), (by decide +kernel), some_get (by decide +kernel), (by decide +kernel)⟩
    · exact ⟨{ fabric0 true with fab := { (fabric0 true).fab with routers := [(0, { (fabric0 true).router 0 with arbIn := [⟨1, 3, head0⟩] })] } }, _, 0, 1, head0, (by decide +kernel), rfl, (by decide +kernel), (by decide +kernel), (by decide +kernel), some_get (by decide +kernel), (by decide +kernel)⟩
  · exact ⟨fabric0 false, _, 0, 0, head0, some_get (by decide +kernel), (by decide +kernel)⟩
  · exact ⟨waits0, 0, 0, _, rfl, rfl, by decide⟩

/-- Every clause of UnicastComesNearer has a state and operands that meet it. -/
theorem witness_UnicastComesNearer :
    ∃ c d src : Nat, siteValid c = true ∧ siteValid d = true ∧ siteFolio c = siteFolio d := by
  exact ⟨0, 51517, 0, (by decide +kernel)⟩

/-- Every clause of ReduceCombines has a state and operands that meet it. -/
theorem witness_ReduceCombines :
    ∃ (c p q : Nat) (e : Route) (f g : Flit), e.reduce = true ∧ c < 2 ^ 17 ∧ rwId f.payload = rwId g.payload ∧ rwElem f.payload = rwElem g.payload ∧ flitOk f = true ∧ flitOk g = true := by
  exact ⟨131071, 1, 2, routeOf (BitVec.ofNat 64 (2 ^ 44)), flit0, flit0, (by decide +kernel), by decide, rfl, rfl, (by decide +kernel), (by decide +kernel)⟩

/-! ### Witnesses: spine, stacks and near-bank units -/

/-- A line whose sectors are valid and clean, with a directory entry. -/
def line0 (d : Dir) : SLine := { present := true, s0 := { valid := true }, s1 := { valid := true }, s2 := { valid := true }, s3 := { valid := true }, dir := d }

/-- A memory whose slices hold line 8 only. -/
def mem8 (d : Dir) (l1 : NMap L1) : MemSys := { lines := [(8, line0 d)], l1 := l1 }

/-- An L1 with line 8, its sector 1 dirty where `dirty` is set. -/
def l1of (dirty : Bool) : L1 := {
  lines := [(8, { present := true, s1 := { mask := BitVec.allOnes 32, dmask := if dirty then BitVec.allOnes 32 else 0, data := 5 } })] }

theorem settled8 (d : Dir) (l1 : NMap L1) : Claims.Settled (mem8 d l1) 8 where
  cached := by decide
  present := rfl
  free := rfl
  tags := fun k => by
    by_cases h : 8 = k <;> simp [MemSys.lineAt, mem8, line0, NMap.get, h]
  normal := fun a _ => by simp [isNbRaw, isRaw, mem8]

theorem outer8 (b : Bool) (n : Nat) (h : 0 < n ∧ 1024 % 32 + n ≤ 32) : Claims.outerAccess { up0 with mem := mem8 .unc [] } 1024 n b :=
  ⟨rfl, h.1, h.2, by simp [spanHeld, rangeOf, mem8], rfl, settled8 _ _, ⟨rfl, rfl, rfl⟩, rfl, rfl⟩

/-- A transaction of cluster 3's OWN on line 8 with these snoops. -/
def txn8 (sn : List Snoop) : State := { up0 with mem := { mem8 (.sh [4]) [] with
  txns := [{ line := 8, req := .own 3 [⟨1, 0xFF, 7⟩], snoops := sn }] } }

/-- Every clause of FramesAndAdmission has a state and operands that meet it. -/
theorem witness_FramesAndAdmission :
    (∃ (s s1 : State), (s.up = true ∨ s.clk.pllLock = true) ∧ s.reach s.frameEnd (s.frameEnd + 1) = some s1 ∧ NMap.wf {} s.spine.tokens = true ∧ NMap.wf none s.spine.buckets = true) ∧
    (∃ (s s1 : State) (slice cycle : Nat) (arrived : List SliceReq), let q := s.sliceQ slice
      s.up = true ∧ slice < 256 ∧ (∀ r ∈ arrived, homeSlice s.mem (r.line * 128) = slice) ∧ (if cycle = s.spineCycle then some s else s.toCycle (fabricCycleOf cycle)) = some s1 ∧ q.cycle ≤ cycle ∧ q.admitted ≤ 32 ∧ q.queue.length ≤ 1024) ∧
    (∀ held : Bool, ∃ (s s1 : State) (chan cycle : Nat) (arrived : List SliceReq), let q := s.chanQ chan
      s.up = true ∧ chan < 256 ∧ (∀ r ∈ arrived, rangeOf (r.line * 128) = .dram ∧ chanOf (r.line * 128) = chan) ∧ (if cycle = s.spineCycle then some s else s.toCycle (fabricCycleOf cycle)) = some s1 ∧ q.cycle ≤ cycle ∧ q.queue.length ≤ 64 ∧ heldCycle s (5 + chan / 32) cycle = held) := by
  refine ⟨?_, ?_, ?_⟩
  · exact ⟨up0, _, .inl rfl, some_get (by decide +kernel), rfl, rfl⟩
  · exact ⟨{ up0 with spine := { sliceQ := [(homeSlice {} 1024, { admitted := 32 })] } }, _, homeSlice {} 1024, 2, [⟨0, none, 8, .rd 0 1, 0⟩], rfl, (by decide +kernel), (by decide +kernel), some_get (by decide +kernel), (by decide +kernel), (by decide +kernel), (by decide +kernel)⟩
  · intro b
    cases b
    · exact ⟨up0, _, chanOf 1024, 2, [⟨0, none, 8, .rd 0 1, 0⟩], rfl, (by decide +kernel), (by decide +kernel), some_get (by decide +kernel), (by decide +kernel), (by decide +kernel), (by decide +kernel)⟩
    · exact ⟨{ up0 with pwr := { levels := [(5 + chanOf 1024 / 32, 15)] } }, _, chanOf 1024, 2, [⟨0, none, 8, .rd 0 1, 0⟩], rfl, (by decide +kernel), (by decide +kernel), some_get (by decide +kernel), (by decide +kernel), (by decide +kernel), (by decide +kernel)⟩

/-- Every clause of CoherenceRequests has a state and operands that meet it. -/
theorem witness_CoherenceRequests :
    (∃ (s : State) (cl ln : Nat) (secs : BitVec 4), s.up = true ∧ cl < 75000 ∧ secs ≠ 0 ∧ Claims.Settled s.mem ln ∧ s.firstFor ln = none ∧ cl ∉ s.mem.vertOut ∧ (∀ o, (s.mem.lineAt ln).dir ≠ .own o) ∧ (∀ i < 4, secs.getLsbD i = true → Claims.sound ((s.mem.lineAt ln).sec i)) ∧ s.mem.l1Line cl ln = {} ∧ ((s.mem.l1At cl).lines.filter fun e => e.1 % 16 = ln % 16).length < 4) ∧
    (∃ (s : State) (cl o ln : Nat) (secs : BitVec 4), s.up = true ∧ cl < 75000 ∧ secs ≠ 0 ∧ Claims.Settled s.mem ln ∧ s.firstFor ln = none ∧ (s.mem.lineAt ln).dir = .own o ∧ o ≠ cl) ∧
    (∃ (s : State) (cl ln : Nat) (p : SecPart), s.up = true ∧ cl < 75000 ∧ Claims.Settled s.mem ln ∧ s.firstFor ln = none ∧ p.sec < 4 ∧ s.mem.ropeHolds (ln * 128) = false ∧ s.mem.rsv ln = false ∧ ((s.mem.lineAt ln).dir = .unc ∨ (s.mem.lineAt ln).dir = .sh [cl]) ∧ s.mem.l1Line cl ln = {} ∧ ((s.mem.l1At cl).lines.filter fun e => e.1 % 16 = ln % 16).length < 4) ∧
    (∃ (s : State) (cl ln : Nat) (cs : List Nat) (ps : List SecPart), s.up = true ∧ cl < 75000 ∧ Claims.Settled s.mem ln ∧ s.firstFor ln = none ∧ (∀ p ∈ ps, p.sec < 4) ∧ s.mem.ropeHolds (ln * 128) = false ∧ s.mem.rsv ln = false ∧ (s.mem.lineAt ln).dir = .sh cs ∧ (cs.filter fun k => k ≠ cl) ≠ []) ∧
    (∃ (s : State) (cl ln : Nat), s.up = true ∧ (s.mem.l1Line cl ln).present = true ∧ l1Carried (s.mem.l1Line cl ln) = [] ∧ s.mem.lineBusy ln = false ∧ s.firstFor ln = none) ∧
    (∃ (s : State) (cl ln i : Nat) (d : BitVec 256) (bad : Bool), s.up = true ∧ Claims.Settled s.mem ln ∧ s.firstFor ln = none ∧ (s.mem.l1Line cl ln).present = true ∧ l1Carried (s.mem.l1Line cl ln) = [(⟨i, BitVec.allOnes 32, d⟩, bad)]) := by
  refine ⟨?_, ?_, ?_, ?_, ?_, ?_⟩
  · exact ⟨{ up0 with mem := mem8 (.sh [4]) [] }, 74999, 8, 15, rfl, by decide, by decide, settled8 _ _, rfl, by decide, (fun _ h => nomatch h), (by unfold Claims.sound; decide), rfl, by decide⟩
  · exact ⟨{ up0 with mem := mem8 (.own 4) [] }, 3, 4, 8, 1, rfl, by decide, by decide, settled8 _ _, rfl, rfl, by decide⟩
  · exact ⟨{ up0 with mem := mem8 (.sh [3]) [] }, 3, 8, ⟨3, 0xFF, 7⟩, rfl, by decide, settled8 _ _, rfl, by decide, rfl, rfl, Or.inr rfl, rfl, by decide⟩
  · exact ⟨{ up0 with mem := mem8 (.sh [3, 4]) [] }, 3, 8, _, [⟨0, 1, 7⟩], rfl, by decide, settled8 _ _, rfl, by decide, rfl, rfl, rfl, by decide⟩
  · exact ⟨{ up0 with mem := mem8 (.sh [3]) [(3, l1of false)] }, 3, 8, rfl, rfl, (by decide +kernel), rfl, rfl⟩
  · exact ⟨{ up0 with mem := mem8 (.own 3) [(3, l1of true)] }, 3, 8, 1, 5, false, rfl, settled8 _ _, rfl, rfl, (by decide +kernel)⟩

/-- Every clause of CoherenceAnswers has a state and operands that meet it. -/
theorem witness_CoherenceAnswers :
    (∀ k : SnoopKind, ∃ (s : State) (x : Txn) (cl : Nat), s.mem.txns = [x] ∧ x.snoops = [{ cl := cl, kind := k }] ∧ NMap.get {} (s.mem.l1At cl).wbuf x.line = {}) ∧
    (∃ (s : State) (x : Txn) (n m : Snoop), s.mem.txns = [x] ∧ x.snoops = [n, m] ∧ n.cl ≠ m.cl ∧ n.answered = true ∧ n.carried = [] ∧ (∀ ds, (s.mem.lineAt x.line).dir ≠ .shc ds)) ∧
    (∃ (s : State) (ln cl : Nat) (n : Snoop) (p : SecPart), s.mem.txns = [{ line := ln, req := .own cl [p], snoops := [n] }] ∧ n.answered = true ∧ n.carried = [] ∧ p.sec < 4 ∧ (s.mem.lineAt ln).present = true ∧ (∀ ds, (s.mem.lineAt ln).dir ≠ .shc ds) ∧ isNbRaw s.mem (ln * 128) = false ∧ s.firstFor ln = none ∧ s.mem.l1Line cl ln = {} ∧ ((s.mem.l1At cl).lines.filter fun e => e.1 % 16 = ln % 16).length < 4) := by
  refine ⟨?_, ?_, ?_⟩
  · exact fun k => ⟨txn8 [{ cl := 4, kind := k }], _, 4, rfl, rfl, rfl⟩
  · exact ⟨txn8 [{ cl := 4, kind := .inv, answered := true }, { cl := 5, kind := .inv }], _, _, _, rfl, rfl, by decide, rfl, rfl, fun _ h => nomatch h⟩
  · exact ⟨txn8 [{ cl := 4, kind := .inv, answered := true }], 8, 3, _, _, rfl, rfl, rfl, by decide, rfl, (fun _ h => nomatch h), rfl, rfl, rfl, by decide⟩

/-- Every clause of OuterAgentAccess has a state and operands that meet it. -/
theorem witness_OuterAgentAccess :
    (∃ (s : State) (a : Nat) (op : SliceOp), let n := sliceOpWidth op
    a % n = 0 ∧ Claims.outerAccess s a n true) ∧
    (∃ (s : State) (a : Nat) (bs : List Byte), Claims.outerAccess s a bs.length true) ∧
    (∃ (s : State) (a n o : Nat) (d : BitVec 256), s.up = true ∧ 0 < n ∧ a % 32 + n ≤ 32 ∧ spanHeld s a n false = false ∧ s.firstFor (a / 128) = none ∧ Claims.Settled s.mem (a / 128) ∧ (s.mem.lineAt (a / 128)).dir = .own o ∧ NMap.get {} (s.mem.l1At o).wbuf (a / 128) = {} ∧ (s.mem.l1Line o (a / 128)).present = true ∧ l1Carried (s.mem.l1Line o (a / 128)) = [(⟨a % 128 / 32, BitVec.allOnes 32, d⟩, false)]) := by
  refine ⟨?_, ?_, ?_⟩
  · exact ⟨_, 1024, .addX128 1, rfl, outer8 true 16 (by decide)⟩
  · exact ⟨_, 1024, List.replicate 32 0, outer8 true 32 (by decide)⟩
  · exact ⟨{ up0 with mem := mem8 (.own 3) [(3, l1of true)] }, 1056, 32, 3, 5, rfl, by decide, by decide, by simp [spanHeld, rangeOf, mem8], rfl, settled8 _ _, rfl, rfl, rfl, (by decide +kernel)⟩

/-- Every clause of ScrubAndLostData has a state and operands that meet it. -/
theorem witness_ScrubAndLostData :
    (∃ (s : State) (slice : Nat), s.up = true ∧ slice < 256 ∧ s.mem.slcScrubEn = true ∧ (∀ i < 4, linesOfSet s.mem slice (NMap.get 0 s.mem.scrubSet slice + i) = [])) ∧
    (∃ (t : BitVec 64) (m : MemSys) (ln i : Nat) (x : Sector), i < 4 ∧ (m.lineAt ln).present = true ∧ (m.lineAt ln).tagBad = false ∧ (m.lineAt ln).dirBad = false ∧ (m.lineAt ln).sec i = x ∧ x.valid = true ∧ x.parBad = true ∧ x.dirty = true ∧ (∀ j < 4, j ≠ i → ((m.lineAt ln).sec j).valid = false)) ∧
    (∃ (s : State) (slice : Nat) (rest : List Nat), s.up = true ∧ s.mem.lost = slice :: rest) := by
  refine ⟨?_, ?_, ?_⟩
  · exact ⟨up0, 255, rfl, by decide, rfl, (by decide +kernel)⟩
  · exact ⟨0, { lines := [(8, { present := true, s3 := { valid := true, dirty := true, parBad := true } })] }, 8, 3, _, by decide, rfl, rfl, rfl, rfl, rfl, rfl, rfl, (by decide +kernel)⟩
  · exact ⟨{ up0 with mem := { lost := [7] } }, 7, [], rfl, rfl⟩

/-- The words of a near-bank command: two rows or elements, rows of two bytes, in the blocks of channel 255's slice, parameter
PARAM = `p`. -/
def nbWords (opc ofmt p : Nat) : List Byte :=
  let b := 0x6000000000 + 0x20000000 * chanToSlice 255
  leBytes opc 1 ++ leBytes 0x0D 1 ++ leBytes 0 1 ++ leBytes ofmt 1 ++ leBytes 2 4 ++ leBytes b 8 ++ leBytes (b + 0x10000) 8 ++
    leBytes (b + 0x20000) 8 ++ leBytes (b + 0x30000) 8 ++ leBytes 2 4 ++ leBytes 2 4 ++ leBytes p 4 ++ leBytes 0 12

def nbCmd (opc ofmt p : Nat) : NbCmd := { slot := 0, words := nbWords opc ofmt p }

/-- Channel 255 in near-bank mode under partition 63, whose allocations and raw region cover its block, with the commands in
front. -/
def near (q : List NbCmd) : State := { up0 with
  mem := { nbu := [(255, { nb := true, enter := true, version := 1, owner := 63, ownerValid := true, queue := q })]
           raws := [(0, ⟨0x30000, 0x10000, true⟩)] }
  parts := [(63, { part0 with allocs := [(0, ⟨0x6000000, 0x2000000, 1⟩)] })] }

/-- The same channel during an entry with this VERSION, line `ln` anchored in the slices if there is one. -/
def entering (v : BitVec 4) (work : Bool) (ln : Option Nat) : MemSys := {
  nbu := [(255, { enter := true, version := v, busy := true, owner := 63, ownerValid := true })]
  raws := [(0, ⟨0x30000, 0x10000, true⟩)]
  rawWork := if work then some ⟨⟨0, 0, 0⟩, 0, {}⟩ else none
  lines := match ln with | some l => [(l, { present := true, anchored := some 0 })] | none => [] }

theorem front (opc ofmt p : Nat) (h : (nbFields (nbWords opc ofmt p)).opc = opc ∧ (nbFields (nbWords opc ofmt p)).bad = false) :
    Claims.nbFront (near [nbCmd opc ofmt p]) 255 opc (nbCmd opc ofmt p) [] :=
  ⟨rfl, rfl, rfl, rfl, h⟩

/-- Every clause of StackController has a state and operands that meet it. -/
theorem witness_StackController :
    (∃ (s : State) (a : Nat) (d : BitVec 256) (poison : Bool), s.up = true ∧ rangeOf a = .dram ∧ (∀ r ∈ (s.chanQ (chanOf a)).queue, r.line ≠ a / 128)) ∧
    (∃ (s : State) (a : Nat), s.up = true ∧ rangeOf a = .dram ∧ (∀ r ∈ (s.chanQ (chanOf a)).queue, r.line ≠ a / 128)) ∧
    (∃ (s : State) (chan a i e : Nat), s.up = true ∧ s.mem.corrWb = [a] ∧ a % 32 = 0 ∧ chanOf a = chan ∧ isRaw s.mem a = false ∧ eccDecode (s.mem.dramSector a) (s.mem.dramSectorEcc a) = .corrected i e) ∧
    (∃ (s : State) (chan : Nat), s.up = true ∧ chan < 256 ∧ s.mem.mstScrubEn = true ∧ s.mem.raws = [] ∧ (∀ h ∈ s.holds, h.stk.getLsbD (chan / 32) = false) ∧ let n := NMap.get 0 s.mem.scrubL chan
    let sector (k : Nat) : Nat := lineAddr chan ((n + k) % 2 ^ 26 / 4) + 32 * ((n + k) % 2 ^ 26 % 4)
    n < 2 ^ 26 ∧ (∀ k < 4, eccDecode (s.mem.dramSector (sector k)) (s.mem.dramSectorEcc (sector k)) = .clean)) ∧
    (∃ (s : State) (k : Nat) (temp : Int), k < 8 ∧ s.clk.pllLock = true ∧ s.rst.pwrEn = true ∧ -128 ≤ temp ∧ temp < 110) ∧
    ((∀ temp ∈ ([85, 86, 95, 96, 100, 101, 109] : List Int), -128 ≤ temp ∧ temp < 110 ∧ (100 < temp ∨ (95 < temp ∧ temp ≤ 100) ∨ (85 < temp ∧ temp ≤ 95) ∨ temp ≤ 85))) := by
  refine ⟨?_, ?_, ?_, ?_, ?_, ?_⟩
  · exact ⟨up0, 0x7FFFFFFFFF, 0, true, rfl, rfl, (by decide +kernel)⟩
  · exact ⟨up0, 0, rfl, rfl, (by decide +kernel)⟩
  · exact ⟨{ up0 with mem := { corrWb := [0], dramEcc := [(0, 1)] } }, _, 0, 32, 1, rfl, rfl, rfl, rfl, rfl, (by decide +kernel)⟩
  · exact ⟨{ up0 with mem := { scrubL := [(255, 2 ^ 26 - 1)] } }, 255, rfl, by decide, rfl, rfl, (by decide +kernel), (by decide +kernel)⟩
  · exact ⟨{ up0 with clk := { pllLock := true } }, 7, -128, by decide⟩
  · decide

/-- Every clause of CheckCodeCorrectsOneSymbol has a state and operands that meet it. -/
theorem witness_CheckCodeCorrectsOneSymbol :
    ∃ (d d' : BitVec 256) (ecc : BitVec 32) (i e : Nat), i < 36 ∧ 0 < e ∧ e < 256 ∧ symbolsOf d' ecc = (symbolsOf d (checkCode d)).modify i (· ^^^ e) := by
  exact ⟨0, 0, 255 * 2 ^ 24, 35, 255, by decide, by decide, by decide, (by decide +kernel)⟩

/-- Every clause of NearBankMode has a state and operands that meet it. -/
theorem witness_NearBankMode :
    (∃ (s : State) (c p : Nat), let n := s.mem.nbuAt c
      n.foreignTo p = false ∧ n.nb = false ∧ n.busy = false) ∧
    (∃ (s : State) (c p : Nat), let n := s.mem.nbuAt c
      n.ownerValid = true ∧ n.owner.toNat ≠ p) ∧
    (∀ k < 4, ∃ (m : MemSys) (c : Nat), let n := m.nbuAt c
      n.busy = true ∧ n.nb = false ∧
      (if k = 0 then n.version ≠ 1
        else n.version = 1 ∧ rawChanging m c = (k == 1) ∧
          (if k = 2 then ∃ ln ∈ rawLinesOf m c, (m.lineAt ln).anchored ≠ none
            else ¬ (∃ ln ∈ rawLinesOf m c, (m.lineAt ln).anchored ≠ none) ∧ n.enter = true ∧ ∀ ln ∈ rawLinesOf m c, m.lineBusy ln = false))) ∧
    (∃ (s : State) (c p : Nat), let n := s.mem.nbuAt c
      n.nb = true ∧ n.foreignTo p = false) ∧
    (∀ e : Bool, ∃ (m : MemSys) (c : Nat), let n := m.nbuAt c
      n.busy = true ∧ n.nb = true ∧ (n.queue.isEmpty = e)) ∧
    (∃ (s : State) (c p sl : Nat), let n := s.mem.nbuAt c
      n.nb = true ∧ n.enter = true ∧ n.busy = false ∧ n.ownerValid = true ∧ n.owner.toNat = p ∧ sl < 16 ∧ (NMap.get {} n.slotStat sl).busy = false) ∧
    (∃ (s : State) (c : Nat) (cmd : NbCmd) (rest : List NbCmd), let n := s.mem.nbuAt c
      n.queue = cmd :: rest ∧ (cmd.finished = true ∨ cmd.status ≠ 0)) := by
  refine ⟨?_, ?_, ?_, ?_, ?_, ?_, ?_⟩
  · exact ⟨up0, 255, 63, (by decide +kernel)⟩
  · exact ⟨near [], 255, 0, (by decide +kernel)⟩
  · intro k hk
    match k, hk with
    | 0, _ => exact ⟨entering 0 false none, 255, (by decide +kernel)⟩
    | 1, _ => exact ⟨entering 1 true none, 255, (by decide +kernel)⟩
    | 2, _ => exact ⟨entering 1 false (some ((0x6000000000 + 0x20000000 * chanToSlice 255) / 128)), 255, (by decide +kernel)⟩
    | 3, _ => exact ⟨entering 1 false none, 255, (by decide +kernel)⟩
  · exact ⟨near [], 255, 63, (by decide +kernel)⟩
  · exact fun e => ⟨(entering 1 false none).setNbu 255 { (near (if e then [] else [nbCmd 0 0 0])).mem.nbuAt 255 with busy := true }, 255, by cases e <;> decide +kernel⟩
  · exact ⟨near [nbCmd 0 0 0], 255, 63, 15, (by decide +kernel)⟩
  · exact ⟨near [{ nbCmd 0 0 0 with finished := true }], 255, _, _, rfl, .inl rfl⟩

/-- Every clause of NearBankCommands has a state and operands that meet it. -/
theorem witness_NearBankCommands :
    (∃ (s : State) (c : Nat) (cmd : NbCmd) (rest : List NbCmd), Claims.nbFront s c 0x00 cmd rest) ∧
    (∃ (s : State) (c : Nat) (cmd : NbCmd) (rest : List NbCmd), let f := nbFields cmd.words
    let al := (s.part (s.mem.nbuAt c).owner.toNat).allocs
    let index (i : Nat) : Nat := nbGet s.mem (f.index + 4 * i) 4
    Claims.nbFront s c 0x01 cmd rest ∧ (∀ i < f.count, nbIndexStatus s.mem al c f (index i) = 0) ∧ Claims.nbApart f f.table (f.rows * f.rowBytes)) ∧
    (∃ (s : State) (c : Nat) (cmd : NbCmd) (rest : List NbCmd), let f := nbFields cmd.words
    let al := (s.part (s.mem.nbuAt c).owner.toNat).allocs
    let index (i : Nat) : Nat := nbGet s.mem (f.index + 4 * i) 4
    Claims.nbFront s c 0x02 cmd rest ∧ (∀ i < f.count, nbIndexStatus s.mem al c f (index i) = 0)) ∧
    (∃ (s : State) (c : Nat) (cmd : NbCmd) (rest : List NbCmd), let f := nbFields cmd.words
    let al := (s.part (s.mem.nbuAt c).owner.toNat).allocs
    let index (i : Nat) : Nat := nbGet s.mem (f.index + 4 * i) 4
    Claims.nbFront s c 0x03 cmd rest ∧ (∀ i < f.count, nbIndexStatus s.mem al c f (index i) = 0) ∧ (f.index + 4 * f.count ≤ f.table ∨ f.table + f.rows * f.rowBytes ≤ f.index) ∧ (f.weights + f.count * f.rowBytes ≤ f.table ∨ f.table + f.rows * f.rowBytes ≤ f.weights)) ∧
    (∃ (s : State) (c : Nat) (cmd : NbCmd) (rest : List NbCmd), Claims.nbFront s c 0x04 cmd rest) ∧
    (∃ (s : State) (c : Nat) (cmd : NbCmd) (rest : List NbCmd), let f := nbFields cmd.words
    Claims.nbFront s c 0x05 cmd rest ∧ f.k ≤ f.count) ∧
    (∃ (s : State) (c : Nat) (cmd : NbCmd) (rest : List NbCmd), Claims.nbFront s c 0x06 cmd rest) ∧
    (∃ (s : State) (c : Nat) (cmd : NbCmd) (rest : List NbCmd), Claims.nbFront s c 0x07 cmd rest) := by
  refine ⟨?_, ?_, ?_, ?_, ?_, ?_, ?_, ?_⟩
  · exact ⟨_, 255, _, [], front 0 0 0 (by decide +kernel)⟩
  · exact ⟨near [nbCmd 1 0 0], 255, nbCmd 1 0 0, [], front 1 0 0 (by decide +kernel), (by decide +kernel), Or.inr (by decide +kernel)⟩
  · exact ⟨near [nbCmd 2 0x0F 0], 255, nbCmd 2 0x0F 0, [], front 2 0x0F 0 (by decide +kernel), (by decide +kernel)⟩
  · exact ⟨near [nbCmd 3 0 0], 255, nbCmd 3 0 0, [], front 3 0 0 (by decide +kernel), (by decide +kernel), (by decide +kernel), (by decide +kernel)⟩
  · exact ⟨_, 255, _, [], front 4 0 0 (by decide +kernel)⟩
  · exact ⟨_, 255, nbCmd 5 0 0x10000, [], front 5 0 0x10000 (by decide +kernel), (by decide +kernel)⟩
  · exact ⟨_, 255, _, [], front 6 0 0 (by decide +kernel)⟩
  · exact ⟨_, 255, _, [], front 7 0 0 (by decide +kernel)⟩

/-! ### Witnesses: host port, queues and host commands -/

theorem serving0 (f : Nat) : Claims.serving up0 f := ⟨rfl, rfl, rfl⟩

/-- An OPEN queue of 16 places a ring. -/
def openQ : Queue := { state := 1, enable := true, sqLog2 := 4, cqLog2 := 4, version := 1 }

/-- Host memory read for a scalar register of the group of core0, and for an entry of queue (64, 15). -/
def readScalar : State := { core0 with hostReads := [⟨5, 1, [(0, 4)], .scalar g0 3 0x1000, 0⟩] }
def readEntry : State := { up0 with queues := [(1039, { openQ with fetching := true })], hostReads := [⟨5, 64, [(0, 64)], .entry 64 15, 0⟩] }

/-- Every clause of RegisterAccess has a state and operands that meet it. -/
theorem witness_RegisterAccess :
    (∃ (s : State) (f off size : Nat) (r : Reg), Claims.bar0 s f off size r 0 ∧ off % 8 = 0 ∧ 1 < (regWords s r).length ∧ (∀ w, r ≠ .retained w)) ∧
    (∃ (s : State) (f off size w : Nat) (r : Reg) (x : BitVec 64), Claims.bar0 s f off size r w ∧ 0 < w ∧ 1 < (regWords s r).length ∧ captured s f r w = some x ∧ (∀ i, r ≠ .peek i) ∧ (∀ k, r ≠ .retained k)) ∧
    (∃ (s : State) (f off size : Nat) (r : Reg), Claims.bar0 s f off size r 0 ∧ (regWords s r).length = 1 ∧ rcFields r = [] ∧ (∀ k, r ≠ .retained k)) ∧
    (∃ (s : State) (port : Nat), Claims.serving s 0 ∧ port < 4) ∧
    (∃ (s : State) (n : Nat) (v : BitVec 64), Claims.serving s 0 ∧ n < 16 ∧ regStopped s (.backup n) = false) ∧
    (∃ (s : State) (v : BitVec 64), Claims.serving s 0 ∧ regStopped s .event = false) ∧
    (∃ (s : State) (f off size w : Nat) (r : Reg), Claims.serving s f ∧ 1 ≤ f ∧ f ≤ 64 ∧ bar0Ok off size = true ∧ regAt s off = some (r, w) ∧ vfSees s f r = false) ∧
    (∀ ok : Bool, ∃ (s : State) (f off size : Nat), Claims.serving s f ∧ f ≤ 64 ∧ bar0Ok off size = ok) ∧
    (∃ s : State, Claims.serving s 0) := by
  refine ⟨?_, ?_, ?_, ?_, ?_, ?_, ?_, ?_, ?_⟩
  · exact ⟨up0, 0, 0x1020, 4, .hangLog, ⟨⟨rfl, rfl, rfl⟩, by decide, (by decide +kernel), (by decide +kernel), (by decide +kernel), (by decide +kernel)⟩, by decide, (by decide +kernel), fun _ h => nomatch h⟩
  · exact ⟨{ up0 with host := { captures := [(64, some ⟨3087, [1, 2, 3, 4]⟩)] } }, 64, 0x24000 + 0x40 * 1039 + 0x18, 8, 3, .qcfg 64 15, 4, ⟨⟨rfl, rfl, rfl⟩, by decide, (by decide +kernel), (by decide +kernel), (by decide +kernel), (by decide +kernel)⟩, by decide, (by decide +kernel), (by decide +kernel), (fun _ h => nomatch h), fun _ h => nomatch h⟩
  · exact ⟨up0, 64, 4, 4, .devId, ⟨⟨rfl, rfl, rfl⟩, by decide, (by decide +kernel), (by decide +kernel), (by decide +kernel), (by decide +kernel)⟩, (by decide +kernel), rfl, fun _ h => nomatch h⟩
  · exact ⟨up0, 3, serving0 _, by decide⟩
  · exact ⟨up0, 15, 1, serving0 _, by decide, (by decide +kernel)⟩
  · exact ⟨up0, 1, serving0 _, (by decide +kernel)⟩
  · exact ⟨up0, 64, 0x40000, 8, 0, .rstStatus, serving0 _, by decide, by decide, (by decide +kernel), (by decide +kernel), (by decide +kernel)⟩
  · exact fun ok => ⟨up0, 0, if ok then 4 else 2, 4, serving0 _, by decide, by cases ok <;> decide +kernel⟩
  · exact ⟨up0, serving0 _⟩

/-- Every clause of HostMemoryAccess has a state and operands that meet it. -/
theorem witness_HostMemoryAccess :
    (∃ (s : State) (f off n a : Nat), Claims.bar4Free s f ∧ bar4Addr s f off n = some a ∧ Claims.outerAccess s a n false) ∧
    (∃ (s : State) (f off a : Nat) (bs : List Byte), Claims.bar4Free s f ∧ bar4Addr s f off bs.length = some a ∧ Claims.outerAccess s a bs.length true) ∧
    (∃ (s : State) (f off a size : Nat) (op : PcieAtomic) (x y : BitVec 64) (sop : SliceOp), Claims.bar4Free s f ∧ pcieSliceOp op size x y = some sop ∧ off % size = 0 ∧ a % size = 0 ∧ bar4Addr s f off size = some a ∧ Claims.outerAccess s a size true) ∧
    (∃ (s : State) (f off n a : Nat) (x : Bar4Req) (xs : List Bar4Req), Claims.serving s f ∧ f ≤ 64 ∧ bar4Addr s f off n = some a ∧ s.host.bar4 = x :: xs ∧ bar4MayGo s x = false) ∧
    (∃ (s : State) (f bar : Nat), Claims.serving s f ∧ f ≤ 64 ∧ (bar = 0 ∨ bar = 2 ∨ bar = 4)) ∧
    (∃ (s : State) (f off n a : Nat), 1 ≤ f ∧ bar4Addr s f off n = some a) := by
  refine ⟨?_, ?_, ?_, ?_, ?_, ?_⟩
  · exact ⟨{ up0 with mem := mem8 .unc [] }, 0, 1024, 32, 1024, ⟨⟨rfl, rfl, rfl⟩, by decide, rfl, rfl⟩, (by decide +kernel), outer8 false 32 (by decide)⟩
  · exact ⟨{ up0 with mem := mem8 .unc [] }, 0, 1024, 1024, [1], ⟨⟨rfl, rfl, rfl⟩, by decide, rfl, rfl⟩, (by decide +kernel), outer8 true 1 (by decide)⟩
  · exact ⟨{ up0 with mem := mem8 .unc [] }, 0, 1024, 1024, 8, .cas, 1, 2, .cas64 1 2, ⟨⟨rfl, rfl, rfl⟩, by decide, rfl, rfl⟩, rfl, (by decide +kernel), (by decide +kernel), (by decide +kernel), outer8 true 8 (by decide)⟩
  · exact ⟨{ txn8 [] with host := { bar4 := [⟨0, 1024, .read 32⟩] } }, 0, 4096, 32, 4096, _, [], ⟨rfl, rfl, rfl⟩, by decide, (by decide +kernel), rfl, (by decide +kernel)⟩
  · exact ⟨up0, 64, 4, serving0 _, by decide, by decide⟩
  · exact ⟨core0, 1, 2 ^ 32, 32, 0x10000, by decide, (by decide +kernel)⟩

/-- Every clause of HostResets has a state and operands that meet it. -/
theorem witness_HostResets :
    (∃ (s : State) (v : Nat), s.up = true ∧ 1 ≤ v ∧ v ≤ 64 ∧ (s.queue v 15).state ≠ 0 ∧ ∀ c ∈ (s.queue v 15).cmds, c.started = false) ∧
    (∃ (s : State) (v : Nat), 1 ≤ v ∧ v ≤ 64 ∧ (∀ e ∈ s.queues, e.2.replies = []) ∧ (∀ r ∈ partCmds s (v - 1) none, (s.queue r.f r.q).replying = false) ∧ (s.part (v - 1)).st ≠ .absent) ∧
    (∃ (s : State), s.up = true ∧ (∀ e ∈ s.ctxs, e.2.live = true → e.2.part < 64) ∧ (∀ e ∈ s.queues, e.2.state = 0 → e.2.replies = [])) := by
  refine ⟨?_, ?_, ?_⟩
  · exact ⟨{ up0 with queues := [(1039, openQ)] }, 64, rfl, by decide, by decide, (by decide +kernel), (by decide +kernel)⟩
  · exact ⟨fresh0 true {}, 1, by decide, by decide, (by decide +kernel), (by decide +kernel), (by decide +kernel)⟩
  · exact ⟨fresh0 true {}, rfl, by decide, (by decide +kernel)⟩

/-- Every clause of HostAnswers has a state and operands that meet it. -/
theorem witness_HostAnswers :
    (∃ (s : State) (id f : Nat) (a n : Nat) (g : Grp) (sd : Nat) (pc : BitVec 48) (sent : BitVec 64) (bs : List Byte), s.hostReads = [⟨id, f, [(a, n)], .scalar g sd pc, sent⟩] ∧ bs.length = n) ∧
    (∃ (s : State) (id f q a : Nat) (sent : BitVec 64) (bs : List Byte), s.hostReads = [⟨id, f, [(a, 64)], .entry f q, sent⟩] ∧ bs.length = 64 ∧ q < 16) ∧
    (∃ (s : State) (id f a n : Nat) (g : Grp) (sd : Nat) (pc : BitVec 48) (sent : BitVec 64), s.hostReads = [⟨id, f, [(a, n)], .scalar g sd pc, sent⟩] ∧ (s.group g).live = true) ∧
    (∃ (s : State) (id f q a : Nat) (sent : BitVec 64), s.hostReads = [⟨id, f, [(a, 64)], .entry f q, sent⟩] ∧ q < 16 ∧ 1000 * (s.pcie f).cplTimeoutUs ≤ (s.time - sent).toNat) := by
  refine ⟨?_, ?_, ?_, ?_⟩
  · exact ⟨readScalar, 5, 1, 0, 4, g0, 3, 0x1000, 0, [1, 2, 3, 4], rfl, rfl⟩
  · exact ⟨readEntry, 5, 64, 15, 0, 0, List.replicate 64 0, rfl, rfl, by decide⟩
  · exact ⟨readScalar, 5, 1, 0, 4, g0, 3, 0x1000, 0, rfl, rfl⟩
  · exact ⟨{ readEntry with time := 50000000 }, 5, 64, 15, 0, 0, rfl, by decide, (by decide +kernel)⟩

/-- Every clause of QueueSteps has a state and operands that meet it. -/
theorem witness_QueueSteps :
    (∃ (s : State) (f q : Nat), s.up = true ∧ s.fnOff f = false ∧ f < 65 ∧ q < 16 ∧ (s.queue f q).state = 0) ∧
    (∀ ok : Bool, ∃ (s : State) (f q : Nat), NMap.wf {} s.queues = true ∧ q < 16 ∧ (s.queue f q).opening = true ∧ (openCheck (s.queue f q) f = 0 ↔ ok = true)) ∧
    (∃ (s : State) (f q : Nat), s.up = true ∧ s.fnOff f = false ∧ (s.queue f q).state = 1 ∧ (s.queue f q).opening = false ∧ (∀ c ∈ (s.queue f q).cmds, c.started = false) ∧ (s.queue f q).replies = []) ∧
    (∀ ok : Bool, ∃ (s : State) (f q : Nat) (val : BitVec 32), s.up = true ∧ s.fnOff f = false ∧ (s.queue f q).state = 1 ∧ (val.toNat % 2 ^ 16 < 2 ^ (s.queue f q).sqLog2.toNat ↔ ok = true)) ∧
    (∃ (s : State) (f q : Nat) (val : BitVec 32), s.up = true ∧ s.fnOff f = false ∧ (s.queue f q).state = 1 ∧ let x := s.queue f q
      let n := 2 ^ x.cqLog2.toNat
      let i := val.toNat % 2 ^ 16
      i < n ∧ (i + n - x.cqHead.toNat) % n ≤ (x.cqTail.toNat + n - x.cqHead.toNat) % n) ∧
    (∃ (s : State) (f q : Nat) (bs : List Byte), s.up = true ∧ journalFull s = false ∧ (∀ e ∈ s.queues, e.2.fetching = false) ∧ nextQueue s = some (16 * f + q) ∧ q < 16 ∧ bs.length = 64) ∧
    (∃ (s : State) (f q : Nat) (r : Reply) (rest : List Reply), (s.queue f q).state = 1 ∧ (s.queue f q).replies = r :: rest ∧ (s.queue f q).ringFull = false ∧ s.rope.journal = []) := by
  refine ⟨?_, ?_, ?_, ?_, ?_, ?_, ?_⟩
  · exact ⟨up0, 64, 15, rfl, rfl, by decide, by decide, rfl⟩
  · exact fun ok => ⟨{ up0 with queues := [(1039, { sqLog2 := if ok then 4 else 0, cqLog2 := 4, verMin := 1, verMax := 1, opening := true, state := 3 })] }, 64, 15, by cases ok <;> decide +kernel⟩
  · exact ⟨{ up0 with queues := [(1039, openQ)] }, 64, 15, rfl, rfl, rfl, rfl, (by decide +kernel), rfl⟩
  · exact fun ok => ⟨{ up0 with queues := [(1039, openQ)] }, 64, 15, if ok then 15 else 16, rfl, rfl, rfl, by cases ok <;> decide +kernel⟩
  · exact ⟨{ up0 with queues := [(1039, { openQ with cqTail := 2 })] }, 64, 15, 2, rfl, rfl, rfl, (by decide +kernel)⟩
  · exact ⟨{ up0 with queues := [(1039, { openQ with sqTail := 1 })] }, 64, 15, List.replicate 64 0, rfl, (by decide +kernel), (by decide +kernel), (by decide +kernel), by decide, rfl⟩
  · exact ⟨{ up0 with queues := [(1039, { openQ with cqTail := 15, cqHead := 15, replies := [⟨0, 0, 0, 0, 0, 0, true, 0, none⟩] })] }, 64, 15, _, _, rfl, rfl, (by decide +kernel), rfl⟩

/-! ### Witnesses: host commands -/

/-- A packet: opcode, and parameters as (byte, value). -/
def pkt (opc : Nat) (ps : List (Nat × Nat)) : Cmd := { seq := 0, bytes := leBytes (ps.foldl (fun a x => a + x.2 * 256 ^ x.1) opc) 64 }

/-- A state in which one command waits alone in queue q of function f. -/
def hosted (s : State) (f q : Nat) (c : Cmd) : State := { s with queues := [(16 * f + q, { openQ with cmds := [c] })] }

theorem waits (s : State) (f q : Nat) (c : Cmd) (hu : s.up = true) (hf : c.started = false) (hb : c.prevFailed = false)
    (hp : c.prev = none) (hj : s.rope.journal = []) (ht : s.cfgBusy = none)
    (hn : ∀ e ∈ s.parts, e.2.notes = [] ∧ e.2.reset = none ∧ e.2.awaits = [] := by decide +kernel) : Claims.Waiting (hosted s f q c) f q c where
  up := hu
  isOpen := by simp [State.queue, hosted, NMap.get, openQ]
  only := by simp [State.queue, hosted, NMap.get, openQ]
  fresh := hf
  before := ⟨hb, by simp [hp]⟩
  unjournaled := by simp [hosted, hj]
  turn := by cases h : expeditedOp c.opcode <;> simp [configWaits, hosted, ht, openQ, h]
  calm := fun _ => by
    obtain ⟨h1, h2, h3⟩ := NMap.get_all (P := fun x : Part => x.notes = [] ∧ x.reset = none ∧ x.awaits = []) {} s.parts (c.partN f) ⟨rfl, rfl, rfl⟩ hn
    have e : (hosted s f q c).part (c.partN f) = NMap.get {} s.parts (c.partN f) := rfl
    rw [State.eventOpen, e, h1, h2, h3]
    rfl

/-- A serving device with partition p in state x, folio 0 in service. -/
def upPart (p : Nat) (x : Part) : State := { up0 with parts := [(p, x)], fab := { folio0 := { inService := true } } }

def idle0 : Part := { part0 with st := .idle }

/-- Every clause of BasicCommands has a state and operands that meet it. -/
theorem witness_BasicCommands :
    (∃ (s : State) (f q : Nat) (c : Cmd), Claims.Waiting s f q c ∧ c.opcode = 0 ∧ Claims.sound_ s f c false false []) ∧
    (∃ (s : State) (f q : Nat) (c : Cmd), Claims.Waiting s f q c ∧ knownOp c.opcode = false) ∧
    (∃ (s : State) (f q : Nat) (c : Cmd), Claims.Waiting s f q c ∧ c.opcode = 1 ∧ Claims.sound_ s f c false true [] ∧ c.partN f < 64) ∧
    (∃ (s : State) (q : Nat) (c : Cmd), Claims.Waiting s 0 q c ∧ c.opcode = 2 ∧ Claims.sound_ s 0 c true false [(8, 0, 8), (16, 0, 64)] ∧ c.arg 8 1 = 0 ∧ c.sarg 16 = 0) ∧
    (∃ (s : State) (q : Nat) (c : Cmd), Claims.Waiting s 0 q c ∧ c.opcode = 2 ∧ Claims.sound_ s 0 c true false [(8, 0, 8), (16, 0, 64)] ∧ c.arg 8 1 = 1 ∧ (0 ≤ c.sarg 16 ∨ ∀ e ∈ s.parts, e.2.active = false)) ∧
    (∃ (s : State) (q : Nat) (c : Cmd), Claims.Waiting s 0 q c ∧ c.opcode = 2 ∧ Claims.sound_ s 0 c true false [(8, 0, 8), (16, 0, 64)] ∧ c.arg 8 1 = 2 ∧ -1000000 ≤ c.sarg 16 ∧ c.sarg 16 ≤ 1000000) ∧
    (∃ (s : State) (f q : Nat) (c : Cmd), Claims.Waiting s f q c ∧ f ≠ 0 ∧ c.opcode = 2 ∧ c.arg 8 1 = 0) := by
  refine ⟨?_, ?_, ?_, ?_, ?_, ?_, ?_⟩
  · exact ⟨hosted (upPart 63 part0) 64 15 (pkt 0 []), 64, 15, pkt 0 [], waits _ _ _ _ rfl rfl rfl rfl rfl rfl, (by decide +kernel), (by unfold Claims.sound_; decide +kernel)⟩
  · exact ⟨hosted up0 0 0 (pkt 3 []), 0, 0, pkt 3 [], waits _ _ _ _ rfl rfl rfl rfl rfl rfl, (by decide +kernel)⟩
  · exact ⟨hosted (upPart 63 part0) 64 0 (pkt 1 []), 64, 0, pkt 1 [], waits _ _ _ _ rfl rfl rfl rfl rfl rfl, (by decide +kernel), (by unfold Claims.sound_; decide +kernel), (by decide +kernel)⟩
  · exact ⟨hosted up0 0 0 (pkt 2 []), 0, pkt 2 [], waits _ _ _ _ rfl rfl rfl rfl rfl rfl, (by decide +kernel), (by unfold Claims.sound_; decide +kernel), (by decide +kernel), (by decide +kernel)⟩
  · exact ⟨hosted up0 0 0 (pkt 2 [(8, 1), (16, 5)]), 0, pkt 2 [(8, 1), (16, 5)], waits _ _ _ _ rfl rfl rfl rfl rfl rfl, (by decide +kernel), (by unfold Claims.sound_; decide +kernel), (by decide +kernel), .inl (by decide +kernel)⟩
  · exact ⟨hosted up0 0 0 (pkt 2 [(8, 2), (16, 2 ^ 64 - 1000000)]), 0, pkt 2 [(8, 2), (16, 2 ^ 64 - 1000000)], waits _ _ _ _ rfl rfl rfl rfl rfl rfl, (by decide +kernel), (by unfold Claims.sound_; decide +kernel), (by decide +kernel), (by decide +kernel), (by decide +kernel)⟩
  · exact ⟨hosted (upPart 63 part0) 64 0 (pkt 2 []), 64, 0, pkt 2 [], waits _ _ _ _ rfl rfl rfl rfl rfl rfl, by decide, (by decide +kernel), (by decide +kernel)⟩

/-- Every clause of PartitionRuns has a state and operands that meet it. -/
theorem witness_PartitionRuns :
    (∃ (s : State) (f q : Nat) (c : Cmd), Claims.Waiting s f q c ∧ c.opcode = 0x10 ∧ Claims.sound_ s f c false true [ (8, 0, 48), (16, 0, 48), (24, 0, 16), (26, 0, 5), (27, 0, 4), (28, 0, 7), (32, 0, 16), (34, 0, 16), (36, 0, 16)] ∧ let p := c.partN f
      p < 64 ∧ (s.runningCtxs p).length < 16 ∧ launchRefusals s p c = []) ∧
    (∃ (total n size b : Nat), 0 < size ∧ n < size ∧ b < total ∧ b % size = n) ∧
    (∀ k < 3, ∃ (s : State) (f q : Nat) (c : Cmd), Claims.Waiting s f q c ∧ c.opcode = 0x16 ∧ Claims.sound_ s f c false true [] ∧ let p := c.partN f
      p < 64 ∧ (if k = 2 then (s.part p).st = .frozen else ((s.part p).st = .running ∨ (s.part p).st = .idle) ∧ (partResvs s p = 0 ↔ k = 0))) ∧
    (∀ late : Bool, ∃ (s : State) (p f q : Nat) (c : Cmd), (s.part p).freezing = some ⟨f, q, c.seq⟩ ∧ (s.queue f q).cmds = [c] ∧ (s.queue f q).state = 1 ∧ c.opcode = 0x16 ∧ s.cfgBusy = some ⟨f, q, c.seq⟩ ∧ partResvs s p ≠ 0 ∧ (10000 ≤ (s.time - c.startTime).toNat ↔ late = true)) ∧
    (∃ (s : State) (f q : Nat) (c : Cmd), Claims.Waiting s f q c ∧ c.opcode = 0x17 ∧ Claims.sound_ s f c false true [] ∧ c.partN f < 64 ∧ ((s.part (c.partN f)).st = .running → partResvs s (c.partN f) = 0) ∧ NMap.wf {} s.queues = true) ∧
    (∃ (s : State) (p : Nat) (r : CmdRef), (s.part p).reset = some { cmd := some r } ∧ (∀ x ∈ (s.part p).awaits, replyWaits s x = false) ∧ (s.queue r.f r.q).replying = true ∧ ∃ c ∈ (s.queue r.f r.q).cmds, c.seq = r.seq) := by
  have held0 (late : Bool) : ∃ s : State, s = { hosted { upPart 0 { idle0 with freezing := some ⟨0, 0, 0⟩ } with mem := { resvs := [⟨g0, 0, 0x10000, 4, 0, 0⟩] } } 0 0 (pkt 0x16 [(2, 64)]) with cfgBusy := some ⟨0, 0, 0⟩, time := if late then 10000 else 9999 } := ⟨_, rfl⟩
  refine ⟨?_, ?_, ?_, ?_, ?_, ?_⟩
  · exact ⟨hosted (upPart 0 idle0) 0 0 (pkt 0x10 [(2, 64), (32, 1), (34, 1), (36, 1)]), 0, 0, _, waits _ _ _ _ rfl rfl rfl rfl rfl rfl, (by decide +kernel), (by unfold Claims.sound_; decide +kernel), (by decide +kernel), (by decide +kernel), (by decide +kernel)⟩
  · exact ⟨5, 1, 2, 3, by decide⟩
  · intro k hk
    match k, hk with
    | 0, _ => exact ⟨hosted (upPart 0 idle0) 0 0 (pkt 0x16 [(2, 64)]), 0, 0, _, waits _ _ _ _ rfl rfl rfl rfl rfl rfl, (by decide +kernel), (by unfold Claims.sound_; decide +kernel), (by decide +kernel), .inr rfl, (by decide +kernel)⟩
    | 1, _ => exact ⟨hosted { upPart 0 idle0 with mem := { resvs := [⟨g0, 0, 0x10000, 4, 0, 0⟩] } } 0 0 (pkt 0x16 [(2, 64)]), 0, 0, _, waits _ _ _ _ rfl rfl rfl rfl rfl rfl, (by decide +kernel), (by unfold Claims.sound_; decide +kernel), (by decide +kernel), .inr rfl, (by decide +kernel)⟩
    | 2, _ => exact ⟨hosted (upPart 63 { part0 with st := .frozen }) 64 0 (pkt 0x16 []), 64, 0, _, waits _ _ _ _ rfl rfl rfl rfl rfl rfl, (by decide +kernel), (by unfold Claims.sound_; decide +kernel), (by decide +kernel), rfl⟩
  · intro late
    obtain ⟨s, hs⟩ := held0 late
    refine ⟨s, 0, 0, 0, pkt 0x16 [(2, 64)], ?_⟩
    subst hs
    cases late <;> decide +kernel
  · exact ⟨hosted (upPart 63 part0) 64 0 (pkt 0x17 []), 64, 0, _, waits _ _ _ _ rfl rfl rfl rfl rfl rfl, (by decide +kernel), (by unfold Claims.sound_; decide +kernel), (by decide +kernel), (by decide +kernel), (by decide +kernel)⟩
  · exact ⟨hosted (upPart 63 { part0 with reset := some { cmd := some ⟨64, 0, 0⟩ }, awaits := [⟨64, 0, 9⟩] }) 64 0 (pkt 0x17 []), 63, ⟨64, 0, 0⟩, (by decide +kernel), (by decide +kernel), (by decide +kernel), _, List.mem_cons_self, rfl⟩

/-- Every clause of PartitionSetUp has a state and operands that meet it. -/
theorem witness_PartitionSetUp :
    (∃ (s : State) (q : Nat) (c : Cmd), Claims.Waiting s 0 q c ∧ c.opcode = 0x20 ∧ generalRefusals 0 c { sel := fun _ => true, pfOnly := true, needPart := true, params := [(8, 0, 2), (9, 0, 64)] ++ shareParams } = [] ∧ let p := c.partN 0
    p < 64 ∧ createRefusals s p c = []) ∧
    (∃ (s : State) (q : Nat) (c : Cmd), Claims.Waiting s 0 q c ∧ c.opcode = 0x22 ∧ Claims.sound_ s 0 c true true shareParams ∧ let p := c.partN 0
    p < 64 ∧ sharesBad s p (sharesOf c) = []) ∧
    (∃ (s : State) (q : Nat) (c : Cmd), Claims.Waiting s 0 q c ∧ c.opcode = 0x21 ∧ Claims.sound_ s 0 c true true [] ∧ let p := c.partN 0
    p < 64 ∧ ((s.part p).st = .running → partResvs s p = 0) ∧ NMap.wf {} s.queues = true) ∧
    (∃ (s : State) (p : Nat) (r : CmdRef), (s.part p).reset = some { cmd := some r, destroy := true } ∧ (∀ x ∈ (s.part p).awaits, replyWaits s x = false) ∧ (s.queue r.f r.q).replying = true ∧ ∃ c ∈ (s.queue r.f r.q).cmds, c.seq = r.seq) ∧
    (∃ (s : State) (f q : Nat) (c : Cmd), Claims.Waiting s f q c ∧ c.opcode = 0x18 ∧ Claims.sound_ s f c false true [(8, 0, 64), (16, 0, 32), (20, 0, 10)] ∧ let p := c.partN f
    p < 64 ∧ (s.part p).scheduling = false ∧ (s.part p).st ≠ .frozen ∧ c.arg 16 4 = 0 ∧ spanHeld s (c.arg 8 8) 0 false = false) ∧
    (∃ (s : State) (f q : Nat) (c : Cmd), Claims.Waiting s f q c ∧ c.opcode = 0x18 ∧ Claims.sound_ s f c false true [(8, 0, 64), (16, 0, 32), (20, 0, 10)] ∧ let p := c.partN f
    p < 64 ∧ (s.part p).scheduling = false ∧ (s.part p).st ≠ .frozen ∧ c.arg 16 4 ≠ 0 ∧ rangeOf (c.arg 8 8) = .hostWin ∧ dataAllowed s p (c.arg 8 8) (16 * c.arg 16 4) = true) ∧
    (∃ (s : State) (f q : Nat) (c : Cmd), Claims.Waiting s f q c ∧ c.opcode = 0x19 ∧ Claims.sound_ s f c false true [(8, 0, 64)] ∧ let p := c.partN f
    p < 64 ∧ (s.part p).sched.isSome = true ∧ (s.part p).scheduling = false ∧ (s.part p).st ≠ .frozen) ∧
    (∃ (s : State) (f q : Nat) (c : Cmd), Claims.Waiting s f q c ∧ c.opcode = 0x1A ∧ Claims.sound_ s f c false true [] ∧ let p := c.partN f
    p < 64 ∧ (s.part p).st ≠ .frozen) := by
  refine ⟨?_, ?_, ?_, ?_, ?_, ?_, ?_, ?_⟩
  · exact ⟨hosted { up0 with fab := { folio0 := { inService := true } } } 0 0 (pkt 0x20 [(2, 64), (8, 1), (34, 1), (36, 1), (40, 928)]), 0, _, waits _ _ _ _ rfl rfl rfl rfl rfl rfl, (by decide +kernel), (by decide +kernel), (by decide +kernel), (by decide +kernel)⟩
  · exact ⟨hosted (upPart 0 idle0) 0 0 (pkt 0x22 [(2, 64), (34, 1), (36, 1), (40, 928)]), 0, _, waits _ _ _ _ rfl rfl rfl rfl rfl rfl, (by decide +kernel), (by unfold Claims.sound_; decide +kernel), (by decide +kernel), (by decide +kernel)⟩
  · exact ⟨hosted (upPart 0 idle0) 0 0 (pkt 0x21 [(2, 64)]), 0, _, waits _ _ _ _ rfl rfl rfl rfl rfl rfl, (by decide +kernel), (by unfold Claims.sound_; decide +kernel), (by decide +kernel), (by decide +kernel), (by decide +kernel)⟩
  · exact ⟨hosted (upPart 63 { part0 with reset := some { cmd := some ⟨0, 0, 0⟩, destroy := true }, awaits := [⟨64, 0, 9⟩] }) 0 0 (pkt 0x21 []), 63, ⟨0, 0, 0⟩, (by decide +kernel), (by decide +kernel), (by decide +kernel), _, List.mem_cons_self, rfl⟩
  · exact ⟨hosted (upPart 0 idle0) 0 0 (pkt 0x18 [(2, 64)]), 0, 0, _, waits _ _ _ _ rfl rfl rfl rfl rfl rfl, (by decide +kernel), (by unfold Claims.sound_; decide +kernel), (by decide +kernel), rfl, (by decide +kernel), (by decide +kernel), (by decide +kernel)⟩
  · exact ⟨hosted (upPart 0 idle0) 0 0 (pkt 0x18 [(2, 64), (8, 0x040000000000), (16, 1)]), 0, 0, _, waits _ _ _ _ rfl rfl rfl rfl rfl rfl, (by decide +kernel), (by unfold Claims.sound_; decide +kernel), (by decide +kernel), rfl, (by decide +kernel), (by decide +kernel), (by decide +kernel), (by decide +kernel)⟩
  · exact ⟨hosted (upPart 0 { idle0 with sched := some ([], 0) }) 0 0 (pkt 0x19 [(2, 64)]), 0, 0, _, waits _ _ _ _ rfl rfl rfl rfl rfl rfl, (by decide +kernel), (by unfold Claims.sound_; decide +kernel), (by decide +kernel), rfl, rfl, (by decide +kernel)⟩
  · exact ⟨hosted (upPart 63 part0) 64 0 (pkt 0x1A []), 64, 0, _, waits _ _ _ _ rfl rfl rfl rfl rfl rfl, (by decide +kernel), (by unfold Claims.sound_; decide +kernel), (by decide +kernel), (by decide +kernel)⟩

theorem outerAt {s : State} {a n : Nat} (b : Bool) (hu : s.up = true) (hm : s.mem = mem8 .unc [])
    (h : a / 128 = 8 ∧ 0 < n ∧ a % 32 + n ≤ 32) (hq : s.spine.sliceQ = [] := by rfl) : Claims.outerAccess s a n b := by
  refine ⟨hu, h.2.1, h.2.2, ?_, by simp [State.firstFor, State.sliceQ, hq], ?_, ?_, ?_, ?_⟩
  · have : rangeOf a = .dram := by unfold rangeOf; split <;> first | rfl | omega
    simp [spanHeld, this, hm, mem8]
  · rw [hm, h.1]; exact settled8 _ _
  all_goals rw [hm, h.1]
  · rcases (by omega : a % 128 / 32 = 0 ∨ a % 128 / 32 = 1 ∨ a % 128 / 32 = 2 ∨ a % 128 / 32 = 3) with h | h | h | h <;> rw [h] <;> exact ⟨rfl, rfl, rfl⟩
  · rfl
  · rfl

def fill0 : Cmd := pkt 0x13 [(8, 1024), (16, 32)]
def copy0 : Cmd := pkt 0x12 [(8, 1024), (16, 1040), (24, 16)]
def code0 : Cmd := pkt 0x11 [(2, 64), (8, 1024), (16, 1040), (24, 16)]

def mem0 : State := { up0 with mem := mem8 .unc [] }

/-- A partition whose pages 0 to 15 hold code and data. -/
def both0 : State := { mem0 with spine := { tokens := [(0, { unregulated := true })] }, parts := [(0, { idle0 with allocs := [(0, ⟨0, 16, 2⟩), (1, ⟨0, 16, 1⟩)] })] }

/-- Every clause of MemoryCommands has a state and operands that meet it. -/
theorem witness_MemoryCommands :
    (∃ (s : State) (f q : Nat) (c : Cmd), Claims.Waiting s f q c ∧ c.opcode = 0x13 ∧ Claims.sound_ s f c false false [(8, 0, 192)] ∧ let p := c.partN f
    let a := c.arg 8 8
    let n := c.arg 16 8
    hasTokens s cmdRequester (partOpt p) 1 = true ∧ (p < 64 → (s.part p).st ≠ .frozen) ∧ rangeRefusal s p a n = [] ∧ Claims.outerAccess s a n true) ∧
    (∃ (s : State) (f q : Nat) (c : Cmd), Claims.Waiting s f q c ∧ c.opcode = 0x12 ∧ Claims.sound_ s f c false false [(8, 0, 192)] ∧ let p := c.partN f
    let n := c.arg 24 8
    hasTokens s cmdRequester (partOpt p) 2 = true ∧ copyRefusals s p c = [] ∧ Claims.outerAccess s (c.arg 8 8) n false ∧ Claims.outerAccess s (c.arg 16 8) n true) ∧
    (∃ (s : State) (f q : Nat) (c : Cmd), Claims.Waiting s f q c ∧ c.opcode = 0x12 ∧ Claims.sound_ s f c false false [(8, 0, 192)] ∧ let p := c.partN f
    copyRefusals s p c = [] ∧ rangeOf (c.arg 8 8) = .hostWin) ∧
    (∃ (s : State) (f q : Nat) (c : Cmd), Claims.Waiting s f q c ∧ c.opcode = 0x11 ∧ Claims.sound_ s f c false true [(8, 0, 192)] ∧ let p := c.partN f
    let n := c.arg 24 8
    p < 64 ∧ hasTokens s cmdRequester (partOpt p) 2 = true ∧ codeRefusals s p c = [] ∧ Claims.outerAccess s (c.arg 8 8) n false ∧ Claims.outerAccess s (c.arg 16 8) n true ∧ (c.arg 8 8 + n ≤ c.arg 16 8 ∨ c.arg 16 8 + n ≤ c.arg 8 8)) ∧
    (∃ (s : State) (f q : Nat) (c : Cmd), Claims.Waiting s f q c ∧ c.opcode = 0x14 ∧ Claims.sound_ s f c false true [(8, 0, 128)] ∧ let p := c.partN f
    let a := c.arg 8 8
    let n := c.arg 16 8
    p < 64 ∧ s.mem.txns = [] ∧ anchorAllowed s p c = [] ∧ ((lineRange a n).any fun ln => isNbRaw s.mem (ln * 128)) = false ∧ (∀ k, (s.mem.lineAt k).tagBad = false ∧ (s.mem.lineAt k).dirBad = false)) ∧
    (∃ (s : State) (f q : Nat) (c : Cmd), Claims.Waiting s f q c ∧ c.opcode = 0x15 ∧ Claims.sound_ s f c false true [(8, 0, 128)] ∧ let p := c.partN f
    p < 64 ∧ anchorAllowed s p c = []) := by
  refine ⟨?_, ?_, ?_, ?_, ?_, ?_⟩
  · exact ⟨hosted mem0 0 0 fill0, 0, 0, fill0, waits _ _ _ _ rfl rfl rfl rfl rfl rfl, (by decide +kernel), (by unfold Claims.sound_; decide +kernel), (by decide +kernel), (by decide +kernel), (by decide +kernel), outerAt _ rfl rfl (by decide +kernel)⟩
  · exact ⟨hosted mem0 0 0 copy0, 0, 0, copy0, waits _ _ _ _ rfl rfl rfl rfl rfl rfl, (by decide +kernel), (by unfold Claims.sound_; decide +kernel), (by decide +kernel), (by decide +kernel), outerAt _ rfl rfl (by decide +kernel), outerAt _ rfl rfl (by decide +kernel)⟩
  · exact ⟨hosted up0 0 0 (pkt 0x12 [(8, 0x040000000000), (16, 0x10000), (24, 1)]), 0, 0, _, waits _ _ _ _ rfl rfl rfl rfl rfl rfl, (by decide +kernel), (by unfold Claims.sound_; decide +kernel), (by decide +kernel), (by decide +kernel)⟩
  · exact ⟨hosted both0 0 0 code0, 0, 0, code0, waits _ _ _ _ rfl rfl rfl rfl rfl rfl, (by decide +kernel), (by unfold Claims.sound_; decide +kernel), (by decide +kernel), (by decide +kernel), (by decide +kernel), outerAt _ rfl rfl (by decide +kernel), outerAt _ rfl rfl (by decide +kernel), .inl (by decide +kernel)⟩
  · exact ⟨hosted (upPart 0 idle0) 0 0 (pkt 0x14 [(2, 64), (8, 0x10000), (16, 0x10000)]), 0, 0, _, waits _ _ _ _ rfl rfl rfl rfl rfl rfl, (by decide +kernel), (by unfold Claims.sound_; decide +kernel), (by decide +kernel), rfl, (by decide +kernel), (by decide +kernel), fun _ => ⟨rfl, rfl⟩⟩
  · exact ⟨hosted (upPart 0 idle0) 0 0 (pkt 0x15 [(2, 64), (8, 0x10000), (16, 0x10000)]), 0, 0, _, waits _ _ _ _ rfl rfl rfl rfl rfl rfl, (by decide +kernel), (by unfold Claims.sound_; decide +kernel), (by decide +kernel), (by decide +kernel)⟩

/-- Every clause of ConfigurationCommands has a state and operands that meet it. -/
theorem witness_ConfigurationCommands :
    (∃ (s : State) (q : Nat) (c : Cmd), Claims.Waiting s 0 q c ∧ c.opcode = 0x23 ∧ Claims.sound_ s 0 c true true [(8, 0, 4), (9, 0, 2), (16, 0, 128)] ∧ let p := c.partN 0
    p < 64 ∧ s.mem.txns = [] ∧ (∀ x ∈ s.host.bar4, x.f ≠ p + 1) ∧ NMap.wf {} s.cl = true ∧ allocRefusals s p c = []) ∧
    (∃ (s : State) (q : Nat) (c : Cmd), Claims.Waiting s 0 q c ∧ c.opcode = 0x24 ∧ Claims.sound_ s 0 c true false [(8, 0, 6), (9, 0, 4), (10, 0, 8), (11, 0, 3), (16, 0, 128)] ∧ s.mem.txns = [] ∧ regionRefusals s (c.partN 0) c = []) ∧
    (∃ (s : State) (q : Nat) (c : Cmd), Claims.Waiting s 0 q c ∧ c.opcode = 0x25 ∧ Claims.sound_ s 0 c true false [(8, 0, 4), (9, 0, 1), (16, 0, 128)] ∧ rawRefusals s (c.partN 0) c = []) ∧
    (∃ (s : State) (w : RawWork) (c : Cmd), s.mem.rawWork = some w ∧ (s.queue w.cmd.f w.cmd.q).cmds = [c] ∧ c.seq = w.cmd.seq ∧ (s.queue w.cmd.f w.cmd.q).state = 1 ∧ s.cfgBusy = some w.cmd) ∧
    (∃ (s : State) (q : Nat) (c : Cmd), Claims.Waiting s 0 q c ∧ c.opcode = 0x26 ∧ Claims.sound_ s 0 c true false [(8, 0, 4)] ∧ s.mem.txns = [] ∧ s.noContext = true ∧ (∀ ln, (s.mem.lineAt ln).anchored = none ∧ (s.mem.lineAt ln).trace = false) ∧ s.mem.obs.size = 0) ∧
    (∃ (s : State) (q k : Nat) (c : Cmd), Claims.Waiting s 0 q c ∧ c.opcode = 0x27 ∧ Claims.sound_ s 0 c true false [(8, 0, 8), (9, 0, 8), (10, 0, 1)] ∧ s.mem.txns = [] ∧ let fo := (remapHome c).1
    let home := (remapHome c).2
    let g := siteGathKey (siteCode fo 0 home)
    remapRefusals s (c.partN 0) c = [] ∧ spareOf s g = some k ∧ (s.gath g).renameOf home = none ∧ (∃ j < 41, ((s.gath g).entry j).valid = false)) ∧
    (∃ (s : State) (q : Nat) (c : Cmd), Claims.Waiting s 0 q c ∧ c.opcode = 0x28 ∧ Claims.sound_ s 0 c true false [(8, 0, 2)] ∧ tokensBusy s { scrub := true } = false) ∧
    (∃ (s : State) (q ch : Nat) (m : MarginRead) (c : Cmd), Claims.Waiting s 0 q c ∧ c.opcode = 0x29 ∧ Claims.sound_ s 0 c true false [(8, 0, 4)] ∧ tokensBusy s (marginHold c none) = false ∧ (bitOf (c.arg 8 1) 3 = true → s.noContext = true) ∧ ch < 32) := by
  refine ⟨?_, ?_, ?_, ?_, ?_, ?_, ?_, ?_⟩
  · exact ⟨hosted (upPart 0 idle0) 0 0 (pkt 0x23 [(2, 64), (8, 15), (9, 1), (16, 0x20000), (24, 0x1000)]), 0, _, waits _ _ _ _ rfl rfl rfl rfl rfl rfl, (by decide +kernel), (by unfold Claims.sound_; decide +kernel), (by decide +kernel), rfl, (fun _ h => nomatch h), rfl, (by decide +kernel)⟩
  · exact ⟨hosted (upPart 0 idle0) 0 0 (pkt 0x24 [(8, 63), (9, 1), (16, 0x200000), (24, 0x200000)]), 0, _, waits _ _ _ _ rfl rfl rfl rfl rfl rfl, (by decide +kernel), (by unfold Claims.sound_; decide +kernel), rfl, (by decide +kernel)⟩
  · exact ⟨hosted (upPart 0 idle0) 0 0 (pkt 0x25 [(8, 15), (9, 1), (16, 0x006000000000), (24, 0x200000)]), 0, _, waits _ _ _ _ rfl rfl rfl rfl rfl rfl, (by decide +kernel), (by unfold Claims.sound_; decide +kernel), (by decide +kernel)⟩
  · exact ⟨{ hosted { up0 with mem := { rawWork := some ⟨⟨0, 0, 0⟩, 15, {}⟩ } } 0 0 (pkt 0x25 [(8, 15)]) with cfgBusy := some ⟨0, 0, 0⟩ }, _, _, rfl, rfl, rfl, rfl, rfl⟩
  · exact ⟨hosted (upPart 0 idle0) 0 0 (pkt 0x26 [(8, 15)]), 0, _, waits _ _ _ _ rfl rfl rfl rfl rfl rfl, (by decide +kernel), (by unfold Claims.sound_; decide +kernel), rfl, (by decide +kernel), fun _ => ⟨rfl, rfl⟩, rfl⟩
  · exact ⟨hosted (upPart 0 idle0) 0 0 (pkt 0x27 [(8, 149), (9, 124)]), 0, 0, _, waits _ _ _ _ rfl rfl rfl rfl rfl rfl, (by decide +kernel), (by unfold Claims.sound_; decide +kernel), rfl, (by decide +kernel), (by decide +kernel), (by decide +kernel), 0, by decide, (by decide +kernel)⟩
  · exact ⟨hosted (upPart 0 idle0) 0 0 (pkt 0x28 [(8, 3)]), 0, _, waits _ _ _ _ rfl rfl rfl rfl rfl rfl, (by decide +kernel), (by unfold Claims.sound_; decide +kernel), (by decide +kernel)⟩
  · exact ⟨hosted (upPart 0 idle0) 0 0 (pkt 0x29 [(8, 15)]), 0, 31, ⟨0, 0, 0, 0, 0, 0, 0, 0, 0, 0, 0⟩, _, waits _ _ _ _ rfl rfl rfl rfl rfl rfl, (by decide +kernel), (by unfold Claims.sound_; decide +kernel), (by decide +kernel), (by decide +kernel), by decide⟩

/-! ### Witnesses: links, keys, collectives, frames -/

/-- Jobs 0 and 1 (of partition 0), with key 7 in slot 0; instance 4 of job 1 was the last to start. -/
def jobs2 : List Job := [{ id := 0, part := none, key0 := some 7 }, { id := 1, part := some 0, key0 := some 7, nextSeq := 5 }]

/-- A serving device with link 0 as given. -/
def upLink (x : Machine.Link) (es : NMap Engine) : State := { up0 with
  lnk := { links := [(0, { x with version := 1 })], jobs := jobs2, engines := es } }

/-- A frame with its tag, in Ethernet encapsulation, from MAC address 0. -/
def frameOf (ty : BitVec 4) (flags : BitVec 8) (id psn seq : BitVec 32) (bs : List Byte) : Frame :=
  let f : Frame := {
    fcsOk := true, outer := ⟨0, 0, [0x88, 0xB5]⟩, ver := 1, ftype := ty, flags := flags, len := BitVec.ofNat 16 bs.length
    jobId := id, srcId := 0, txCtr := 0, psn := psn, collSeq := seq, step := 0, resv := 0, offset := 0, payload := bs, tag := 0 }
  { f with tag := frameTag 7 f }

/-- A frame with its tag passes every check on a link of those jobs. -/
theorem accepted {s : State} {l : Nat} {ty : BitVec 4} {flags : BitVec 8} {id psn seq : BitVec 32} {bs : List Byte} (hl : (s.link l).version = 1)
    (he : (s.link l).encap = 0 ∧ (s.link l).peerMac = 0) (hj : s.lnk.jobs = jobs2) (hb : bs.length ≤ 4096)
    (h0 : flags.toNat / 8 = 0 ∧ flags.getLsbD 0 = false)
    (hi : (id = 1 ∧ (ty = 1 ∨ ty = 2)) ∨ (id = 0 ∧ (ty = 3 ∨ ty = 4 ∨ ty = 6)) ∨ (id = 0 ∧ ty = 5 ∧ (bs.drop 5).any (· ≠ 0) = false)) :
    rxCheck s l (frameOf ty flags id psn seq bs) = none := by
  have hlen : (BitVec.ofNat 16 bs.length).toNat = bs.length := by simp; omega
  have htag (f : Frame) (x : BitVec 64) : frameTag 7 { f with tag := x } = frameTag 7 f := rfl
  have h1 : flags[0] = false := h0.2
  rcases hi with ⟨rfl, rfl | rfl⟩ | ⟨rfl, rfl | rfl | rfl⟩ | ⟨rfl, rfl, hd⟩ <;>
    simp_all [rxCheck, peerFrame, frameOf, State.job, jobs2, Job.key, tData, tAck, tCnp, tHello, tEcho] <;>
    refine (if_neg fun h => absurd (of_decide_eq_true h) (by omega)).trans ?_ <;>
    first
      | refine if_neg fun h => ?_
        exact h (htag ⟨true, ⟨0, 0, [0x88, 0xB5]⟩, 1, _, _, _, _, 0, 0, _, _, 0, 0, 0, bs, 0⟩ _)
      | refine (if_neg fun ⟨x, hx, h⟩ => h (hd x hx)).trans (if_neg fun h => ?_)
        exact h (htag ⟨true, ⟨0, 0, [0x88, 0xB5]⟩, 1, _, _, _, _, 0, 0, _, _, 0, 0, 0, bs, 0⟩ _)

theorem keyedAt {s : State} {l : Nat} {id : BitVec 32} (hj : s.lnk.jobs = jobs2) (hi : id = 0 ∨ id = 1) (ht : (s.link l).txCtr = []) :
    Claims.keyed s l id := by
  rcases hi with rfl | rfl
  · exact ⟨{ id := 0, part := none, key0 := some 7 }, 7, by simp [State.job, hj, jobs2], rfl, by rw [ht]; decide⟩
  · exact ⟨{ id := 1, part := some 0, key0 := some 7, nextSeq := 5 }, 7, by simp [State.job, hj, jobs2], rfl, by rw [ht]; decide⟩

def readyL : Machine.Link := { st := 5 }

/-- A collective of 2 in grid dimension 0, of operation op, running for instance 4 of job 1 on link 0. -/
def coll (op : Nat) : Engine := { busy := true, job := 1, seq := 4, stage := 2, op := op, linkMask := 1, srcD := BitVec.ofNat 512 (2 ^ 280) }

def startBytes : List Byte := leBytes (2 ^ 280 + 2 ^ 328) 64 ++ List.replicate 72 0

/-- Every clause of LinkCommands has a state and operands that meet it. -/
theorem witness_LinkCommands :
    (∀ same : Bool, ∃ (s : State) (q : Nat) (c : Cmd), Claims.Waiting s 0 q c ∧ c.opcode = 0x40 ∧ Claims.sound_ s 0 c true false [(8, 0, 8), (9, 0, 3), (10, 0, 48), (16, 0, 128), (32, 0, 128), (48, 0, 16), (50, 0, 48)] ∧ let l := c.link
      l < 64 ∧ c.arg 9 1 / 2 % 4 ≠ 3 ∧ linkUsed s l = false ∧ tokensBusy s (linkHold c none) = false ∧ ((s.link l).phy = bitOf (c.arg 9 1) 0 ↔ same = true)) ∧
    (∃ (s : State) (q : Nat) (c : Cmd), Claims.Waiting s 0 q c ∧ c.opcode = 0x41 ∧ Claims.sound_ s 0 c true false [(8, 0, 8), (9, 0, 1)] ∧ let l := c.link
      let qualify := bitOf (c.arg 9 1) 0
      l < 64 ∧ tokensBusy s (linkHold c none) = false ∧ (s.link l).configured = true ∧ (qualify = true ∨ (s.link l).qualified = true)) ∧
    (∀ (st : BitVec 3) (qualify : Bool) (w : TrainResult), ∃ (s : State) (l f q : Nat) (c : Cmd), Claims.linkWorks s l f q c (.train qualify w) ∧ (s.link l).st = st ∧ Claims.keyed s l 0) ∧
    (∃ (s : State) (q : Nat) (c : Cmd), Claims.Waiting s 0 q c ∧ c.opcode = 0x42 ∧ Claims.sound_ s 0 c true false [(8, 0, 8)] ∧ let l := c.link
      l < 64 ∧ tokensBusy s (linkHold c none) = false) ∧
    (∃ (s : State) (q : Nat) (c : Cmd), Claims.Waiting s 0 q c ∧ c.opcode = 0x43 ∧ Claims.sound_ s 0 c true false [(8, 0, 8)] ∧ let l := c.link
      l < 64 ∧ tokensBusy s (linkHold c none) = false ∧ ((s.link l).st = 3 ∨ (s.link l).st = 5) ∧ linkUsed s l = false) ∧
    (∀ locked : Bool, ∃ (s : State) (l f q : Nat) (c : Cmd) (a b d e : SweepLane), Claims.linkWorks s l f q c (.sweep locked [a, b, d, e]) ∧ (s.link l).st = 6) := by
  refine ⟨?_, ?_, ?_, ?_, ?_, ?_⟩
  · intro same
    cases same
    · exact ⟨hosted (upLink {} []) 0 0 (pkt 0x40 [(8, 63), (9, 1)]), 0, _, waits _ _ _ _ rfl rfl rfl rfl rfl rfl, (by decide +kernel), (by unfold Claims.sound_; decide +kernel), (by decide +kernel), (by decide +kernel), (by decide +kernel), (by decide +kernel), (by decide +kernel)⟩
    · exact ⟨hosted (upLink {} []) 0 0 (pkt 0x40 [(8, 63)]), 0, _, waits _ _ _ _ rfl rfl rfl rfl rfl rfl, (by decide +kernel), (by unfold Claims.sound_; decide +kernel), (by decide +kernel), (by decide +kernel), (by decide +kernel), (by decide +kernel), (by decide +kernel)⟩
  · exact ⟨hosted (upLink { configured := true } []) 0 0 (pkt 0x41 [(9, 1)]), 0, _, waits _ _ _ _ rfl rfl rfl rfl rfl rfl, (by decide +kernel), (by unfold Claims.sound_; decide +kernel), (by decide +kernel), (by decide +kernel), (by decide +kernel), .inl (by decide +kernel)⟩
  · exact fun st b w => ⟨{ hosted (upLink { st := st, work := some (⟨0, 0, 0⟩, .train b w) } []) 0 0 (pkt 0x41 []) with cfgBusy := some ⟨0, 0, 0⟩ }, 0, 0, 0, _, ⟨rfl, rfl, rfl, rfl⟩, rfl, keyedAt rfl (by decide) rfl⟩
  · exact ⟨hosted (upLink readyL []) 0 0 (pkt 0x42 []), 0, _, waits _ _ _ _ rfl rfl rfl rfl rfl rfl, (by decide +kernel), (by unfold Claims.sound_; decide +kernel), (by decide +kernel), (by decide +kernel)⟩
  · exact ⟨hosted (upLink readyL []) 0 0 (pkt 0x43 []), 0, _, waits _ _ _ _ rfl rfl rfl rfl rfl rfl, (by decide +kernel), (by unfold Claims.sound_; decide +kernel), (by decide +kernel), (by decide +kernel), .inr (by decide +kernel), (by decide +kernel)⟩
  · exact fun b => ⟨{ hosted (upLink { st := 6, work := some (⟨0, 0, 0⟩, .sweep b (List.replicate 4 ⟨0, 0, 0, 0, 0⟩)) } []) 0 0 (pkt 0x43 []) with cfgBusy := some ⟨0, 0, 0⟩ }, 0, 0, 0, _, _, _, _, _, ⟨rfl, rfl, rfl, rfl⟩, rfl⟩

/-- Every clause of KeysAndCollectives has a state and operands that meet it. -/
theorem witness_KeysAndCollectives :
    (∃ (s : State) (q : Nat) (c : Cmd), Claims.Waiting s 0 q c ∧ c.opcode = 0x44 ∧ Claims.sound_ s 0 c true false [(8, 0, 32), (12, 0, 2), (16, 0, 256)] ∧ keyRefusals s (c.partN 0) c = [] ∧ bitOf (c.arg 12 1) 1 = true ∧ NMap.wf {} s.lnk.links = true ∧ (∀ l, (s.link l).txq = [] ∧ (s.link l).ctlq = [] ∧ ∀ x ∈ (s.link l).unacked, x.again = false)) ∧
    (∃ (s : State) (q : Nat) (c : Cmd), Claims.Waiting s 0 q c ∧ c.opcode = 0x44 ∧ Claims.sound_ s 0 c true false [(8, 0, 32), (12, 0, 2), (16, 0, 256)] ∧ keyRefusals s (c.partN 0) c = [] ∧ bitOf (c.arg 12 1) 1 = false) ∧
    (∃ (s : State) (f q k : Nat) (c : Cmd), Claims.Waiting s f q c ∧ c.opcode = 0x48 ∧ Claims.sound_ s f c false true [(8, 0, 8), (12, 0, 32), (16, 0, 64), (24, 0, 64), (32, 0, 64), (40, 0, 32)] ∧ let p := c.partN f
    p < 64 ∧ freeEngine s = some k ∧ collectiveReady s p c = true ∧ collectiveRefusals s p c = [] ∧ rangeOf (c.arg 16 8) = .hostWin ∧ rangeOf (c.arg 24 8) = .hostWin) ∧
    (∃ (s : State) (k f q : Nat) (c : Cmd), let e := s.engine k
    e.busy = true ∧ e.cmd = ⟨f, q, c.seq⟩ ∧ (s.queue f q).cmds = [c] ∧ (s.queue f q).state = 1 ∧ s.cfgBusy = none ∧ ∃ st, e.ends = some st) ∧
    (∃ (s : State) (k f q : Nat) (c : Cmd), let e := s.engine k
    e.busy = true ∧ e.cmd = ⟨f, q, c.seq⟩ ∧ (s.queue f q).cmds = [c] ∧ (s.queue f q).state = 1 ∧ s.cfgBusy = none ∧ e.ends = none ∧ collDone s k = true) := by
  refine ⟨?_, ?_, ?_, ?_, ?_⟩
  · exact ⟨hosted up0 0 0 (pkt 0x44 [(12, 2), (16, 7)]), 0, _, waits _ _ _ _ rfl rfl rfl rfl rfl rfl, (by decide +kernel), (by unfold Claims.sound_; decide +kernel), (by decide +kernel), (by decide +kernel), (by decide +kernel), fun _ => ⟨rfl, rfl, fun _ h => nomatch h⟩⟩
  · exact ⟨hosted { upPart 0 idle0 with lnk := { jobs := jobs2 } } 0 0 (pkt 0x44 [(2, 64), (8, 1)]), 0, _, waits _ _ _ _ rfl rfl rfl rfl rfl rfl, (by decide +kernel), (by unfold Claims.sound_; decide +kernel), (by decide +kernel), (by decide +kernel)⟩
  · exact ⟨hosted { upPart 0 idle0 with lnk := { jobs := jobs2 } } 0 0 (pkt 0x48 [(2, 64), (12, 1), (16, 0x040000000000), (24, 0x040000000080)]), 0, 0, 0, _, waits _ _ _ _ rfl rfl rfl rfl rfl rfl, (by decide +kernel), (by unfold Claims.sound_; decide +kernel), (by decide +kernel), (by decide +kernel), (by decide +kernel), (by decide +kernel), (by decide +kernel), (by decide +kernel)⟩
  · exact ⟨hosted (upLink {} [(15, { busy := true, ends := some 0x14 })]) 0 0 (pkt 0x48 []), 15, 0, 0, pkt 0x48 [], rfl, rfl, rfl, rfl, rfl, 0x14, rfl⟩
  · exact ⟨hosted (upLink {} [(0, { busy := true, stage := 2, written := [0] })]) 0 0 (pkt 0x48 []), 0, 0, 0, pkt 0x48 [], rfl, rfl, rfl, rfl, rfl, rfl, (by decide +kernel)⟩

/-- Every clause of FramesReceived has a state and operands that meet it. -/
theorem witness_FramesReceived :
    (∃ (s : State) (l k : Nat) (fr : Frame), (s.link l).listens = true ∧ rxCheck s l fr = some k) ∧
    (∃ (s : State) (l : Nat) (fr : Frame), Claims.received s l fr tData ∧ fr.jobId ≠ 0 ∧ engineOf s fr.jobId fr.collSeq = none ∧ Claims.inOrder s l fr) ∧
    (∃ (s : State) (l : Nat) (fr : Frame), Claims.received s l fr tData ∧ fr.jobId ≠ 0 ∧ engineOf s fr.jobId fr.collSeq = none ∧ let lk := s.link l
    let d := (fr.psn - lk.cum).toNat
    0 < d ∧ d < 256 ∧ fr.psn ∉ lk.got ∧ lk.cum ∉ lk.got ∧ Claims.keyed s l 0) ∧
    (∃ (s : State) (l : Nat) (fr : Frame), Claims.received s l fr tData ∧ fr.jobId ≠ 0 ∧ engineOf s fr.jobId fr.collSeq = none ∧ let lk := s.link l
    let d := (fr.psn - lk.cum).toNat
    2 ^ 32 - 256 ≤ d ∧ Claims.keyed s l 0) ∧
    (∃ (s : State) (l k kr : Nat) (r : Ring) (fr : Frame), Claims.received s l fr tData ∧ fr.jobId ≠ 0 ∧ engineOf s fr.jobId fr.collSeq = some k ∧ Claims.inOrder s l fr ∧ let e := s.engine k
    e.ends = none ∧ e.stage = 2 ∧ 2 ≤ e.op ∧ e.linkMask.getLsbD l = true ∧ e.ringOf fr.step.toNat = some (kr, r) ∧ (∀ p ∈ e.peers, p.link = l → p.dim = r.g ∧ p.plus = false)) ∧
    (∃ (s : State) (l : Nat) (fr : Frame), Claims.received s l fr tStart ∧ Claims.inOrder s l fr ∧ engineOf s fr.jobId fr.collSeq = none ∧ instEnded s fr.jobId fr.collSeq = false ∧ (s.link l).early.length < 16) ∧
    (∃ (s : State) (l : Nat) (fr : Frame), Claims.received s l fr tStart ∧ Claims.inOrder s l fr ∧ ∃ k, engineOf s fr.jobId fr.collSeq = some k ∧ let e := s.engine k
    let sd := BitVec.ofNat 512 (leNat (fr.payload.take 64))
    let dd := BitVec.ofNat 512 (leNat ((fr.payload.drop 64).take 64))
    e.ends = none ∧ e.linkMask.getLsbD l = true ∧ (∀ p ∈ e.peers, p.link ≠ l) ∧ (fr.payload.length ≠ 136 ∨ sansCoord sd ≠ sansCoord e.srcD ∨ sansCoord dd ≠ sansCoord e.dstD)) ∧
    (∃ (s : State) (l : Nat) (fr : Frame), Claims.received s l fr tStart ∧ Claims.inOrder s l fr ∧ ∃ k, engineOf s fr.jobId fr.collSeq = some k ∧ let e := s.engine k
    let sd := BitVec.ofNat 512 (leNat (fr.payload.take 64))
    let dd := BitVec.ofNat 512 (leNat ((fr.payload.drop 64).take 64))
    e.ends = none ∧ e.linkMask.getLsbD l = true ∧ (∀ p ∈ e.peers, p.link ≠ l) ∧ ∃ x, fr.payload.length = 136 ∧ sansCoord sd = sansCoord e.srcD ∧ sansCoord dd = sansCoord e.dstD ∧ leNat ((fr.payload.drop 128).take 1) = e.op ∧ leNat ((fr.payload.drop 132).take 4) = e.root ∧ peerOf e.sd (dImg sd) l = some x) ∧
    (∃ (s : State) (l : Nat) (fr : Frame), Claims.received s l fr tAck ∧ (s.link l).txq = [] ∧ (s.link l).ctlq = [] ∧ (∀ b ∈ fr.payload.take 32, b = 0) ∧ (∀ x ∈ (s.link l).unacked, x.again = false)) ∧
    (∃ (s : State) (l : Nat) (fr : Frame), Claims.received s l fr tAck ∧ (s.link l).txq = [] ∧ (s.link l).ctlq = [] ∧ ∃ x, let d := (x.fr.psn - fr.psn).toNat
    let bm := leNat (fr.payload.take 32)
    (s.link l).unacked = [x] ∧ d < 256 ∧ bitOf bm d = false ∧ 3 ≤ popCount (bm >>> (d + 1)) 256 ∧ x.sends = 1 ∧ Claims.keyed s l x.fr.jobId ∧ jobPart s x.fr.jobId = txPart x ∧ (∀ u, (s.link l).lastCut = some u → 20000 ≤ (s.time - u).toNat)) ∧
    (∀ late : Bool, ∃ (s : State) (l : Nat) (fr : Frame), Claims.received s l fr tCnp ∧ ∃ u, (s.link l).lastCut = some u ∧ (20000 ≤ (s.time - u).toNat ↔ late = true)) ∧
    (∃ (s : State) (l : Nat) (fr : Frame), rxCheck s l fr = none ∧ fr.ftype = tHello ∧ markedCe (s.link l) fr.outer = false ∧ let lo := fr.payload.getD 0 0
    let hi := fr.payload.getD 1 0
    (s.link l).st = 4 ∧ fr.flags.getLsbD 2 = true ∧ lo ≤ 1 ∧ 1 ≤ hi ∧ (s.link l).rope = false ∧ (s.link l).train = none) ∧
    (∃ (s : State) (l : Nat) (fr : Frame), rxCheck s l fr = none ∧ fr.ftype = tHello ∧ markedCe (s.link l) fr.outer = false ∧ let lo := fr.payload.getD 0 0
    let hi := fr.payload.getD 1 0
    (s.link l).st = 4 ∧ (hi = 0 ∨ 1 < lo)) ∧
    (∃ (s : State) (l : Nat) (fr : Frame), rxCheck s l fr = none ∧ fr.ftype = tHello ∧ markedCe (s.link l) fr.outer = false ∧ (s.link l).st = 5 ∧ fr.flags.getLsbD 2 = false) ∧
    (∃ (s : State) (l : Nat) (fr : Frame), Claims.received s l fr tEcho ∧ fr.flags.getLsbD 2 = false ∧ Claims.keyed s l 0) ∧
    (∃ (s : State) (l : Nat) (fr : Frame), Claims.received s l fr tEcho ∧ fr.flags.getLsbD 2 = true) := by
  refine ⟨?_, ?_, ?_, ?_, ?_, ?_, ?_, ?_, ?_, ?_, ?_, ?_, ?_, ?_, ?_, ?_⟩
  · exact ⟨upLink readyL [], 0, 0, { frameOf 1 0 0 0 0 [] with fcsOk := false }, rfl, rfl⟩
  · exact ⟨upLink readyL [], 0, frameOf 1 0 1 0 4 [], ⟨rfl, accepted rfl ⟨rfl, rfl⟩ rfl (by decide +kernel) (by decide) (by decide +kernel), rfl, rfl⟩, by decide, (by decide +kernel), rfl, rfl, by decide⟩
  · exact ⟨upLink readyL [], 0, frameOf 1 0 1 255 4 [], ⟨rfl, accepted rfl ⟨rfl, rfl⟩ rfl (by decide +kernel) (by decide) (by decide +kernel), rfl, rfl⟩, by decide, (by decide +kernel), (by decide +kernel), (by decide +kernel), List.not_mem_nil, List.not_mem_nil, keyedAt rfl (by decide) rfl⟩
  · exact ⟨upLink readyL [], 0, frameOf 1 0 1 (-256) 4 [], ⟨rfl, accepted rfl ⟨rfl, rfl⟩ rfl (by decide +kernel) (by decide) (by decide +kernel), rfl, rfl⟩, by decide, (by decide +kernel), (by decide +kernel), keyedAt rfl (by decide) rfl⟩
  · exact ⟨upLink readyL [(15, coll 2)], 0, 15, 0, ⟨0, 2, 0⟩, frameOf 1 0 1 0 4 [], ⟨rfl, accepted rfl ⟨rfl, rfl⟩ rfl (by decide +kernel) (by decide) (by decide +kernel), rfl, rfl⟩, by decide, (by decide +kernel), ⟨rfl, rfl, by decide⟩, rfl, rfl, by decide, (by decide +kernel), (by decide +kernel), fun _ h => nomatch h⟩
  · exact ⟨upLink readyL [], 0, frameOf 2 0 1 0 5 [], ⟨rfl, accepted rfl ⟨rfl, rfl⟩ rfl (by decide +kernel) (by decide) (by decide +kernel), rfl, rfl⟩, ⟨rfl, rfl, by decide⟩, (by decide +kernel), (by decide +kernel), by decide⟩
  · exact ⟨upLink readyL [(0, coll 0)], 0, frameOf 2 0 1 0 4 [], ⟨rfl, accepted rfl ⟨rfl, rfl⟩ rfl (by decide +kernel) (by decide) (by decide +kernel), rfl, rfl⟩, ⟨rfl, rfl, by decide⟩, 0, (by decide +kernel), rfl, (by decide +kernel), (fun _ h => nomatch h), .inl (by decide +kernel)⟩
  · exact ⟨upLink readyL [(0, coll 0)], 0, frameOf 2 0 1 0 4 startBytes, ⟨rfl, accepted rfl ⟨rfl, rfl⟩ rfl (by decide +kernel) (by decide) (by decide +kernel), rfl, rfl⟩, ⟨rfl, rfl, by decide⟩, 0, (by decide +kernel), rfl, (by decide +kernel), (fun _ h => nomatch h), ⟨0, 0, true⟩, (by decide +kernel), (by decide +kernel), (by decide +kernel), (by decide +kernel), (by decide +kernel), (by decide +kernel)⟩
  · exact ⟨upLink readyL [], 0, frameOf 3 0 0 0 0 (List.replicate 32 0), ⟨rfl, accepted rfl ⟨rfl, rfl⟩ rfl (by decide +kernel) (by decide) (by decide +kernel), rfl, rfl⟩, rfl, rfl, (by decide +kernel), fun _ h => nomatch h⟩
  · exact ⟨upLink { st := 5, unacked := [⟨0, frameOf 1 0 1 252 4 [], 0, 1, 0, false⟩] } [], 0, frameOf 3 0 0 0 0 (leBytes (7 * 2 ^ 253) 32), ⟨rfl, accepted rfl ⟨rfl, rfl⟩ rfl (by decide +kernel) (by decide) (by decide +kernel), rfl, rfl⟩, rfl, rfl, ⟨0, frameOf 1 0 1 252 4 [], 0, 1, 0, false⟩, rfl, by decide, (by decide +kernel), (by decide +kernel), rfl, keyedAt rfl (by decide) rfl, (by decide +kernel), fun _ h => nomatch h⟩
  · exact fun late => ⟨{ upLink { st := 5, lastCut := some 1 } [] with time := if late then 20001 else 20000 }, 0, frameOf 4 0 0 0 0 [], ⟨rfl, accepted rfl ⟨rfl, rfl⟩ rfl (by decide +kernel) (by decide) (by decide +kernel), rfl, rfl⟩, 1, rfl, by cases late <;> decide⟩
  · exact ⟨upLink { st := 4 } [], 0, frameOf 5 4 0 0 0 [1, 1, 0, 0x10, 0, 0, 0, 0], accepted rfl ⟨rfl, rfl⟩ rfl (by decide +kernel) (by decide) (by decide +kernel), rfl, (by decide +kernel), rfl, (by decide +kernel), by decide, by decide, rfl, rfl⟩
  · exact ⟨upLink { st := 4 } [], 0, frameOf 5 0 0 0 0 [2, 2, 0, 0x10, 0, 0, 0, 0], accepted rfl ⟨rfl, rfl⟩ rfl (by decide +kernel) (by decide) (by decide +kernel), rfl, (by decide +kernel), rfl, .inr (by decide)⟩
  · exact ⟨upLink readyL [], 0, frameOf 5 0 0 0 0 [1, 1, 0, 0x10, 0, 0, 0, 0], accepted rfl ⟨rfl, rfl⟩ rfl (by decide +kernel) (by decide) (by decide +kernel), rfl, (by decide +kernel), rfl, (by decide +kernel)⟩
  · exact ⟨upLink readyL [], 0, frameOf 6 0 0 0 0 [], ⟨rfl, accepted rfl ⟨rfl, rfl⟩ rfl (by decide +kernel) (by decide) (by decide +kernel), rfl, rfl⟩, (by decide +kernel), keyedAt rfl (by decide) rfl⟩
  · exact ⟨upLink readyL [], 0, frameOf 6 4 0 0 0 [], ⟨rfl, accepted rfl ⟨rfl, rfl⟩ rfl (by decide +kernel) (by decide) (by decide +kernel), rfl, rfl⟩, (by decide +kernel)⟩

/-! ### Witnesses: the rope -/

/-- A serving device whose rope links are READY, in the rope state given. -/
def roped (r : Rope) : State := { up0 with
  rope := r, lnk := { links := (List.range 4).map fun k => (60 + k, { st := 5, rope := true }) } }

def rec0 : RopeRec := { link := 60, epoch := 9, mepoch := 1, seq := 0, arg := 0, resvOk := true, data := [] }

/-- ROPE_FORM 5 on queue (0, 0) waits for the pair of epoch 9. -/
def forming (second : Bool) (t0 : BitVec 64) : State := { roped { st := 1, epoch := 9, second := second, cmd := some ⟨0, 0, 0⟩, formStart := t0 } with
  queues := [(0, { openQ with cmds := [pkt 0x50 []] })], cfgBusy := some ⟨0, 0, 0⟩ }

def txOf (n : Nat) : TxFrame := { part := 0, fr := frameOf 1 0 1 7 4 [], timeouts := n, sentAt := -10000000 }

/-- Every clause of RopeCommands has a state and operands that meet it. -/
theorem witness_RopeCommands :
    (∃ (s : State) (q : Nat) (c : Cmd), Claims.Waiting s 0 q c ∧ c.opcode = 0x50 ∧ Claims.sound_ s 0 c true false [(8, 0, 1), (16, 0, 64)] ∧ let epoch := BitVec.ofNat 64 (c.arg 16 8)
    epoch.toNat < s.rope.epoch.toNat) ∧
    (∃ (s : State) (q : Nat) (c : Cmd), Claims.Waiting s 0 q c ∧ c.opcode = 0x50 ∧ Claims.sound_ s 0 c true false [(8, 0, 1), (16, 0, 64)] ∧ let epoch := BitVec.ofNat 64 (c.arg 16 8)
    s.rope.epoch.toNat ≤ epoch.toNat ∧ s.rope.st ≠ 0) ∧
    (∃ (s : State) (q : Nat) (c : Cmd), Claims.Waiting s 0 q c ∧ c.opcode = 0x50 ∧ Claims.sound_ s 0 c true false [(8, 0, 1), (16, 0, 64)] ∧ let epoch := BitVec.ofNat 64 (c.arg 16 8)
    s.rope.epoch.toNat ≤ epoch.toNat ∧ s.rope.st = 0 ∧ (∃ l ∈ ropeLinks, (s.link l).st ≠ 5)) ∧
    (∃ (s : State) (q : Nat) (c : Cmd), Claims.Waiting s 0 q c ∧ c.opcode = 0x50 ∧ Claims.sound_ s 0 c true false [(8, 0, 1), (16, 0, 64)] ∧ let epoch := BitVec.ofNat 64 (c.arg 16 8)
    let second := bitOf (c.arg 8 1) 0
    s.rope.epoch.toNat ≤ epoch.toNat ∧ s.rope.st = 0 ∧ (∀ l ∈ ropeLinks, (s.link l).st = 5) ∧ (second = true → ∀ p ∈ s.parts, ∀ a ∈ p.2.allocs, a.2.typ ≠ 0 → spansMeet a.2.base a.2.size stagingStart stagingSize = false)) ∧
    (∃ (s : State) (q : Nat) (bad : Bool) (c : Cmd), Claims.Waiting s 0 q c ∧ c.opcode = 0x51 ∧ Claims.sound_ s 0 c true false [(8, 0, 4), (9, 0, 1), (16, 0, 128)] ∧ mirrorRefusals bad s (c.partN 0) c = []) ∧
    (∃ (s : State) (q : Nat) (c : Cmd), Claims.Waiting s 0 q c ∧ c.opcode = 0x52 ∧ Claims.sound_ s 0 c true false [(16, 0, 64)] ∧ s.rope.st = 3 ∧ s.rope.epoch.toNat < c.arg 16 8) ∧
    (∃ (s : State) (f q : Nat) (c : Cmd), s.rope.st = 4 ∧ s.rope.cmd = some ⟨f, q, c.seq⟩ ∧ (s.queue f q).cmds = [c] ∧ (s.queue f q).state = 1 ∧ s.cfgBusy = some ⟨f, q, c.seq⟩) ∧
    (∃ (s : State) (q : Nat) (c : Cmd), Claims.Waiting s 0 q c ∧ c.opcode = 0x53 ∧ Claims.sound_ s 0 c true false [] ∧ (s.rope.st = 2 ∨ s.rope.st = 3)) := by
  refine ⟨?_, ?_, ?_, ?_, ?_, ?_, ?_, ?_⟩
  · exact ⟨hosted (roped { epoch := 2 }) 0 0 (pkt 0x50 [(16, 1)]), 0, _, waits _ _ _ _ rfl rfl rfl rfl rfl rfl, (by decide +kernel), (by unfold Claims.sound_; decide +kernel), (by decide +kernel)⟩
  · exact ⟨hosted (roped { epoch := 1, st := 3 }) 0 0 (pkt 0x50 [(16, 1)]), 0, _, waits _ _ _ _ rfl rfl rfl rfl rfl rfl, (by decide +kernel), (by unfold Claims.sound_; decide +kernel), (by decide +kernel), (by decide +kernel)⟩
  · exact ⟨hosted up0 0 0 (pkt 0x50 [(16, 1)]), 0, _, waits _ _ _ _ rfl rfl rfl rfl rfl rfl, (by decide +kernel), (by unfold Claims.sound_; decide +kernel), (by decide +kernel), rfl, (by decide +kernel)⟩
  · exact ⟨hosted (roped {}) 0 0 (pkt 0x50 [(8, 1), (16, 1)]), 0, _, waits _ _ _ _ rfl rfl rfl rfl rfl rfl, (by decide +kernel), (by unfold Claims.sound_; decide +kernel), (by decide +kernel), rfl, (by decide +kernel), (by decide +kernel)⟩
  · exact ⟨hosted (roped { st := 2 }) 0 0 (pkt 0x51 [(8, 15), (9, 1), (24, 0x200000)]), 0, false, _, waits _ _ _ _ rfl rfl rfl rfl rfl rfl, (by decide +kernel), (by unfold Claims.sound_; decide +kernel), (by decide +kernel)⟩
  · exact ⟨hosted (roped { st := 3 }) 0 0 (pkt 0x52 [(16, 1)]), 0, _, waits _ _ _ _ rfl rfl rfl rfl rfl rfl, (by decide +kernel), (by unfold Claims.sound_; decide +kernel), rfl, (by decide +kernel)⟩
  · exact ⟨{ hosted (roped { st := 4, cmd := some ⟨0, 0, 0⟩ }) 0 0 (pkt 0x52 [(16, 1)]) with cfgBusy := some ⟨0, 0, 0⟩ }, 0, 0, _, rfl, rfl, rfl, rfl, rfl⟩
  · exact ⟨hosted (roped { st := 2 }) 0 0 (pkt 0x53 []), 0, _, waits _ _ _ _ rfl rfl rfl rfl rfl rfl, (by decide +kernel), (by unfold Claims.sound_; decide +kernel), .inl rfl⟩

/-- Every clause of RopeRecords has a state and operands that meet it. -/
theorem witness_RopeRecords :
    (∃ (s : State) (r : RopeRec), (s.link r.link).rope = true ∧ r.resvOk = true ∧ (s.rope.st = 0 ∨ s.rope.st = 4 ∨ r.epoch ≠ s.rope.epoch)) ∧
    (∃ (s : State) (r : RopeRec), (s.link r.link).rope = false) ∧
    (∃ (s : State) (r : RopeRec) (f q : Nat) (c : Cmd), s.rope.st = 1 ∧ s.rope.cmd = some ⟨f, q, c.seq⟩ ∧ (s.queue f q).cmds = [c] ∧ (s.queue f q).state = 1 ∧ s.cfgBusy = some ⟨f, q, c.seq⟩ ∧ Claims.taken s r ∧ r.arg.getLsbD 0 ≠ s.rope.second) ∧
    (∃ (s : State) (r : RopeRec) (f q : Nat) (c : Cmd), s.rope.st = 1 ∧ s.rope.cmd = some ⟨f, q, c.seq⟩ ∧ (s.queue f q).cmds = [c] ∧ (s.queue f q).state = 1 ∧ s.cfgBusy = some ⟨f, q, c.seq⟩ ∧ Claims.taken s r ∧ r.arg.getLsbD 0 = s.rope.second) ∧
    (∃ (s : State) (r : RopeRec) (f q : Nat) (c : Cmd), s.rope.st = 1 ∧ s.rope.cmd = some ⟨f, q, c.seq⟩ ∧ (s.queue f q).cmds = [c] ∧ (s.queue f q).state = 1 ∧ s.cfgBusy = some ⟨f, q, c.seq⟩ ∧ (s.link r.link).rope = true ∧ r.resvOk = true ∧ s.rope.epoch.toNat < r.epoch.toNat) ∧
    (∃ (s : State) (r : RopeRec) (f q : Nat) (c : Cmd), s.rope.st = 1 ∧ s.rope.cmd = some ⟨f, q, c.seq⟩ ∧ (s.queue f q).cmds = [c] ∧ (s.queue f q).state = 1 ∧ s.cfgBusy = some ⟨f, q, c.seq⟩ ∧ 1000000000 ≤ (s.time - s.rope.formStart).toNat) ∧
    (∃ (s : State) (r : RopeRec), Claims.taken s r ∧ s.rope.st = 3 ∧ s.rope.done < r.mepoch.toNat ∧ let e := r.mepoch.toNat
    NMap.get none s.rope.endCount (s.rope.done + 1) = none ∧ (∀ x ∈ s.rope.placed, x.1 = e → x.2.2.1 ≠ r.seq.toNat)) ∧
    (∃ (s : State) (r : RopeRec), Claims.taken s r ∧ s.rope.st = 3 ∧ s.rope.done < r.mepoch.toNat ∧ let e := r.mepoch.toNat
    e = s.rope.done + 1 ∧ s.rope.apply = none ∧ (∀ n < r.arg.toNat, ∃ x ∈ s.rope.placed, x.1 = e ∧ x.2.2.1 = n)) ∧
    (∃ (s : State) (r : RopeRec), Claims.taken s r ∧ s.rope.st = 3 ∧ NMap.get none s.rope.windowIdx (r.arg.toNat % 131072) ≠ some r.arg.toNat) ∧
    (∃ (s : State) (r : RopeRec), Claims.taken s r ∧ s.rope.st = 2 ∧ s.rope.awaiting = true ∧ r.arg.toNat + 1 = s.rope.open_) ∧
    (∃ (s : State) (r : RopeRec), Claims.taken s r ∧ (s.rope.st = 2 ∨ s.rope.st = 3)) := by
  refine ⟨?_, ?_, ?_, ?_, ?_, ?_, ?_, ?_, ?_, ?_, ?_⟩
  · exact ⟨roped {}, rec0, rfl, rfl, .inl rfl⟩
  · exact ⟨up0, rec0, rfl⟩
  · exact ⟨forming true 0, rec0, 0, 0, _, rfl, rfl, rfl, rfl, rfl, ⟨rfl, rfl, rfl⟩, (by decide +kernel)⟩
  · exact ⟨forming false 0, rec0, 0, 0, _, rfl, rfl, rfl, rfl, rfl, ⟨rfl, rfl, rfl⟩, (by decide +kernel)⟩
  · exact ⟨forming false 0, { rec0 with epoch := 10 }, 0, 0, _, rfl, rfl, rfl, rfl, rfl, rfl, rfl, (by decide +kernel)⟩
  · exact ⟨forming false (-1000000000), rec0, 0, 0, _, rfl, rfl, rfl, rfl, rfl, (by decide +kernel)⟩
  · exact ⟨roped { st := 3, epoch := 9 }, rec0, ⟨rfl, rfl, rfl⟩, rfl, (by decide +kernel), rfl, fun _ h => nomatch h⟩
  · exact ⟨roped { st := 3, epoch := 9 }, rec0, ⟨rfl, rfl, rfl⟩, rfl, (by decide +kernel), rfl, rfl, fun _ h => nomatch h⟩
  · exact ⟨roped { st := 3, epoch := 9 }, rec0, ⟨rfl, rfl, rfl⟩, rfl, (by decide +kernel)⟩
  · exact ⟨roped { st := 2, epoch := 9, awaiting := true, open_ := 1 }, rec0, ⟨rfl, rfl, rfl⟩, rfl, rfl, rfl⟩
  · exact ⟨roped { st := 2, epoch := 9 }, rec0, ⟨rfl, rfl, rfl⟩, .inl rfl⟩

/-- Every clause of LinkAndRopeEvents has a state and operands that meet it. -/
theorem witness_LinkAndRopeEvents :
    (∀ late : Bool, ∃ (s : State) (l : Nat), (s.link l).st = 5 ∧ 0 < (s.link l).sinceAck ∧ (2000 ≤ (s.time - (s.link l).ackSince).toNat ↔ late = true) ∧ Claims.keyed s l 0) ∧
    (∀ last : Bool, ∃ (s : State) (l : Nat) (psn : BitVec 32) (x : TxFrame), (s.link l).st = 5 ∧ (s.link l).unacked = [x] ∧ x.fr.psn = psn ∧ x.again = false ∧
      (let first := match (s.link l).srtt with
        | none => 100000
        | some r => max 20000 (2 * r + 10000)
       min 10000000 (first * 2 ^ x.timeouts) ≤ (s.time - x.sentAt).toNat) ∧
      (7 ≤ x.timeouts ↔ last = true) ∧ Claims.keyed s l x.fr.jobId ∧ jobPart s x.fr.jobId = txPart x) ∧
    (∃ (s : State) (l : Nat), (s.link l).st = 5) ∧
    (∀ late : Bool, ∃ (s : State) (l : Nat), (s.link l).st = 4 ∧ (1000000000 ≤ (s.time - (s.link l).negStart).toNat ↔ late = true) ∧ 1000000 ≤ (s.time - (s.link l).helloAt).toNat ∧ Claims.keyed s l 0) ∧
    (∃ (s : State) (l : Nat), (s.link l).st = 5 ∧ 1000000 ≤ (s.time - (s.link l).echoAt).toNat ∧ Claims.keyed s l 0) ∧
    (∃ (s : State) (l : Nat), (s.link l).st = 3 ∨ (s.link l).st = 4 ∨ (s.link l).st = 5) ∧
    (∃ (s : State), s.rope.st = 1 ∧ (s.time - s.rope.formStart).toNat < 1000000000) ∧
    (∃ (s : State) (l : Nat), (s.rope.st = 2 ∨ s.rope.st = 3) ∧ (s.link l).rope = true) ∧
    (∃ (s : State), s.rope.st = 2 ∧ s.rope.awaiting = false ∧ ownedPages s.mem = [] ∧ (1000000 ≤ (s.time - s.rope.cutAt).toNat ∨ ropeLimit ≤ s.mem.syncedDirty)) ∧
    (∃ (s : State) (e : Nat), s.rope.st = 3 ∧ s.rope.apply = some e ∧ NMap.get none s.rope.endCount (s.rope.done + 1) = none) ∧
    (∃ (s : State), s.rope.st = 2 ∧ s.rope.awaiting = true) ∧
    (∃ (s : State) (l : Nat), (s.link l).rope = true ∧ (s.link l).st ≠ 5 ∧ (∃ k ∈ ropeLinks, (s.link k).st = 5)) := by
  refine ⟨?_, ?_, ?_, ?_, ?_, ?_, ?_, ?_, ?_, ?_, ?_, ?_⟩
  · exact fun late => ⟨upLink { st := 5, sinceAck := 1, ackSince := if late then -2000 else -1999 } [], 0, rfl, by decide +revert, by cases late <;> decide, keyedAt rfl (by decide) rfl⟩
  · exact fun last => ⟨upLink { st := 5, unacked := [txOf (if last then 7 else 6)] } [], 0, 7, txOf (if last then 7 else 6), rfl, rfl, rfl, rfl, by cases last <;> decide +kernel, by cases last <;> decide, keyedAt rfl (.inr rfl) rfl, by cases last <;> decide +kernel⟩
  · exact ⟨upLink readyL [], 0, rfl⟩
  · exact fun late => ⟨upLink { st := 4, negStart := if late then -1000000000 else -999999999, helloAt := -1000000 } [], 0, rfl, by cases late <;> decide, by decide +revert, keyedAt rfl (by decide) rfl⟩
  · exact ⟨upLink { st := 5, echoAt := -1000000 } [], 0, rfl, by decide, keyedAt rfl (by decide) rfl⟩
  · exact ⟨upLink { st := 3 } [], 0, .inl rfl⟩
  · exact ⟨forming false 0, rfl, (by decide +kernel)⟩
  · exact ⟨roped { st := 2 }, 60, .inl rfl, rfl⟩
  · exact ⟨roped { st := 2, cutAt := -1000000 }, rfl, rfl, rfl, .inl (by decide)⟩
  · exact ⟨roped { st := 3, apply := some 1 }, 1, rfl, rfl, rfl⟩
  · exact ⟨roped { st := 2, awaiting := true }, rfl, rfl⟩
  · exact ⟨{ roped { st := 2 } with lnk := { links := [(60, { rope := true }), (61, { st := 5, rope := true })] } }, 60, rfl, (by decide +kernel), 61, by decide, rfl⟩

/-! ### Witnesses: clocks, power, heat -/

/-- A serving device with its clocks locked and the supplies given. -/
def powered (doms : NMap Dom) (w : Pwr) : State := { up0 with clk := { pllLock := true, tbLock := true }, pwr := { w with doms := doms } }

/-- A CLOCK_SET of queue (0, 0) to 13 in stage `st`, domain 9 slewing, the PLL at `now`. -/
def raising (st now : Nat) : State := { powered [(9, { st := 2, slewing := true })] {} with
  queues := [(0, { openQ with cmds := [pkt 0x30 []] })], cfgBusy := some ⟨0, 0, 0⟩
  clk := { pllLock := true, stage := st, now := now, target := 13, slewAt := -1000, cmd := some (⟨0, 0, 0⟩, 0) } }

/-- Every clause of ClocksAndSupplies has a state and operands that meet it. -/
theorem witness_ClocksAndSupplies :
    (∀ low : Bool, ∃ (s : State) (q : Nat) (c : Cmd), Claims.Waiting s 0 q c ∧ c.opcode = 0x30 ∧ Claims.sound_ s 0 c true false [(8, 0, 16)] ∧ (c.arg 8 2 < 12 ↔ low = true) ∧ s.clk.cmd = none ∧ s.pwr.alert = 0) ∧
    (∃ s : State, (s.clk.stage = 3 → s.clk.now < s.clk.target) ∧ (s.clk.stage = 4 → s.clk.target < s.clk.now) ∧ s.since s.clk.slewAt 1000 = false) ∧
    (∃ s : State, s.clk.stage = 4 ∧ s.clk.target < s.clk.now ∧ s.since s.clk.slewAt 1000 = true) ∧
    (∃ (s : State) (f q : Nat) (c : Cmd) (det : Nat), s.since s.clk.slewAt 1000 = true ∧ s.clk.stage = 3 ∧ s.clk.now + 1 = s.clk.target ∧ s.clk.cmd = some (⟨f, q, c.seq⟩, det) ∧ (s.queue f q).cmds = [c] ∧ (s.queue f q).state = 1 ∧ s.cfgBusy = some ⟨f, q, c.seq⟩) ∧
    (∃ (s : State) (q : Nat) (c : Cmd), Claims.Waiting s 0 q c ∧ c.opcode = 0x31 ∧ Claims.sound_ s 0 c true false [(8, 0, 16), (10, 0, 16)]) ∧
    (∀ k < 3, ∃ (s : State) (d : Nat), (s.dom d).st = 2 ∧ (s.dom d).slewing = true ∧ s.pwr.alert ≠ 2 ∧ s.clk.stage = k ∧ (k = 1 → s.clk.now < s.clk.target) ∧ (0 < k → suppliesSettled (domDone s d) = true) ∧
      (k = 2 → ∃ f q c det, s.clk.cmd = some (⟨f, q, Cmd.seq c⟩, det) ∧ (s.queue f q).cmds = [c] ∧ (s.queue f q).state = 1 ∧ s.cfgBusy = some ⟨f, q, c.seq⟩)) ∧
    (∀ k < 5, ∃ (s : State) (d : Nat) (code : BitVec 9) (who : VIssuer), d < 10 ∧ s.pwr.alert ≠ 2 ∧ s.clk.stage = 0 ∧
      let x := s.dom d
      let v := clampCode d (if who = .coldStart then code.toNat else max code.toNat (curve (domKind d) (coreClk s)))
      (k = 0 → x.st = 0 ∨ x.st = 4) ∧ (k = 1 → x.st = 1 ∨ x.st = 3) ∧ (k = 2 → ∃ l, x.st = 2 ∧ logicOf d = some l) ∧
      (k = 3 → ∃ a, x.st = 2 ∧ arrayOf d = some a ∧ ((s.dom a).st = 0 ∨ (s.dom a).st = 4 ∨ v ≤ (s.dom a).goal)) ∧
      (k = 4 → ∃ a, x.st = 2 ∧ arrayOf d = some a ∧ (s.dom a).st = 2 ∧ (s.dom a).goal < v ∧ presentSet s (s.dom a) ≠ v)) ∧
    (∃ (s : State) (d : Nat) (who : VIssuer) (f q : Nat) (c : Cmd) (det : Nat), d < 10 ∧ s.pwr.alert ≠ 2 ∧ s.clk.stage = 1 ∧ (s.dom d).slewing = true ∧ who ≠ .clockSet ∧ s.clk.cmd = some (⟨f, q, c.seq⟩, det) ∧ (s.queue f q).cmds = [c] ∧ (s.queue f q).state = 1 ∧ s.cfgBusy = some ⟨f, q, c.seq⟩) ∧
    (∃ (s : State), s.clk.pllLock = true ∧ 420 ≤ s.thm.tmax) ∧
    (∃ (s : State), s.clk.pllLock = true ∧ s.thm.tmax ≤ 408 ∧ 1000000 ≤ (s.time - s.thm.fastHot).toNat) ∧
    (∃ (s : State), s.clk.tbLock = true) ∧
    (∃ (s : State) (a : HangAccess), s.up = true ∧ a.domain ∉ s.clk.stopped) := by
  refine ⟨?_, ?_, ?_, ?_, ?_, ?_, ?_, ?_, ?_, ?_, ?_, ?_⟩
  · intro low
    cases low
    · exact ⟨hosted (powered [] {}) 0 0 (pkt 0x30 [(8, 12)]), 0, _, waits _ _ _ _ rfl rfl rfl rfl rfl rfl, (by decide +kernel), (by unfold Claims.sound_; decide +kernel), (by decide +kernel), rfl, rfl⟩
    · exact ⟨hosted up0 0 0 (pkt 0x30 [(8, 11)]), 0, _, waits _ _ _ _ rfl rfl rfl rfl rfl rfl, (by decide +kernel), (by unfold Claims.sound_; decide +kernel), (by decide +kernel), rfl, rfl⟩
  · exact ⟨{ raising 3 12 with time := -1 }, by decide, by decide, by decide⟩
  · exact ⟨raising 4 14, rfl, by decide, by decide⟩
  · exact ⟨raising 3 12, 0, 0, pkt 0x30 [], 0, by decide, rfl, rfl, rfl, rfl, rfl, rfl⟩
  · exact ⟨hosted (powered [] {}) 0 0 (pkt 0x31 [(8, 160), (10, 200)]), 0, _, waits _ _ _ _ rfl rfl rfl rfl rfl rfl, (by decide +kernel), (by unfold Claims.sound_; decide +kernel)⟩
  · intro k hk
    exact ⟨raising k 12, 9, rfl, rfl, (by simp [raising, powered]), rfl, (fun _ => Nat.lt_succ_self 12), (fun _ => (by decide +kernel : suppliesSettled (domDone (raising 1 12) 9) = true)), fun _ => ⟨0, 0, pkt 0x30 [], 0, rfl, rfl, rfl, rfl⟩⟩
  · intro k hk
    match k, hk with
    | 0, _ => exact ⟨up0, 9, 500, .belay, by decide, by decide, rfl, fun _ => .inl rfl, nofun, nofun, nofun, nofun⟩
    | 1, _ => exact ⟨powered [(0, { st := 1 })] {}, 0, 0, .coldStart, by decide, by decide, rfl, nofun, fun _ => .inl rfl, nofun, nofun, nofun⟩
    | 2, _ => exact ⟨powered [(9, { st := 2 })] {}, 9, 511, .coldStart, by decide, by decide, rfl, nofun, nofun, fun _ => ⟨8, rfl, (by decide +kernel)⟩, nofun, nofun⟩
    | 3, _ => exact ⟨powered [(8, { st := 2 })] {}, 8, 511, .coldStart, by decide, by decide, rfl, nofun, nofun, nofun, fun _ => ⟨9, rfl, (by decide +kernel), .inl rfl⟩, nofun⟩
    | 4, _ => exact ⟨powered [(0, { st := 2 }), (4, { st := 2 })] {}, 0, 511, .coldStart, by decide, by decide, rfl, nofun, nofun, nofun, nofun, fun _ => ⟨4, rfl, (by decide +kernel), rfl, (by decide +kernel), (by decide +kernel)⟩⟩
  · exact ⟨raising 1 12, 9, .belay, 0, 0, pkt 0x30 [], 0, by decide, by decide, rfl, rfl, by decide, rfl, rfl, rfl, rfl⟩
  · exact ⟨{ powered [] {} with thm := { tmax := 420 } }, rfl, by decide⟩
  · exact ⟨{ powered [] {} with thm := { tmax := 408, fastHot := -1000000 } }, rfl, by decide, by decide⟩
  · exact ⟨powered [] {}, rfl⟩
  · exact ⟨up0, ⟨true, 0, 0, 0, none, none⟩, rfl, List.not_mem_nil⟩

/-- Every clause of RegulatorsAndRails has a state and operands that meet it. -/
theorem witness_RegulatorsAndRails :
    (∃ (s : State) (d : Nat), (s.dom d).st = 1 ∧ (s.dom d).attempts < 3) ∧
    (∃ (s : State) (d : Nat), d < 8 ∧ (s.dom d).st = 1 ∧ (s.dom d).attempts = 3) ∧
    (∃ (s : State) (d : Nat), d < 8 ∧ (s.dom d).st = 2) ∧
    (∃ (s : State) (d : Nat), (d = 8 ∨ d = 9) ∧ s.up = true ∧ (s.dom d).st = 2) ∧
    (∃ (s : State) (d : Nat), (s.dom d).st = 3) ∧
    (∃ (s : State) (d n : Nat) (v : BitVec 9), (s.dom d).st = 2 ∧ n ∉ (s.dom d).suspects ∧ let x := s.dom d
    120 ≤ v.toNat ∧ v.toNat ≤ 440 ∧ 4 * x.suspects.length < domSensors d) ∧
    (∃ (s : State) (d n : Nat) (v : BitVec 9), (s.dom d).st = 2 ∧ n ∉ (s.dom d).suspects ∧ let x := s.dom d
    (v.toNat < 120 ∨ 440 < v.toNat) ∧ 4 * (x.suspects.length + 1) < domSensors d) ∧
    (∃ (s : State) (d n meas exp : Nat), (s.dom d).st = 2 ∧ s.up = true ∧ NMap.get 0 s.pwr.bondRuns n < 9) ∧
    (∃ (s : State) (d n meas exp : Nat), (s.dom d).st = 2 ∧ s.up = true ∧ let over_ := max 60 exp + 4 * exp < 4 * meas
    9 ≤ NMap.get 0 s.pwr.bondRuns n ∧ over_ ∧ n ∉ s.pwr.bondFlags) ∧
    (∃ (s : State) (x : RailRead), polling s = true ∧ x.rail < 8 ∧ x.present = false) ∧
    (∃ (s : State) (x : RailRead), polling s = true ∧ x.rail < 8 ∧ x.present = true ∧ x.ok = false) ∧
    (∃ (s : State) (x : RailRead), polling s = true ∧ x.rail < 8 ∧ x.present = true ∧ x.ok = true) ∧
    (∃ (s : State) (r : Nat) (w : BitVec 16), polling s = true ∧ r < 8) ∧
    (∃ (s : State) (r : Nat), s.up = true ∧ r = 0) ∧
    (∃ (s : State) (r : Nat), s.up = true ∧ (r = 1 ∨ r = 2)) ∧
    (∃ (s : State) (r : Nat), s.up = true ∧ 3 ≤ r ∧ r < 8) := by
  refine ⟨?_, ?_, ?_, ?_, ?_, ?_, ?_, ?_, ?_, ?_, ?_, ?_, ?_, ?_, ?_, ?_⟩
  · exact ⟨powered [(0, { st := 1, attempts := 2 })] {}, 0, rfl, by decide⟩
  · exact ⟨powered [(7, { st := 1, attempts := 3 })] {}, 7, by decide, rfl, rfl⟩
  · exact ⟨powered [(7, { st := 2 })] {}, 7, by decide, rfl⟩
  · exact ⟨powered [(9, { st := 2 })] {}, 9, by decide, rfl, rfl⟩
  · exact ⟨powered [(3, { st := 3 })] {}, 3, rfl⟩
  · exact ⟨powered [(0, { st := 2 })] {}, 0, 0, 440, rfl, List.not_mem_nil, by decide, by decide, (by decide +kernel)⟩
  · exact ⟨powered [(0, { st := 2 })] {}, 0, 0, 441, rfl, List.not_mem_nil, by decide, (by decide +kernel)⟩
  · exact ⟨powered [(0, { st := 2 })] {}, 0, 0, 1, 0, rfl, rfl, by decide⟩
  · exact ⟨powered [(0, { st := 2 })] { bondRuns := [(5, 9)] }, 0, 5, 100, 0, rfl, rfl, by decide, by decide, List.not_mem_nil⟩
  · exact ⟨{ up0 with pwr := {} }, ⟨7, true, 0, false, false, 0, 0⟩, rfl, by decide, rfl⟩
  · exact ⟨up0, ⟨0, false, 3, true, true, 0, 0⟩, rfl, by decide, rfl, rfl⟩
  · exact ⟨up0, ⟨0, true, 3, true, true, 0, 0⟩, rfl, by decide, rfl, rfl⟩
  · exact ⟨up0, 7, 5, rfl, by decide⟩
  · exact ⟨up0, 0, rfl, rfl⟩
  · exact ⟨up0, 2, rfl, .inr rfl⟩
  · exact ⟨up0, 7, rfl, by decide, by decide⟩

/-- Every clause of PowerLimits has a state and operands that meet it. -/
theorem witness_PowerLimits :
    (∃ (s : State) (ma : Nat), belayRuns s = true) ∧
    (∃ (s : State) (m : PowerSplit), belayRuns s = true ∧ s.pwr.started = true ∧ (∀ p, (s.part p).st = .absent) ∧ 0 < capUw { s.pwr with sustNow := s.pwr.sust } - m.fixedW * 1000000) ∧
    (∃ (s : State) (measured : List Nat), belayRuns s = true ∧ s.pwr.alert = 0 ∧ s.pwr.unmet = false ∧ s.pwr.budgets ≠ [] ∧ (s.pwr.p : Int) ≤ fastCapUw s.pwr) ∧
    (∃ (s : State), belayRuns s = true ∧ s.pwr.started = true ∧ fastCapUw s.pwr < (s.pwr.p : Int)) ∧
    (∃ (s : State), belayRuns s = true ∧ (∃ d < 4, 12 ≤ pwrLevel s.pwr d ∧ s.since (NMap.get 0 s.pwr.lfHigh d) 10000000 = true) ∧ s.since s.pwr.ceilAt 10000000 = true ∧ 12 < s.pwr.ceil) ∧
    (∃ (s : State), belayRuns s = true ∧ (∀ d < 4, pwrLevel s.pwr d ≤ 4) ∧ s.since s.pwr.lfHot 100000000 = true ∧ s.since s.pwr.ceilAt 100000000 = true ∧ s.pwr.ceil < s.clk.applied) ∧
    (∀ long : Bool, ∃ (s : State) (ns : Nat), belayRuns s = true ∧ (100 ≤ ns ↔ long = true)) ∧
    (∃ (s : State), s.pwr.alert = 1 ∧ s.since s.pwr.alertAt 100000 = true) := by
  refine ⟨?_, ?_, ?_, ?_, ?_, ?_, ?_, ?_⟩
  · exact ⟨powered [] {}, 1, rfl⟩
  · exact ⟨powered [] { started := true, pS := 200000000 }, ⟨[], 0, 0, 0, [], [], [], 0⟩, rfl, rfl, (fun _ => rfl), (by decide +kernel)⟩
  · exact ⟨powered [] { budgets := [(0, 1)] }, [], rfl, rfl, rfl, by decide, by decide⟩
  · exact ⟨powered [] { started := true, p := 2000000000 }, rfl, rfl, by decide⟩
  · exact ⟨{ powered [] { levels := [(3, 12)], ceil := 13 } with time := 10000000 }, rfl, ⟨3, by decide⟩, by decide, by decide⟩
  · exact ⟨{ powered [] { ceil := 12 } with clk := { pllLock := true, applied := 13 }, time := 100000000 }, rfl, by decide, by decide, by decide, by decide⟩
  · exact fun long => ⟨powered [] {}, if long then 100 else 99, rfl, by cases long <;> decide⟩
  · exact ⟨{ powered [] { alert := 1 } with time := 100000 }, rfl, by decide⟩

/-- Every clause of Temperatures has a state and operands that meet it. -/
theorem witness_Temperatures :
    (∃ (s : State) (n : Nat) (v : Int) (mw : List Nat), s.clk.pllLock = true ∧ s.rst.pwrEn = true ∧ n < 468) ∧
    (∃ (s : State), belayRuns s = true ∧ 400 ≤ s.thm.tmax ∧ s.since s.pwr.thmAt 1000000 = true ∧ 12 < s.pwr.thmCeil) ∧
    (∃ (s : State), belayRuns s = true ∧ s.thm.tmax ≤ 388 ∧ s.since s.pwr.thmAt 10000000 = true ∧ s.pwr.thmCeil < s.clk.applied) ∧
    (∀ hot : Bool, ∃ (s : State) (k : Nat) (v : Int), s.rst.vddAux = true ∧ k < 16 ∧ (460 ≤ v ↔ hot = true) ∧ s.rst.pwrEn = true ∧ s.thm.tripped = false) ∧
    (∃ (s : State), s.thm.tripped = true ∧ s.rst.wait = .trip ∧ (∀ k < 16, NMap.get 0 s.thm.diodes k < 340) ∧ s.rst.since s.thm.diodeHot 10000000000 = true) := by
  refine ⟨?_, ?_, ?_, ?_, ?_⟩
  · exact ⟨powered [] {}, 467, 100, [], rfl, rfl, by decide⟩
  · exact ⟨{ powered [] { thmCeil := 13 } with thm := { tmax := 400 }, time := 1000000 }, rfl, by decide, by decide, by decide⟩
  · exact ⟨{ powered [] { thmCeil := 12 } with thm := { tmax := 388 }, clk := { pllLock := true, applied := 13 }, time := 10000000 }, rfl, by decide, by decide, by decide⟩
  · exact fun hot => ⟨up0, 15, if hot then 460 else 459, rfl, by decide, by cases hot <;> decide, rfl, rfl⟩
  · exact ⟨{ up0 with rst := { wait := .trip, sup := 10000000000 }, thm := { tripped := true } }, rfl, rfl, by decide, by decide⟩

/-! ### Witnesses: reset, start, images, observation, the step -/

/-- A cold start that waits at the end of step n - 1 (BOOT_STEP n), `ns` nanoseconds after it began. -/
def starting (n : BitVec 4) (w : Pwr) (ns : Nat := 0) : State := { rst := { vddAux := true, mgtUp := true, pwrEn := true, step := n, stepNs := ns, sup := 10000000 }, pwr := w }

def gate (step : BitVec 4) (low : Bool) (rails : Bool) (sup : BitVec 64 := 0) : State := {
  rst := { vddAux := true, mgtUp := true, pwrEn := true, step := step, rstLow := low, entry := b2n (step == 1), sup := sup }
  pwr := if rails then { rails := (List.range 8).map fun k => (k, { st := 1 }) } else {} }

def img0 : FwImage := { crcOk := true, build := 5, activeMgt := false, activeFw := false, linkModes := [] }

/-- An OBS_CONFIG image of one counter. -/
def obsBytes : List Byte := leBytes (1 + 1 * 2 ^ 16) 64 ++ leBytes 0 16

/-- Every clause of ResetAndStart has a state and operands that meet it. -/
theorem witness_ResetAndStart :
    (∀ boots : Bool, ∃ (s : State), s.rst.vddAux = false ∧ let a := s.rst.cfg.activeMgt
      ((s.rst.mgt a).boots = boots ∧ (s.rst.mgt !a).boots = false)) ∧
    (∃ (s : State) (ns : Nat), tapTests s.tap = false ∧ ns < 100) ∧
    (∃ (s : State) (ns : Nat), tapTests s.tap = false ∧ 1000 ≤ ns ∧ s.rst.rstLow = false ∧ rstTakes s.rst = true) ∧
    (∃ (s : State) (ns : Nat), tapTests s.tap = false ∧ 1000 ≤ ns ∧ s.rst.rstLow = false ∧ s.camp = true) ∧
    (∀ k < 5, ∃ (s : State), s.rst.vddAux = true ∧ s.rst.mgtUp = true ∧ s.rst.mgtRom = false ∧ s.rst.pwrEn = true ∧ s.rst.wait = .none_ ∧ s.rst.ready = false ∧ s.rst.baseCamp = false ∧
      (k = 0 → s.rst.step = 0 ∧ railsOn s = true ∧ s.rst.rstLow = false) ∧
      (k = 1 → s.rst.step = 1 ∧ s.rst.rstLow = false ∧ s.rst.entry = 1 ∧ s.rst.since s.rst.mark 1000000 = true) ∧
      (k = 2 → s.rst.step = 0 ∧ railsOn s = true ∧ s.rst.rstLow = true) ∧
      (k = 3 → s.rst.step = 0 ∧ railsOn s = false ∧ s.rst.since s.rst.mark 100000000 = false) ∧
      (k = 4 → s.rst.step = 0 ∧ railsOn s = false ∧ s.rst.since s.rst.mark 100000000 = true)) ∧
    (∃ (s : State) (r : StartResult), s.rst.starting = true ∧ s.rst.step = 2 ∧ r.fusesOk = false) ∧
    (∃ (s : State) (r : StartResult), s.rst.starting = true ∧ s.rst.step = 2 ∧ r.fusesOk = true ∧ (s.rail 0).st = 1) ∧
    (∃ (s : State) (r : StartResult), s.rst.starting = true ∧ s.rst.step = 3 ∧ r.failedDomains = [] ∧ (s.dom 8).st = 1 ∧ (s.dom 9).st = 1 ∧ startsSettled s r [8, 9] = true ∧ (s.rail 0).st = 1) ∧
    (∃ (s : State) (r : StartResult), s.rst.starting = true ∧ s.rst.step = 4 ∧ r.failedDomains = [] ∧ (∀ d < 8, (s.dom d).st = 1) ∧ startsSettled s r (List.range 8) = true ∧ bothLost s = false) ∧
    (∃ (s : State) (r : StartResult), s.rst.starting = true ∧ s.rst.step = 5 ∧ s.fuseRenames = [] ∧ bothLost s = false ∧ r.bondFaults = []) ∧
    (∃ (s : State) (r : StartResult) (b : BondGroup), s.rst.starting = true ∧ s.rst.step = 5 ∧ s.fuseRenames = [] ∧ bothLost s = false ∧ r.bondFaults = [b] ∧ b.folio < 2 ∧ b.index < bondGroups b.cls ∧ b.cls = .leafSpine ∧ 2 ≤ b.failed ∧ (s.folio 0).outCause = 0 ∧ (s.folio 1).outCause = 0) ∧
    (∀ sram stack : Bool, ∃ (s : State) (r : StartResult), s.rst.starting = true ∧ s.rst.step = 6 ∧ r.sramFail = sram ∧ r.stackFail = stack) ∧
    (∃ (s : State) (r : StartResult), s.rst.starting = true ∧ s.rst.step = 7 ∧ bothLost s = false ∧ r.fwCrcOk = (false, false)) ∧
    (∃ (s : State) (r : StartResult), s.rst.starting = true ∧ s.rst.step = 8 ∧ r.linkResults = []) ∧
    (∃ (s : State), s.rst.starting = true ∧ s.rst.step = 9) ∧
    (∀ late : Bool, ∃ (s : State), s.rst.starting = true ∧ (1000 * deadlineOf s.rst.step.toNat ≤ s.rst.stepNs ↔ late = true)) ∧
    (∀ last : Bool, ∃ (s : State), s.rst.wait = .failed ∧ s.rst.since s.rst.mark 1000000000 = true ∧ (s.rst.failedStarts = 3 ↔ last = true) ∧ s.rst.rstLow = false) ∧
    (∃ (s : State), s.rst.baseCamp = true) ∧
    (∃ (s : State), s.rst.wait = .baseExit ∧ s.rst.rstLow = false ∧ s.rst.mgtRom = false ∧ s.rst.mgtTrial = none ∧ s.rst.since s.rst.mark 1000000000 = true) := by
  refine ⟨?_, ?_, ?_, ?_, ?_, ?_, ?_, ?_, ?_, ?_, ?_, ?_, ?_, ?_, ?_, ?_, ?_, ?_, ?_⟩
  · exact fun b => ⟨{ rst := { mgtA := { crcOk := b }, mgtB := { crcOk := false } } }, rfl, by cases b <;> decide +kernel⟩
  · exact ⟨up0, 99, rfl, by decide⟩
  · exact ⟨{ up0 with tap := 0x01 }, 1000, rfl, by decide, rfl, rfl⟩
  · exact ⟨{ up0 with rst := { vddAux := true, baseCamp := true } }, 1000, rfl, by decide, rfl, rfl⟩
  · intro k hk
    match k, hk with
    | 0, _ => exact ⟨gate 0 false true, by decide +kernel⟩
    | 1, _ => exact ⟨gate 1 false true 1000000, by decide +kernel⟩
    | 2, _ => exact ⟨gate 0 true true, by decide +kernel⟩
    | 3, _ => exact ⟨gate 0 false false 99999999, by decide +kernel⟩
    | 4, _ => exact ⟨gate 0 false false 100000000, by decide +kernel⟩
  · exact ⟨starting 2 {}, { fusesOk := false }, (by decide +kernel), rfl, rfl⟩
  · exact ⟨starting 2 { rails := [(0, { st := 1 })] }, {}, (by decide +kernel), rfl, rfl, rfl⟩
  · exact ⟨starting 3 { doms := [(8, { st := 1 }), (9, { st := 1 })], rails := [(0, { st := 1 })] }, {}, by decide +kernel⟩
  · exact ⟨starting 4 { doms := (List.range 8).map fun d => (d, { st := 1 }) }, {}, by decide +kernel⟩
  · exact ⟨starting 5 {}, {}, by decide +kernel⟩
  · exact ⟨starting 5 {}, { bondFaults := [⟨1, .leafSpine, 0, 2⟩] }, _, (by decide +kernel), rfl, rfl, (by decide +kernel), rfl, (by decide +kernel), (by decide +kernel), rfl, (by decide +kernel), rfl, rfl⟩
  · exact fun a b => ⟨starting 6 {}, { sramFail := a, stackFail := b }, (by decide +kernel), rfl, rfl, rfl⟩
  · exact ⟨starting 7 {}, { fwCrcOk := (false, false) }, (by decide +kernel), rfl, (by decide +kernel), rfl⟩
  · exact ⟨starting 8 {}, {}, (by decide +kernel), rfl, rfl⟩
  · exact ⟨starting 9 {}, (by decide +kernel), rfl⟩
  · exact fun late => ⟨starting 2 {} (1000 * deadlineOf 2 - b2n (!late)), by cases late <;> decide +kernel⟩
  · exact fun last => ⟨{ rst := { wait := .failed, failedStarts := if last then 3 else 2, sup := 1000000000 } }, by cases last <;> decide +kernel⟩
  · exact ⟨{ rst := { baseCamp := true } }, rfl⟩
  · exact ⟨{ rst := { wait := .baseExit, sup := 1000000000 } }, by decide +kernel⟩

/-- Every clause of ImagesAndPowerLoss has a state and operands that meet it. -/
theorem witness_ImagesAndPowerLoss :
    (∃ (s : State) (img : FwImage), s.rst.vddAux = true ∧ s.rst.mgtUp = true ∧ s.rst.mgtTrial = none ∧ img.crcOk = true) ∧
    (∃ (s : State) (b : Bool), s.rst.vddAux = true ∧ s.rst.mgtUp = true ∧ s.rst.mgtTrial = none ∧ s.rst.baseCamp = false ∧ s.rst.newFw = some b ∧ s.rst.newMgt = some b ∧ tokensBusy s { mgt := true, pmb := true } = false ∧ (s.rst.mgt b).boots = true) ∧
    (∀ late : Bool, ∃ (s : State) (old : Bool), s.rst.mgtTrial = some old ∧ s.rst.since s.rst.mgtMark 150000000 = late) ∧
    (∀ n ∈ [199, 1000, 9999, 10000], ∃ (s : State) (ns : Nat), s.rst.vddAux = true ∧ s.rst.wait ≠ .powerFail ∧ ns = n) ∧
    (∀ rom : Bool, ∃ (s : State), s.rst.wait = .powerFail ∧ s.rst.since s.rst.mark 100000000 = true ∧ s.rst.mgtRom = rom) ∧
    (∃ (s : State) (r : ClpRec), s.rst.vddAux = true ∧ s.clp.writing = some r ∧ s.clp.waiting = []) ∧
    (∃ (s : State) (b : Nat), s.clp.erasing = some b ∧ s.clp.waiting = []) := by
  refine ⟨?_, ?_, ?_, ?_, ?_, ?_, ?_⟩
  · exact ⟨up0, img0, rfl, rfl, rfl, rfl⟩
  · exact ⟨{ up0 with rst := { up0.rst with newFw := some true, newMgt := some true } }, true, rfl, rfl, rfl, rfl, rfl, rfl, (by decide +kernel), rfl⟩
  · exact fun late => ⟨{ up0 with rst := { up0.rst with mgtTrial := some false, sup := if late then 150000000 else 149999999 } }, false, rfl, by cases late <;> decide⟩
  · exact fun n _ => ⟨up0, n, rfl, by decide, rfl⟩
  · exact fun rom => ⟨{ rst := { wait := .powerFail, sup := 100000000, mgtRom := rom } }, rfl, (show (_ : Bool) = true by cases rom <;> decide), rfl⟩
  · exact ⟨{ up0 with clp := { writing := some ⟨1, 1, 0, 0, 0, []⟩ } }, ⟨1, 1, 0, 0, 0, []⟩, rfl, rfl, rfl⟩
  · exact ⟨{ up0 with clp := { erasing := some 0x1810 } }, 0x1810, rfl, rfl⟩

/-- Every clause of Observation has a state and operands that meet it. -/
theorem witness_Observation :
    (∃ (s : State) (q : Nat) (c : Cmd), Claims.Waiting s 0 q c ∧ c.opcode = 0x60 ∧ Claims.sound_ s 0 c true false [(8, 0, 64), (16, 0, 32)] ∧ spanHeld s (c.arg 8 8) (c.arg 16 4) false = false ∧ obsLengthBad (c.arg 16 4) = true) ∧
    (∃ (s : State) (q : Nat) (c : Cmd), Claims.Waiting s 0 q c ∧ c.opcode = 0x60 ∧ Claims.sound_ s 0 c true false [(8, 0, 64), (16, 0, 32)] ∧ let p := c.partN 0
    spanHeld s (c.arg 8 8) (c.arg 16 4) false = false ∧ obsLengthBad (c.arg 16 4) = false ∧ rangeOf (c.arg 8 8) = .hostWin ∧ rangeRefusal s p (c.arg 8 8) (c.arg 16 4) = [] ∧ tokensBusy s { obs := true } = false) ∧
    (∃ (s : State) (q : Nat) (c : Cmd) (r : ClpRec), Claims.Waiting s 0 q c ∧ c.opcode = 0x61 ∧ Claims.sound_ s 0 c true false [(8, 0, 32), (16, 0, 64)] ∧ let p := c.partN 0
    c.arg 8 4 ≤ 16383 ∧ rangeOf (c.arg 16 8) = .hostWin ∧ rangeRefusal s p (c.arg 16 8) 4096 = [] ∧ s.clp.block (c.arg 8 4) = .record r ∧ s.clp.erasing ≠ some (c.arg 8 4) ∧ (s.clp.writing = none ∨ s.clp.ptr ≠ c.arg 8 4)) ∧
    (∃ (s : State), s.up = true ∧ s.since s.mem.obs.snap 1000 = true ∧ NMap.wf 0 s.mem.obs.acc = true ∧ s.obsPending = none) ∧
    (∃ (s : State) (q : Nat) (c : Cmd) (bs : List Byte), s.up = true ∧ s.since s.mem.obs.snap 1000 = true ∧ s.mem.txns = [] ∧ s.obsPending = some (⟨0, q, c.seq⟩, bs) ∧ (s.queue 0 q).cmds = [c] ∧ (s.queue 0 q).state = 1 ∧ s.cfgBusy = some ⟨0, q, c.seq⟩ ∧ bitOf (obsImage bs).flags 1 = false ∧ (∀ e ∈ s.mem.lines, e.2.trace = false) ∧ ((obsImage bs).counters.map Prod.fst).Nodup) ∧
    (∀ full wrap : Bool, ∃ (s : State) (e : Nat × Nat × BitVec 256), let o := s.mem.obs
    let a := traceBase + 32 * o.next
    s.up = true ∧ o.run = true ∧ o.buf = [e] ∧ o.triggered = false ∧ (s.sliceQ (homeSlice s.mem a)).waiting = [] ∧ (s.mem.lineAt (a / 128)).present = true ∧ (o.next + 1 = o.size * 32768 ↔ full = true) ∧ o.wrap = wrap) ∧
    (∀ op : BitVec 8, ∃ (s : State) (x : TapScan), s.rst.vddAux = true ∧ s.tapHigh = false ∧ x.op = op ∧ x.tdi = List.replicate 32 false) ∧
    (∀ op : BitVec 8, ∃ (s : State) (x : TapScan), s.rst.vddAux = true ∧ s.tapHigh = false ∧ x.op = op ∧ x.tdi = []) := by
  refine ⟨?_, ?_, ?_, ?_, ?_, ?_, ?_, ?_⟩
  · exact ⟨hosted up0 0 0 (pkt 0x60 [(16, 63)]), 0, _, waits _ _ _ _ rfl rfl rfl rfl rfl rfl, (by decide +kernel), (by unfold Claims.sound_; decide +kernel), (by decide +kernel), (by decide +kernel)⟩
  · exact ⟨hosted up0 0 0 (pkt 0x60 [(8, 0x040000000000), (16, 64)]), 0, _, waits _ _ _ _ rfl rfl rfl rfl rfl rfl, (by decide +kernel), (by unfold Claims.sound_; decide +kernel), (by decide +kernel), (by decide +kernel), (by decide +kernel), (by decide +kernel), (by decide +kernel)⟩
  · exact ⟨hosted { up0 with clp := { ring := [(16383, .record ⟨1, 1, 0, 0, 0, []⟩)] } } 0 0 (pkt 0x61 [(8, 16383), (16, 0x040000000000)]), 0, _, ⟨1, 1, 0, 0, 0, []⟩, waits _ _ _ _ rfl rfl rfl rfl rfl rfl, (by decide +kernel), (by unfold Claims.sound_; decide +kernel), (by decide +kernel), (by decide +kernel), (by decide +kernel), (by decide +kernel), (by decide +kernel), .inl rfl⟩
  · exact ⟨{ up0 with mem := { obs := { acc := [(0, 5)] } }, time := 1000 }, rfl, by decide, (by decide +kernel), rfl⟩
  · exact ⟨{ hosted up0 0 0 (pkt 0x60 []) with obsPending := some (⟨0, 0, 0⟩, obsBytes), cfgBusy := some ⟨0, 0, 0⟩, time := 1000 }, 0, pkt 0x60 [], obsBytes, rfl, by decide, rfl, rfl, rfl, rfl, rfl, (by decide +kernel), (by decide +kernel), (by decide +kernel)⟩
  · intro full wrap
    let n := if full then 32767 else 0
    refine ⟨{ up0 with mem := { lines := [((traceBase + 32 * n) / 128, line0 .unc)], obs := { run := true, size := 1, buf := [(0, 0, 5)], next := n, wrap := wrap } } }, (0, 0, 5), rfl, rfl, rfl, rfl, rfl, ?_, ?_, rfl⟩
    · cases full <;> cases wrap <;> decide +kernel
    · cases full <;> cases wrap <;> decide +kernel
  · exact fun op => ⟨up0, { op := op, tdi := List.replicate 32 false }, rfl, rfl, rfl, rfl⟩
  · exact fun op => ⟨up0, { op := op }, rfl, rfl, rfl, rfl⟩

/-- Every clause of StepRunsFrontCommand has a state and operands that meet it. -/
theorem witness_StepRunsFrontCommand :
    (∃ (s : State) (c : Instr) (rest : List Instr), s.pending = c :: rest) ∧
    (∀ locked : Bool, ∃ (s : State), s.pending = [] ∧ Claims.Still s ∧ s.rst.vddAux = true ∧ s.clk.tbLock = locked) := by
  refine ⟨?_, ?_⟩
  · exact ⟨{ up0 with pending := [.nopCommand 0 0, .powerOn] }, .nopCommand 0 0, [.powerOn], rfl⟩
  · exact fun b => ⟨{ up0 with clk := { tbLock := b } }, rfl, ⟨(fun _ h => nomatch h), rfl, (fun _ h => nomatch h), rfl, (fun _ h => nomatch h), rfl, ⟨by decide +revert, by decide +revert⟩⟩, rfl, rfl⟩

/-- Every clause of StepKeepsInvariant has a state and operands that meet it. -/
theorem witness_StepKeepsInvariant :
    ∃ s s' : State, Claims.Inv s ∧ step s = .next s' := by
  exact ⟨{ up0 with pending := [.nopCommand 0 0] }, _, ⟨(by decide +kernel), (by decide +kernel), (by decide +kernel), (by decide +kernel), (by decide +kernel)⟩, rfl⟩

/-! ### WellFormed: one ill-formed command for each check -/

/-- For each kind of number a command names, a command that goes just past it. -/
def illTerms : List (Operand × Instr) := [
  (.cluster, .nop ⟨75000, 0, 0⟩), (.core, .nop ⟨0, 4, 0⟩), (.groupSlot, .nop ⟨0, 0, 4⟩), (.blockSlot, .blockRelease 0 4),
  (.partition, .faultEvent 64), (.stream, .fabricArrival 0 16), (.descriptorSlot, .rootAdd 0 64), (.site, .packetAged 131072 0),
  (.port, .arbitratedFlitArrival 0 6 ⟨0, 0, 0⟩), (.slice, .sliceScrub 256), (.line, .evc 0 (2 ^ 41)), (.address, .uncachedRead (2 ^ 48) 1),
  (.sector, .own 0 0 [⟨4, 0, 0⟩]), (.channel, .channelScrub 256)] ++ [
  (.bank, .perBankRefresh 0 128), (.stack, .temperatureReadout 8 0), (.function, .query 65 0), (.queue, .query 0 16),
  (.engine, .collectiveComplete 16), (.link, .ackTimer 64), (.bar, .poisonedWriteTlp 0 6), (.peekPort, .obsPeekDataRead 0 4 4 0),
  (.domain, .shortDetected 10), (.rail, .railLoss 8), (.leafSensor, .thermalSample [(468, 0)] [] []), (.tripDiode, .tripDiodeSample [(16, 0)]),
  (.droopSensor, .droopSample 0 [(4096, 0)] []), (.marginChannel, .stackMargin 0 0 [(32, ⟨0, 0, 0, 0, 0, 0, 0, 0, 0, 0, 0⟩)])]

theorem test_ill_formed_refused : (illTerms.all fun x => !x.2.wf && x.2.ill == some (x.1, x.1.limit)) = true := by decide +kernel

theorem test_last_numbers_well_formed : (Instr.nop ⟨74999, 3, 3⟩).wf = true ∧ (Instr.query 64 15).wf = true ∧ (Instr.railLoss 7).wf = true := by decide

/-! ### Words of code (R95, the worked words of spec/04) -/

/-- The words of the worked example: LDG.32 v8, [s2:s3 + v1]; LDG.32 v9, [s4:s5 + v1]; FMA.F32 v9, v8, s6; STG.32 [s4:s5 + v1], v9; EXIT. -/
theorem test_decode_worked_words :
    decodeCore g0 0x84100480 0 = some (.ldg g0 .w32 8 1 1 0) ∧ decodeCore g0 0x84120500 0 = some (.ldg g0 .w32 9 1 2 0) ∧
    decodeCore g0 0x5B122180 0 = some (.floatingPointMember g0 .fp32 .fma 9 8 (.sca 6) 0) ∧
    decodeCore g0 0x8A120500 0 = some (.stg g0 .w32 9 1 2 0) ∧ decodeCore g0 0xE8000000 0 = some (.exit g0 0) := by decide +kernel

/-- The BRD of spec/04's example: p3, target 6 back, reconvergence 9 ahead. -/
theorem test_decode_brd : decodeCore g0 0xE47FD009 0 = some (.brd g0 3 0x3FA 9) := by decide +kernel

/-- IADD v5, v6, v7 under p2, field by field: OPC 0x00, VD 5, VA 6, VB 7, PG 2. -/
theorem test_decode_iadd : decodeCore g0 (0x00#8 ++ 5#7 ++ 6#7 ++ 7#7 ++ 2#3) 0 = some (.vectorIntegerArithmetic g0 .iadd 5 6 (.vec 7) 2) := by decide +kernel

/-- SADDI s5, s2, 0xFFFF: OPC 0xC1, SD 5, SA 2, IMM16. -/
theorem test_decode_saddi : decodeCore g0 (0xC1#8 ++ 5#4 ++ 2#4 ++ 0xFFFF#16) 0 = some (.scalarArithmetic g0 (.saddi 5 2 0xFFFF)) := by decide +kernel

/-- A reserved opcode and a reserved bit spell nothing (R96). -/
theorem test_decode_reserved : decodeCore g0 0xFD000000 0 = none ∧ decodeCore g0 0xE0000001 0 = none := by decide +kernel

/-! ### Worked values of the spec -/

/-- spec/02: FP32 0.3 to E4M3 under RNE is 0x2A with NX; 83/64 is 0x3A under RNE, 0x3B and 0x3A with the two draws. -/
theorem test_e4m3 :
    specE4M3.round .rne (specFp32.decode 0x3E99999A) = (0x2A, flNX) ∧ (specE4M3.round .rne (FVal.ofInt 83 (-6))).1 = 0x3A ∧
    (specE4M3.round (.sr 0xB7E2) (FVal.ofInt 83 (-6))).1 = 0x3B ∧ (specE4M3.round (.sr 0x51C0) (FVal.ofInt 83 (-6))).1 = 0x3A := by decide +kernel

/-- spec/02, the block scale: 3.7, 0.9 and -0.2 (0x406CCCCD, 0x3F666666, 0xBE4CCCCD) to FP4 under SCALE8. -/
theorem test_block_scale :
    (let q := quantBlock 0x06 [(specFp32.decode 0x406CCCCD, .rne), (specFp32.decode 0x3F666666, .rne), (specFp32.decode 0xBE4CCCCD, .rne)]
     (q.1, q.2.1)) = (0x7E, [0x7, 0x4, 0x9]) := by decide +kernel

/-- spec/02, the exact sum: 2^40 in units of 2^-64 is FP16 0x0001 and FP32 0x33800000. -/
theorem test_exact_sum :
    (specFp16.round .rne (FVal.ofInt (2 ^ 40) (-64))).1 = 0x0001 ∧ (specFp32.round .rne (FVal.ofInt (2 ^ 40) (-64))).1 = 0x33800000 := by decide +kernel

/-- spec/03: the routing kernel holds 1 block, 2 with VREGS = 32; the frontier kernel 2, 4 with 4 KiB of scratch. -/
theorem test_occupancy :
    occupancy { groups := 8, vregs := 48, scratch := 4096 } = 1 ∧ occupancy { groups := 8, vregs := 32, scratch := 4096 } = 2 ∧
    occupancy { groups := 4, vregs := 24, scratch := 6144 } = 2 ∧ occupancy { groups := 4, vregs := 24, scratch := 4096 } = 4 := by decide +kernel

/-- spec/11: the Loam feature line lies in slice 219, stack 6, channel 27, at line 0xC2C1. -/
theorem test_feature_line :
    chanSlice 0x6160EC00 = 219 ∧ chanOf 0x6160EC00 = 32 * 6 + 27 ∧ chanLine 0x6160EC00 = 0xC2C1 ∧
    decodeL 0xC2C1 = ⟨1, 0, 0, 3, 2, 48⟩ := by decide +kernel

/-- spec/08: a word moved down three places loses its low bits and sets WIN_LOW. -/
theorem test_realign : realign ⟨1000005, 0⟩ (-3) = (⟨125000, 0⟩, true, false) := by decide

/-- spec/22: VF 6 reads the feature line through entry 3 of partition 5; 2 GiB into the slot nothing backs it. -/
theorem test_bar4_offset :
    (let s : State := { up0 with parts := [(5, { part0 with allocs := [(3, ⟨0x40000, 0x80000, 1⟩)] })] }
     (bar4Addr s 6 0x32160EC00 32, bar4Addr s 6 0x380000000 32)) = (some 0x6160EC00, none) := by decide +kernel

/-- spec/00: cluster (149, 124, U, 1) is the last, number 74,999; spec/22: the site of (11, 20, U, 0) is 0x8BC3. -/
theorem test_site_code : siteCode 0 1 (20 * 150 + 11) = 0x8BC3 := by decide

/-! ### Single steps -/

/-- What one step makes of a state. -/
def after (s : State) : Option State := match step s with | .next t => some t | _ => none

def front1 (s : State) (c : Instr) : Option State := after { s with pending := [c] }

/-- IMM16 of SADDI is sign extended (R116). -/
theorem test_saddi : (front1 core0 (.scalarArithmetic g0 (.saddi 5 2 0xFFFF))).map (fun t => (NMap.get 0 (t.group g0).sregs 5, (t.group g0).pc)) = some (0xFFFF, 0x1004) := by decide +kernel

/-- spec/03, the costs of R80: 4 bytes at 128i take 8 scratch cycles, at 32i two, at 16 + 4i one. -/
theorem test_scratch_cycles : scratchCycles ((List.range 8).map fun i => 128 * i) = 8 ∧
    scratchCycles ((List.range 8).map fun i => 32 * i) = 2 ∧
    scratchCycles ((List.range 8).map fun i => 16 + 4 * i) = 1 := by decide +kernel

/-- EXIT of every lane ends the group (R76). -/
theorem test_exit : (front1 core0 (.exit g0 0)).map (fun t => (t.group g0).ended) = some true := by decide +kernel

/-- An illegal word is a class 0x01 fault of its partition (R87, R96). -/
theorem test_illegal : (front1 core0 (.illegalInstruction g0 0xFD000000 0)).map (fun t => (t.part 0).notes.map (·.cls)) = some [1] := by decide +kernel

/-- The first power-on brings the management controller up (R484). -/
theorem test_power_on : (front1 { rst := { mgtA := { crcOk := true } } } .powerOn).map (fun t => (t.rst.vddAux, t.rst.mgtUp, t.rst.ready)) = some (true, true, false) := by decide +kernel

/-- IDCODE scans out its 32-bit code (R547). -/
theorem test_idcode : (front1 up0 (.tapInstruction { op := 0x01, tdi := List.replicate 32 false })).map (fun t => t.out.getLast?) = some (some (.tdo 32 0x10960875)) := by decide +kernel

/-- FIPS 197, appendix C.3, the AES-256 example; the AES-256-GCM tag of an empty message under a zero key and IV is 530f8afb… . -/
theorem test_aes_gcm :
    aes256 (List.range 32) 0x00112233445566778899aabbccddeeff = 0x8ea2b7ca516745bfeafc49904b496089 ∧
    gcmTag (List.replicate 32 0) (List.replicate 12 0) [] = 0x530f8afbc74536b9a963b4f1c4cb738b := by decide +kernel

/-- With nothing pending 1 ns passes (notes/assumptions/2.md). -/
theorem test_idle : (after { up0 with clk := { tbLock := true } }).map (fun t => (t.clk.master, t.rst.sup, t.pending)) = some (1, 1, []) := by decide +kernel

/-- No word of the opcode table spells a command: the queue stays as it is. -/
theorem test_table_word : decodeTableWord 32 0xE8000000 = none ∧ State.reset.withFetchWord 32 0xE8000000 = State.reset := ⟨rfl, rfl⟩

end Sys2Proof.Tests
end

section
/-! ### O60: every step keeps the invariant

`Claims.Inv` reads DRAM, its check codes, the clock and the variant. For each function of the model that returns a state or a
memory one lemma says that it keeps the invariant (`f_inv`) or the memory's half of it (`f_canon`), in the order of the model's
files: a function that leaves these fields alone by `frame_inv` or `⟨h.dram, h.ecc⟩`, any other from the lemmas on the functions
it calls. The goals hold no algebra, so `grind` runs without its ring, module and order solvers. -/

-- One proof at a time: with the checker's stack for each thread, hundreds of proofs elaborated at once exhaust the memory.
set_option Elab.async false

namespace Sys2Proof.Machine

/-! #### The invariant and what keeps it -/

/-- The memory's half of the invariant: DRAM and its check codes are canonical maps. -/
structure MemSys.Canon (m : MemSys) : Prop where
  dram : ByteMap.wf m.dram = true
  ecc : NMap.wf 0 m.dramEcc = true

/-- The invariant holds after a step that succeeds. -/
structure NextInv (o : Host.Outcome State Fault Refusal) : Prop where
  next : ∀ t, o = .next t → Claims.Inv t

/-- The invariant holds of each state that the body of a core instruction hands back. -/
def EffInv : Eff → Prop
  | .done s _ | .late s _ _ _ | .held s => Claims.Inv s
  | .flt _ _ _ | .hold => True

theorem canon_iff (m : MemSys) : m.Canon ↔ ByteMap.wf m.dram = true ∧ NMap.wf 0 m.dramEcc = true :=
  ⟨fun h => ⟨h.dram, h.ecc⟩, fun ⟨hd, he⟩ => ⟨hd, he⟩⟩

theorem inv_iff (s : State) : Claims.Inv s ↔
    s.mem.Canon ∧ s.clk.applied ≤ s.variant.ceil ∧ s.clk.now ≤ s.variant.ceil ∧ s.clk.target ≤ s.variant.ceil :=
  ⟨fun ⟨hd, he, ha, hn, ht⟩ => ⟨⟨hd, he⟩, ha, hn, ht⟩, fun ⟨⟨hd, he⟩, ha, hn, ht⟩ => ⟨hd, he, ha, hn, ht⟩⟩

theorem nextInv_next {t : State} : NextInv (.next t) ↔ Claims.Inv t :=
  ⟨fun h => h.next t rfl, fun h => ⟨fun _ ht => Host.Outcome.next.inj ht ▸ h⟩⟩

section
variable {α β : Type} {m : MemSys} {s t : State} {c : Prop} [Decidable c]

theorem canon_of_inv (h : Claims.Inv s) : s.mem.Canon := ⟨h.dram, h.ecc⟩

/-- The invariant reads the memory, the clock and the variant only. -/
theorem frame_inv (h : Claims.Inv s) (hm : t.mem = s.mem := by rfl) (hc : t.clk = s.clk := by rfl)
    (hv : t.variant = s.variant := by rfl) : Claims.Inv t := by
  rw [inv_iff, hm, hc, hv]
  exact (inv_iff s).1 h

theorem inv_setMem (h : Claims.Inv s) (hm : m.Canon) : Claims.Inv { s with mem := m } :=
  ⟨hm.dram, hm.ecc, h.applied, h.now, h.target⟩

theorem canon_ite {m n : MemSys} (hm : m.Canon) (hn : n.Canon) : (if c then m else n).Canon := by
  split
  · exact hm
  · exact hn

theorem inv_ite (hs : Claims.Inv s) (ht : Claims.Inv t) : Claims.Inv (if c then s else t) := by
  split
  · exact hs
  · exact ht

theorem nextInv_ite {a b} (ha : NextInv a) (hb : NextInv b) : NextInv (if c then a else b) := by
  split
  · exact ha
  · exact hb

theorem foldl_canon {f : MemSys → α → MemSys} (hf : ∀ m x, m.Canon → (f m x).Canon) (h : m.Canon) (l : List α) :
    (l.foldl f m).Canon :=
  List.foldlRecOn l f h fun m hm x _ => hf m x hm

theorem foldl_inv {f : State → α → State} (hf : ∀ t x, Claims.Inv t → Claims.Inv (f t x)) (h : Claims.Inv s) (l : List α) :
    Claims.Inv (l.foldl f s) :=
  List.foldlRecOn l f h fun t ht x _ => hf t x ht

theorem foldl_laneRun_inv {f : LaneRun → α → LaneRun} (hf : ∀ r x, Claims.Inv r.s → Claims.Inv (f r x).s) {r : LaneRun}
    (h : Claims.Inv r.s) (l : List α) : Claims.Inv (l.foldl f r).s :=
  List.foldlRecOn (motive := fun r => Claims.Inv r.s) l f h fun t ht x _ => hf t x ht

theorem foldl_put_inv {f : Put → α → Put} (hf : ∀ r x, Claims.Inv r.s → Claims.Inv (f r x).s) {r : Put}
    (h : Claims.Inv r.s) (l : List α) : Claims.Inv (l.foldl f r).s :=
  List.foldlRecOn (motive := fun r => Claims.Inv r.s) l f h fun t ht x _ => hf t x ht

theorem foldl_fst_inv {f : State × β → α → State × β} (hf : ∀ r x, Claims.Inv r.1 → Claims.Inv (f r x).1) {r : State × β}
    (h : Claims.Inv r.1) (l : List α) : Claims.Inv (l.foldl f r).1 :=
  List.foldlRecOn (motive := fun r => Claims.Inv r.1) l f h fun t ht x _ => hf t x ht

theorem allowedClk_le (h : Claims.Inv s) : allowedClk s ≤ s.variant.ceil := Nat.le_trans (Nat.min_le_left _ _) h.applied

theorem completeCmd_variant (s : State) (r status detail lo hi) :
    (completeCmd s r status detail lo hi).variant = s.variant := by
  obtain ⟨x, h | h⟩ := completeCmd_eq s r status detail lo hi
  · rw [h]; rfl
  · rw [h]

theorem replyClock_variant (s : State) (v) : (replyClock s v).variant = s.variant := by
  unfold replyClock
  split
  · rfl
  · exact completeCmd_variant ..

end

variable {s : State} {m : MemSys}

/-! #### Machine/Observe.lean -/

theorem MemSys.observe_canon (h : m.Canon) (t o) : (MemSys.observe m t o).Canon := by
  grind -ring -linarith -order [MemSys.observe, canon_iff]

theorem State.observe_inv (h : Claims.Inv s) (o) : Claims.Inv (State.observe s o) := by
  grind -ring -linarith -order [State.observe, MemSys.observe_canon, inv_iff]

theorem State.acting_inv (h : Claims.Inv s) (p) : Claims.Inv (State.acting s p) := by
  grind -ring -linarith -order [State.acting, inv_iff, canon_iff]

theorem MemSys.markDirty_canon (h : m.Canon) (a) : (MemSys.markDirty m a).Canon := by
  grind -ring -linarith -order [MemSys.markDirty, canon_iff]

/-! #### Machine/Dram.lean -/

theorem MemSys.setNbu_canon (h : m.Canon) (c n) : (MemSys.setNbu m c n).Canon := ⟨h.dram, h.ecc⟩

theorem mstLog_canon (h : m.Canon) (t a kind sym scrub) : (mstLog m t a kind sym scrub).Canon := ⟨h.dram, h.ecc⟩

theorem dramWrite_canon (h : m.Canon) (t a d poison) : (dramWrite m t a d poison).Canon := by
  grind -ring -linarith -order [dramWrite, MemSys.observe_canon, mstLog_canon, canon_iff, NMap.wf_set, ByteMap.wf_writeNat]

theorem dramRead_canon (h : m.Canon) (t a scrub) : (dramRead m t a scrub).1.Canon := by
  grind -ring -linarith -order [dramRead, MemSys.observe_canon, mstLog_canon, canon_iff, NMap.wf_set]

/-! #### Machine/Cache.lean -/

theorem MemSys.setLine_canon (h : m.Canon) (ln l) : (MemSys.setLine m ln l).Canon := ⟨h.dram, h.ecc⟩

theorem MemSys.setL1_canon (h : m.Canon) (c x) : (MemSys.setL1 m c x).Canon := ⟨h.dram, h.ecc⟩

theorem MemSys.setL1Line_canon (h : m.Canon) (c ln l) : (MemSys.setL1Line m c ln l).Canon := ⟨h.dram, h.ecc⟩

theorem MemSys.tick_canon (h : m.Canon) : (MemSys.tick m).Canon := ⟨h.dram, h.ecc⟩

theorem MemSys.breakSector_canon (h : m.Canon) (a) : (MemSys.breakSector m a).Canon := ⟨h.dram, h.ecc⟩

theorem slcLog_canon (h : m.Canon) (t ln kind way secs isLost scrub) : (slcLog m t ln kind way secs isLost scrub).Canon :=
  ⟨h.dram, h.ecc⟩

theorem sliceFetchSec_canon (h : m.Canon) (t ln i scrub) : (sliceFetchSec m t ln i scrub).Canon := by
  grind -ring -linarith -order [sliceFetchSec, MemSys.setLine_canon, dramRead_canon, slcLog_canon]

theorem sliceMerge_canon (h : m.Canon) (t ln i mask d bad) : (sliceMerge m t ln i mask d bad).Canon := by
  grind -ring -linarith -order [sliceMerge, MemSys.setLine_canon, sliceFetchSec_canon]

theorem mergeCarried_canon (h : m.Canon) (t ln ps) : (mergeCarried m t ln ps).Canon := by
  induction ps generalizing m with
  | nil => exact h
  | cons p ps ih => exact ih (sliceMerge_canon h ..)

theorem l1Drop_canon (h : m.Canon) (c ln) : (l1Drop m c ln).Canon := ⟨h.dram, h.ecc⟩

theorem snoopInvalidate_canon (h : m.Canon) (t ln c) : (snoopInvalidate m t ln c).Canon := by
  grind -ring -linarith -order [snoopInvalidate, l1Drop_canon, mergeCarried_canon]

theorem invalidateOthers_canon (h : m.Canon) (t ln keep) : (invalidateOthers m t ln keep).Canon := by
  grind -ring -linarith -order [invalidateOthers, foldl_canon, MemSys.observe_canon, snoopInvalidate_canon]

theorem recallOwner_canon (h : m.Canon) (t ln) : (recallOwner m t ln).Canon := by
  grind -ring -linarith -order [recallOwner, MemSys.setLine_canon, l1Drop_canon, mergeCarried_canon, MemSys.setL1Line_canon]

theorem writeBackSec_canon (h : m.Canon) (t ln i) : (writeBackSec t ln m i).Canon := by
  grind -ring -linarith -order [writeBackSec, sliceFetchSec_canon, dramWrite_canon]

theorem evictLine_canon (h : m.Canon) (t ln) : (evictLine m t ln).Canon := by
  grind -ring -linarith -order [evictLine, foldl_canon, MemSys.setLine_canon, writeBackSec_canon, invalidateOthers_canon]

theorem dramMerge_canon (h : m.Canon) (t a mask d bad) : (dramMerge m t a mask d bad).Canon := by
  grind -ring -linarith -order [dramMerge, dramRead_canon, dramWrite_canon]

theorem checkLine_canon (h : m.Canon) (t ln scrub) : (checkLine m t ln scrub).Canon := by
  grind -ring -linarith -order [checkLine, foldl_canon, MemSys.setLine_canon, l1Drop_canon, invalidateOthers_canon, dramMerge_canon,
    slcLog_canon, canon_iff]

theorem checkSet_canon (h : m.Canon) (t a) : (checkSet m t a).Canon := by
  grind -ring -linarith -order [checkSet, foldl_canon, checkLine_canon]

theorem ensureLine_canon (h : m.Canon) (t a mask) : (ensureLine m t a mask).Canon := by
  grind -ring -linarith -order [ensureLine, checkSet_canon, MemSys.observe_canon, MemSys.setLine_canon, MemSys.tick_canon, evictLine_canon]

theorem sliceRead_canon (h : m.Canon) (t a) : (sliceRead m t a).1.Canon := by
  grind -ring -linarith -order [sliceRead, sliceFetchSec_canon, dramRead_canon]

theorem sliceWrite_canon (h : m.Canon) (t a mask d) : (sliceWrite m t a mask d).Canon := by
  grind -ring -linarith -order [sliceWrite, sliceMerge_canon, dramMerge_canon]

theorem uncachedReadSec_canon (h : m.Canon) (t mask a) : (uncachedReadSec m t mask a).1.Canon := by
  grind -ring -linarith -order [uncachedReadSec, recallOwner_canon, sliceRead_canon, dramRead_canon, ensureLine_canon]

theorem uncachedWriteSec_canon (h : m.Canon) (t mask a bm d) : (uncachedWriteSec m t mask a bm d).Canon := by
  grind -ring -linarith -order [uncachedWriteSec, MemSys.setLine_canon, MemSys.markDirty_canon, invalidateOthers_canon, sliceWrite_canon,
    ensureLine_canon, MemSys.breakSector_canon]

theorem uncachedReadGo_canon (h : m.Canon) (t mask fuel a n off) : (uncachedReadGo t mask fuel m a n off).1.Canon := by
  induction fuel generalizing m a n off with
  | zero => exact h
  | succ fuel ih => grind -ring -linarith -order [uncachedReadGo, uncachedReadSec_canon]

theorem uncachedRead_canon (h : m.Canon) (t mask a n) : (uncachedRead m t mask a n).1.Canon := by
  grind -ring -linarith -order [uncachedRead, uncachedReadGo_canon]

theorem uncachedWriteGo_canon (h : m.Canon) (t mask fuel a bs) : (uncachedWriteGo t mask fuel m a bs).Canon := by
  induction fuel generalizing m a bs with
  | zero => exact h
  | succ fuel ih => grind -ring -linarith -order [uncachedWriteGo, uncachedWriteSec_canon]

theorem uncachedWrite_canon (h : m.Canon) (t mask a bs) : (uncachedWrite m t mask a bs).Canon := uncachedWriteGo_canon h ..

theorem l1Evict_canon (h : m.Canon) (t c ln) : (l1Evict m t c ln).Canon := by
  grind -ring -linarith -order [l1Evict, MemSys.setLine_canon, l1Drop_canon, mergeCarried_canon]

theorem l1Room_canon (h : m.Canon) (t c ln) : (l1Room m t c ln).Canon := by
  grind -ring -linarith -order [l1Room, MemSys.setL1_canon, l1Evict_canon]

theorem l1Load_canon (h : m.Canon) (t mask c a n) : (l1Load m t mask c a n).1.Canon := by
  grind -ring -linarith -order [l1Load, MemSys.setLine_canon, recallOwner_canon, MemSys.tick_canon, sliceRead_canon, dramRead_canon,
    ensureLine_canon, l1Room_canon, MemSys.setL1Line_canon]

theorem l1Store_canon (h : m.Canon) (t mask c a n v) : (l1Store m t mask c a n v).Canon := by
  grind -ring -linarith -order [l1Store, MemSys.setLine_canon, MemSys.tick_canon, MemSys.markDirty_canon, invalidateOthers_canon,
    uncachedWriteSec_canon, sliceWrite_canon, ensureLine_canon, l1Room_canon, MemSys.setL1Line_canon]

theorem addResv_canon (h : m.Canon) (g lane a width) : (addResv m g lane a width).Canon := ⟨h.dram, h.ecc⟩

theorem dropResv_canon (h : m.Canon) (g lane) : (dropResv m g lane).Canon := ⟨h.dram, h.ecc⟩

theorem dropGroupResvs_canon (h : m.Canon) (g) : (dropGroupResvs m g).Canon := ⟨h.dram, h.ecc⟩

theorem sliceAtomicAt_canon (h : m.Canon) (t mask a op) : (sliceAtomicAt m t mask a op).1.Canon := by
  grind -ring -linarith -order [sliceAtomicAt, MemSys.observe_canon, MemSys.setLine_canon, MemSys.markDirty_canon, sliceRead_canon,
    invalidateOthers_canon, sliceWrite_canon, ensureLine_canon, MemSys.breakSector_canon]

/-! #### Machine/Ops.lean -/

theorem State.setCluster_inv (h : Claims.Inv s) (c x) : Claims.Inv (State.setCluster s c x) := frame_inv h

theorem State.setPart_inv (h : Claims.Inv s) (p x) : Claims.Inv (State.setPart s p x) := frame_inv h

theorem State.setCtx_inv (h : Claims.Inv s) (k x) : Claims.Inv (State.setCtx s k x) := frame_inv h

theorem State.setQueue_inv (h : Claims.Inv s) (f q x) : Claims.Inv (State.setQueue s f q x) := frame_inv h

theorem State.setGroup_inv (h : Claims.Inv s) (g x) : Claims.Inv (State.setGroup s g x) := frame_inv h

theorem State.send_inv (h : Claims.Inv s) (o) : Claims.Inv (State.send s o) := frame_inv h

theorem State.freeBool_inv (h : Claims.Inv s) : Claims.Inv (State.freeBool s).2 := by
  grind -ring -linarith -order [State.freeBool, inv_iff]

theorem State.freeNat_inv (h : Claims.Inv s) : Claims.Inv (State.freeNat s).2 := by
  grind -ring -linarith -order [State.freeNat, inv_iff]

theorem noteFault_inv (h : Claims.Inv s) (p n) : Claims.Inv (noteFault s p n) := frame_inv h

theorem groupFault_inv (h : Claims.Inv s) (g cls lanes addr) : Claims.Inv (groupFault s g cls lanes addr) := frame_inv h

theorem ownerFault_inv (h : Claims.Inv s) (cl o cls pc addr) : Claims.Inv (ownerFault s cl o cls pc addr) := frame_inv h

theorem popped_inv (h : Claims.Inv s) (g) : Claims.Inv (popped s g) := frame_inv h

theorem fetched_inv (h : Claims.Inv s) (g words) : Claims.Inv (fetched s g words) := frame_inv h

theorem advance_inv (h : Claims.Inv s) (g words npc) : Claims.Inv (advance s g words npc) := State.setGroup_inv h ..

theorem coreStep_inv (h : Claims.Inv s) (g u) {body} (hb : ∀ t gr b l, Claims.Inv t → EffInv (body t gr b l)) :
    Claims.Inv (coreStep s g u body) := by
  grind -ring -linarith -order [coreStep, popped_inv, fetched_inv, groupFault_inv, advance_inv, State.acting_inv, State.observe_inv, EffInv]

theorem raiseFlags_inv (h : Claims.Inv s) (g f) : Claims.Inv (raiseFlags s g f) := frame_inv h

/-! #### Machine/CmdOps.lean -/

theorem completeCmd_inv (h : Claims.Inv s) (r status detail lo hi) : Claims.Inv (completeCmd s r status detail lo hi) := by
  grind -ring -linarith -order [completeCmd, State.setQueue_inv, inv_iff]

theorem succeed_inv (h : Claims.Inv s) (r lo hi) : Claims.Inv (succeed s r lo hi) := completeCmd_inv h ..

theorem succeed0_inv (h : Claims.Inv s) (r) : Claims.Inv (succeed0 s r) := completeCmd_inv h ..

theorem refuseCmd_inv (h : Claims.Inv s) (r status) : Claims.Inv (refuseCmd s r status) := completeCmd_inv h ..

theorem clockBack_inv (h : Claims.Inv s) (code) : Claims.Inv (clockBack s code) := by
  grind -ring -linarith -order [clockBack, inv_iff]

theorem setPhase_inv (h : Claims.Inv s) (p t) : Claims.Inv (setPhase s p t) := by
  grind -ring -linarith -order [setPhase, inv_iff]

theorem clearPhase_inv (h : Claims.Inv s) (p) : Claims.Inv (clearPhase s p) := setPhase_inv h ..

theorem endCtx_inv (h : Claims.Inv s) (k) : Claims.Inv (endCtx s k) := by
  grind -ring -linarith -order [endCtx, State.setPart_inv, clearPhase_inv, State.setCtx_inv]

theorem finishCtx_inv (h : Claims.Inv s) (k status detail lo hi) : Claims.Inv (finishCtx s k status detail lo hi) :=
  completeCmd_inv (frame_inv h) ..

theorem reapCtxs_inv (h : Claims.Inv s) : Claims.Inv (reapCtxs s) := by
  grind -ring -linarith -order [reapCtxs, foldl_inv, endCtx_inv]

theorem dropPartition_inv (h : Claims.Inv s) (p) : Claims.Inv (dropPartition s p) := by
  grind -ring -linarith -order [dropPartition, inv_iff, canon_iff]

/-! #### Machine/Site.lean -/

theorem State.setGath_inv (h : Claims.Inv s) (k x) : Claims.Inv (State.setGath s k x) := frame_inv h

theorem State.setRouter_inv (h : Claims.Inv s) (c x) : Claims.Inv (State.setRouter s c x) := frame_inv h

theorem State.setFolio_inv (h : Claims.Inv s) (f x) : Claims.Inv (State.setFolio s f x) := frame_inv h

theorem mapRegion_inv (h : Claims.Inv s) (p f) : Claims.Inv (mapRegion s p f) := frame_inv h

theorem stopSched_inv (h : Claims.Inv s) (p) : Claims.Inv (stopSched s p) := frame_inv h

theorem dropFabric_inv (h : Claims.Inv s) (p) : Claims.Inv (dropFabric s p) := frame_inv h

/-! #### Machine/Cycle.lean -/

theorem countHeld_inv (h : Claims.Inv s) (n) : Claims.Inv (countHeld s n) := by
  grind -ring -linarith -order [countHeld, inv_iff, canon_iff]

theorem State.reach_inv (h : Claims.Inv s) (n limit) : ∀ t, State.reach s n limit = some t → Claims.Inv t := by
  grind -ring -linarith -order [State.reach, countHeld_inv, inv_iff]

theorem State.toCycle_inv (h : Claims.Inv s) (n) : ∀ t, State.toCycle s n = some t → Claims.Inv t := by
  grind -ring -linarith -order [State.toCycle, State.reach_inv]

/-! #### Machine/Events.lean -/

theorem submitRec_inv (h : Claims.Inv s) (typ body) : Claims.Inv (submitRec s typ body) := by
  grind -ring -linarith -order [submitRec, inv_iff]

theorem raiseEvent_inv (h : Claims.Inv s) (bit was e) : Claims.Inv (raiseEvent s bit was e) := by
  grind -ring -linarith -order [raiseEvent, State.send_inv, inv_iff]

theorem reportSuspect_inv (h : Claims.Inv s) (cl) : Claims.Inv (reportSuspect s cl) := submitRec_inv (raiseEvent_inv h ..) ..

theorem recordMxEvt_inv (h : Claims.Inv s) (cl e) : Claims.Inv (recordMxEvt s cl e) := by
  grind -ring -linarith -order [recordMxEvt, State.setCluster_inv, State.observe_inv, reportSuspect_inv]

/-! #### Machine/Turn.lean -/

theorem State.setSliceQ_inv (h : Claims.Inv s) (k q) : Claims.Inv (State.setSliceQ s k q) := frame_inv h

theorem State.popFor_inv (h : Claims.Inv s) (ln) : Claims.Inv (State.popFor s ln) := frame_inv h

theorem State.takeTurn_inv (h : Claims.Inv s) (ln) : Claims.Inv (State.takeTurn s ln) := by
  grind -ring -linarith -order [State.takeTurn, State.popFor_inv]

theorem takeLines_inv (h : Claims.Inv s) (a n) : Claims.Inv (takeLines s a n) := by
  grind -ring -linarith -order [takeLines, foldl_inv, State.takeTurn_inv]

theorem State.setChanQ_inv (h : Claims.Inv s) (c q) : Claims.Inv (State.setChanQ s c q) := frame_inv h

theorem State.chanPop_inv (h : Claims.Inv s) (c sel) : Claims.Inv (State.chanPop s c sel) := by
  grind -ring -linarith -order [State.chanPop, State.setChanQ_inv]

theorem spendTokens_inv (h : Claims.Inv s) (req p n) : Claims.Inv (spendTokens s req p n) := by
  unfold spendTokens
  grind -ring -linarith -order [inv_iff]

/-! #### Machine/Nbu.lean -/

theorem nbEnter_canon (h : m.Canon) (t c) : (nbEnter m t c).Canon := by
  grind -ring -linarith -order [nbEnter, foldl_canon, MemSys.setNbu_canon, evictLine_canon]

theorem nbNext_canon (h : m.Canon) (t c) : (nbNext t m c).Canon := by
  grind -ring -linarith -order [nbNext, nbEnter_canon, MemSys.setNbu_canon]

theorem nbDoorbell_canon (h : m.Canon) (al c p size v) : (nbDoorbell m al c p size v).Canon := by
  grind -ring -linarith -order [nbDoorbell, MemSys.setNbu_canon]

theorem nbWrite_canon (h : m.Canon) (al p a k v) : (nbWrite m al p a k v).Canon := by
  have hs := MemSys.setNbu_canon h (nbChan a)
  have hd := nbDoorbell_canon h al (nbChan a) p k (BitVec.ofNat 64 v)
  unfold nbWrite
  extract_lets c off n
  exact canon_ite (hs _) (canon_ite (canon_ite (hs _) h) (canon_ite hd (canon_ite (hs _) (canon_ite (hs _) h))))

theorem nbPut_canon (h : m.Canon) (c toRes a k v) : (nbPut m c toRes a k v).Canon := by
  grind -ring -linarith -order [nbPut, MemSys.setNbu_canon, canon_iff, ByteMap.wf_writeNat, MemSys.breakSector_canon]

theorem nbRows_canon (al c f scatter fuel) (h : m.Canon) (i) : (nbRows al c f scatter fuel m i).m.Canon := by
  induction fuel generalizing m i with
  | zero => exact h
  | succ fuel ih => grind -ring -linarith -order [nbRows, foldl_canon, nbPut_canon]

theorem nbRun_canon (h : m.Canon) (al c f) : (nbRun m al c f).m.Canon := by
  grind -ring -linarith -order [nbRun, foldl_canon, nbPut_canon, nbRows_canon]

theorem nbRunFront_inv (h : Claims.Inv s) (c opc) : Claims.Inv (nbRunFront s c opc) := by
  grind -ring -linarith -order [nbRunFront, MemSys.setNbu_canon, State.chanPop_inv, nbRun_canon, inv_iff]

theorem execNbuModeEnter_inv (h : Claims.Inv s) (chan p version) : NextInv (execNbuModeEnter chan p version s) := by
  grind -ring -linarith -order [execNbuModeEnter, nextInv_next, MemSys.setNbu_canon, inv_iff]

theorem execNbuModeExit_inv (h : Claims.Inv s) (chan p) : NextInv (execNbuModeExit chan p s) := by
  grind -ring -linarith -order [execNbuModeExit, nextInv_next, MemSys.setNbu_canon, inv_iff]

theorem execNbuDoorbell_inv (h : Claims.Inv s) (chan p size val) : NextInv (execNbuDoorbell chan p size val s) := by
  grind -ring -linarith -order [execNbuDoorbell, nextInv_next, nbDoorbell_canon, inv_iff]

theorem execNbuNop_inv (h : Claims.Inv s) (chan) : NextInv (execNbuNop chan s) := nextInv_next.2 (nbRunFront_inv h ..)

theorem execGather_inv (h : Claims.Inv s) (chan) : NextInv (execGather chan s) := nextInv_next.2 (nbRunFront_inv h ..)

theorem execGatherSum_inv (h : Claims.Inv s) (chan) : NextInv (execGatherSum chan s) := nextInv_next.2 (nbRunFront_inv h ..)

theorem execScatterAdd_inv (h : Claims.Inv s) (chan) : NextInv (execScatterAdd chan s) := nextInv_next.2 (nbRunFront_inv h ..)

theorem execSelect_inv (h : Claims.Inv s) (chan) : NextInv (execSelect chan s) := nextInv_next.2 (nbRunFront_inv h ..)

theorem execTopk_inv (h : Claims.Inv s) (chan) : NextInv (execTopk chan s) := nextInv_next.2 (nbRunFront_inv h ..)

theorem execEwise_inv (h : Claims.Inv s) (chan) : NextInv (execEwise chan s) := nextInv_next.2 (nbRunFront_inv h ..)

theorem execNbuFill_inv (h : Claims.Inv s) (chan) : NextInv (execNbuFill chan s) := nextInv_next.2 (nbRunFront_inv h ..)

theorem execNearBankCommandComplete_inv (h : Claims.Inv s) (chan) : NextInv (execNearBankCommandComplete chan s) := by
  grind -ring -linarith -order [execNearBankCommandComplete, nextInv_next, State.observe_inv, MemSys.setNbu_canon, inv_iff]

/-! #### Machine/Operands.lean -/

theorem laneWrite_inv (h : Claims.Inv s) (g gr vd n lanes f) : Claims.Inv (laneWrite s g gr vd n lanes f) := frame_inv h

/-! #### Machine/MemAcc.lean -/

theorem scratchRead_inv (h : Claims.Inv s) (cl off n) : Claims.Inv (scratchRead s cl off n).1 := by
  grind -ring -linarith -order [scratchRead, State.freeNat_inv]

theorem countScratch_inv (h : Claims.Inv s) (cl part addrs) : Claims.Inv (countScratch s cl part addrs) := by
  grind -ring -linarith -order [countScratch, State.observe_inv]

theorem takeTurns_inv (h : Claims.Inv s) (as) : Claims.Inv (takeTurns s as) := by
  grind -ring -linarith -order [takeTurns, foldl_inv, State.takeTurn_inv]

theorem holdStore_inv (h : Claims.Inv s) (as) : EffInv (holdStore s as) := by
  grind -ring -linarith -order [holdStore, EffInv, inv_iff]

theorem globalLoad_inv (h : Claims.Inv s) (cl p a n) : Claims.Inv (globalLoad s cl p a n).1 := by
  grind -ring -linarith -order [globalLoad, scratchRead_inv, l1Load_canon, inv_iff]

theorem globalStore_inv (h : Claims.Inv s) (cl p a n v) : Claims.Inv (globalStore s cl p a n v) := by
  grind -ring -linarith -order [globalStore, State.setCluster_inv, l1Store_canon, nbWrite_canon, State.send_inv, inv_iff]

theorem sendHostRead_inv (h : Claims.Inv s) (f segs k) : Claims.Inv (sendHostRead s f segs k) := frame_inv h

theorem LaneRun.eff_inv {r : LaneRun} (h : Claims.Inv r.s) : EffInv r.eff := by
  grind -ring -linarith -order [LaneRun.eff, EffInv]

theorem countL1_inv (h : Claims.Inv s) (cl part as n write) : Claims.Inv (countL1 s cl part as n write) := by
  grind -ring -linarith -order [countL1, State.observe_inv]

theorem setLane_inv (h : Claims.Inv s) (g gr vd n i v) : Claims.Inv (setLane s g gr vd n i v) := frame_inv h

theorem execLdg_inv (h : Claims.Inv s) (g w vd va sp pg) : NextInv (execLdg g w vd va sp pg s) :=
  nextInv_next.2 (coreStep_inv h _ _ fun t gr b l h => by
    grind -ring -linarith -order [EffInv, countL1_inv, LaneRun.eff_inv, globalLoad_inv, setLane_inv, sendHostRead_inv, foldl_laneRun_inv])

theorem execStg_inv (h : Claims.Inv s) (g w vd va sp pg) : NextInv (execStg g w vd va sp pg s) :=
  nextInv_next.2 (coreStep_inv h _ _ fun t gr b l h => by
    grind -ring -linarith -order [EffInv, countL1_inv, LaneRun.eff_inv, globalStore_inv, holdStore_inv, foldl_laneRun_inv])

theorem execLds_inv (h : Claims.Inv s) (g w vd va sp pg) : NextInv (execLds g w vd va sp pg s) :=
  nextInv_next.2 (coreStep_inv h _ _ fun t gr b l h => by
    grind -ring -linarith -order [EffInv, LaneRun.eff_inv, scratchRead_inv, countScratch_inv, setLane_inv, foldl_laneRun_inv])

theorem execSts_inv (h : Claims.Inv s) (g w vd va sp pg) : NextInv (execSts g w vd va sp pg s) :=
  nextInv_next.2 (coreStep_inv h _ _ fun t gr b l h => by
    grind -ring -linarith -order [EffInv, State.setCluster_inv, countScratch_inv])

theorem execLdr_inv (h : Claims.Inv s) (g wide vd va sp pg) : NextInv (execLdr g wide vd va sp pg s) :=
  nextInv_next.2 (coreStep_inv h _ _ fun t gr b l h => by
    grind -ring -linarith -order [EffInv, LaneRun.eff_inv, dropResv_canon, uncachedReadSec_canon, addResv_canon, takeTurns_inv,
      setLane_inv, inv_iff, foldl_laneRun_inv])

theorem execStc_inv (h : Claims.Inv s) (g wide vd va sp pg) : NextInv (execStc g wide vd va sp pg s) :=
  nextInv_next.2 (coreStep_inv h _ _ fun t gr b l h => by
    grind -ring -linarith -order [EffInv, foldl_inv, dropResv_canon, uncachedWriteSec_canon, takeTurns_inv, holdStore_inv, setLane_inv,
      inv_iff])

theorem execAtom_inv (h : Claims.Inv s) (g op vd va sp pg) : NextInv (execAtom g op vd va sp pg s) :=
  nextInv_next.2 (coreStep_inv h _ _ fun t gr b l h => by
    grind -ring -linarith -order [EffInv, LaneRun.eff_inv, sliceAtomicAt_canon, takeTurns_inv, holdStore_inv, setLane_inv, State.send_inv,
      inv_iff, foldl_laneRun_inv])

theorem execSldg_inv (h : Claims.Inv s) (g sd sp imm) : NextInv (execSldg g sd sp imm s) :=
  nextInv_next.2 (coreStep_inv h _ _ fun t gr b l h => by
    grind -ring -linarith -order [EffInv, countL1_inv, State.setGroup_inv, globalLoad_inv, sendHostRead_inv])

theorem execSstg_inv (h : Claims.Inv s) (g sd sp imm) : NextInv (execSstg g sd sp imm s) :=
  nextInv_next.2 (coreStep_inv h _ _ fun t gr b l h => by
    grind -ring -linarith -order [EffInv, countL1_inv, globalStore_inv, holdStore_inv])

theorem execSlds_inv (h : Claims.Inv s) (g sd sp imm) : NextInv (execSlds g sd sp imm s) :=
  nextInv_next.2 (coreStep_inv h _ _ fun t gr b l h => by
    grind -ring -linarith -order [EffInv, State.setGroup_inv, scratchRead_inv])

theorem execSsts_inv (h : Claims.Inv s) (g sd sp imm) : NextInv (execSsts g sd sp imm s) :=
  nextInv_next.2 (coreStep_inv h _ _ fun t gr b l h => by
    grind -ring -linarith -order [EffInv, State.setCluster_inv])

/-! #### Machine/Td.lean -/

theorem engineRead_inv (h : Claims.Inv s) (p a n) : Claims.Inv (engineRead s p a n).1 := by
  grind -ring -linarith -order [engineRead, scratchRead_inv, uncachedRead_canon, State.acting_inv, inv_iff]

theorem engineWrite_inv (h : Claims.Inv s) (p a bs) : Claims.Inv (engineWrite s p a bs) := by
  grind -ring -linarith -order [engineWrite, State.setCluster_inv, uncachedWrite_canon, State.send_inv, State.acting_inv, inv_iff]

theorem putBits_inv (h : Claims.Inv s) (p w) : Claims.Inv (putBits s p w) := by
  grind -ring -linarith -order [putBits, engineRead_inv, engineWrite_inv]

theorem putSector_inv (p) {r : Put} (h : Claims.Inv r.s) (k ws) : Claims.Inv (putSector p r k ws).s := by
  grind -ring -linarith -order [putSector, foldl_inv, uncachedReadSec_canon, uncachedWriteSec_canon, putBits_inv, State.acting_inv, inv_iff]

theorem putAll_inv (h : Claims.Inv s) (cl p ws) : Claims.Inv (putAll s cl p ws).s := by
  grind -ring -linarith -order [putAll, foldl_inv, sendHostRead_inv, putSector_inv, putBits_inv, inv_iff, canon_iff, foldl_put_inv]

theorem raiseOwnerFlags_inv (h : Claims.Inv s) (cl o f) : Claims.Inv (raiseOwnerFlags s cl o f) := by
  grind -ring -linarith -order [raiseOwnerFlags, State.setCluster_inv]

theorem tileImage_inv (h : Claims.Inv s) (c t is bs) : Claims.Inv (tileImage s c t is bs).1 := by
  grind -ring -linarith -order [tileImage, State.freeNat_inv, inv_iff, canon_iff, foldl_fst_inv]

theorem engineReadAll_inv (h : Claims.Inv s) (p host last rs) : Claims.Inv (engineReadAll s p host last rs).1 := by
  induction rs generalizing s host last with
  | nil => exact h
  | cons r rs ih => grind -ring -linarith -order [engineReadAll, engineRead_inv]

theorem scratchBytes_inv (h : Claims.Inv s) (cl a n) : Claims.Inv (scratchBytes s cl a n).1 := by
  grind -ring -linarith -order [scratchBytes, scratchRead_inv]

theorem pumpOut_inv (h : Claims.Inv s) (cl stream fs) : Claims.Inv (pumpOut s cl stream fs).1 := by
  grind -ring -linarith -order [pumpOut, State.setCluster_inv]

theorem pumpIn_inv (h : Claims.Inv s) (cl stream need) : Claims.Inv (pumpIn s cl stream need).1 := by
  grind -ring -linarith -order [pumpIn, State.setCluster_inv]

theorem tdEnd_inv (h : Claims.Inv s) (cl o) : Claims.Inv (tdEnd s cl o).1 := by
  grind -ring -linarith -order [tdEnd, raiseOwnerFlags_inv]

theorem tdPump_inv (h : Claims.Inv s) (cl o stream fs) : Claims.Inv (tdPump s cl o stream fs).1 := by
  grind -ring -linarith -order [tdPump, tdEnd_inv, pumpOut_inv]

theorem loadDeliver_inv (h : Claims.Inv s) (cl o t scr img fl) : Claims.Inv (loadDeliver s cl o t scr img fl).1 := by
  grind -ring -linarith -order [loadDeliver, State.setCluster_inv, tdEnd_inv, tdPump_inv]

theorem storeDeliver_inv (h : Claims.Inv s) (cl o t origin img) : Claims.Inv (storeDeliver s cl o t origin img).1 := by
  grind -ring -linarith -order [storeDeliver, putAll_inv, tdEnd_inv, ownerFault_inv]

theorem cbDeliver_inv (h : Claims.Inv s) (cl slot table cb8 bs) : Claims.Inv (cbDeliver s cl slot table cb8 bs) := frame_inv h

theorem tdRun_inv (h : Claims.Inv s) (cl o) : Claims.Inv (tdRun s cl o).1 := by
  grind -ring -linarith -order [tdRun, State.setCluster_inv, engineRead_inv, tdEnd_inv, engineReadAll_inv, storeDeliver_inv,
    scratchBytes_inv, loadDeliver_inv, ownerFault_inv, tileImage_inv, sendHostRead_inv, pumpIn_inv, tdPump_inv, cbDeliver_inv]

theorem tdSweep_inv (cl os kept) (h : Claims.Inv s) : Claims.Inv (tdSweep cl os kept s).1 := by
  induction os generalizing s kept with
  | nil => exact h
  | cons o os ih => grind -ring -linarith -order [tdSweep, tdRun_inv]

theorem tdProgress_inv (h : Claims.Inv s) (cl) : Claims.Inv (tdProgress s cl) := by
  grind -ring -linarith -order [tdProgress, State.setCluster_inv, tdSweep_inv]

theorem tdIssue_inv (h : Claims.Inv s) (cl o) : Claims.Inv (tdIssue s cl o) := tdProgress_inv (frame_inv h) ..

theorem tdHostData_inv (h : Claims.Inv s) (cl id bs) : Claims.Inv (tdHostData s cl id bs) := tdProgress_inv (frame_inv h) ..

theorem execTdCreate_inv (h : Claims.Inv s) (g sa sb) : NextInv (execTdCreate g sa sb s) :=
  nextInv_next.2 (coreStep_inv h _ _ fun t gr b l h => by
    grind -ring -linarith -order [EffInv, State.setCluster_inv, State.setGroup_inv, scratchBytes_inv])

theorem execTdLoad_inv (h : Claims.Inv s) (g sa sb sc) : NextInv (execTdLoad g sa sb sc s) :=
  nextInv_next.2 (coreStep_inv h _ _ fun t gr b l h => by
    grind -ring -linarith -order [EffInv, tdIssue_inv])

theorem execTdStore_inv (h : Claims.Inv s) (g sa sb sc) : NextInv (execTdStore g sa sb sc s) :=
  nextInv_next.2 (coreStep_inv h _ _ fun t gr b l h => by
    grind -ring -linarith -order [EffInv, tdIssue_inv])

theorem execTdFree_inv (h : Claims.Inv s) (g sa) : NextInv (execTdFree g sa s) :=
  nextInv_next.2 (coreStep_inv h _ _ fun t gr b l h => by
    grind -ring -linarith -order [EffInv, State.setCluster_inv])

theorem execTdWait_inv (h : Claims.Inv s) (g n) : NextInv (execTdWait g n s) :=
  nextInv_next.2 (coreStep_inv h _ _ fun t gr b l h => by
    grind -ring -linarith -order [EffInv])

theorem execCbLoad_inv (h : Claims.Inv s) (g sa f) : NextInv (execCbLoad g sa f s) :=
  nextInv_next.2 (coreStep_inv h _ _ fun t gr b l h => by
    grind -ring -linarith -order [EffInv, tdIssue_inv])

/-! #### Machine/Mxa.lean -/

theorem chainFault_inv (h : Claims.Inv s) (cl ch cls pc addr) : Claims.Inv (chainFault s cl ch cls pc addr) := frame_inv h

theorem releaseHeld_inv (h : Claims.Inv s) (cl id) : Claims.Inv (releaseHeld s cl id) := tdProgress_inv (frame_inv h) ..

theorem setCurrent_inv (h : Claims.Inv s) (cl ch) : Claims.Inv (setCurrent s cl ch) := frame_inv h

theorem setDrain_inv (h : Claims.Inv s) (cl ch) : Claims.Inv (setDrain s cl ch) := frame_inv h

theorem fetchPort_inv (h : Claims.Inv s) (cl a n) : Claims.Inv (fetchPort s cl a n).1 := by
  grind -ring -linarith -order [fetchPort, scratchBytes_inv]

theorem execMxaInit_inv (h : Claims.Inv s) (g sa f) : NextInv (execMxaInit g sa f s) :=
  nextInv_next.2 (coreStep_inv h _ _ fun t gr b l h => by
    grind -ring -linarith -order [EffInv, State.setCluster_inv])

theorem execMxaMma_inv (h : Claims.Inv s) (g sa sb sc ext) : NextInv (execMxaMma g sa sb sc ext s) :=
  nextInv_next.2 (coreStep_inv h _ _ fun t gr b l h => by
    grind -ring -linarith -order [EffInv, State.setCluster_inv])

theorem closeChain_inv (h : Claims.Inv s) (g gr b op) : Claims.Inv (closeChain s g gr b op) := frame_inv h

theorem execMxaStore_inv (h : Claims.Inv s) (g sa sb) : NextInv (execMxaStore g sa sb s) :=
  nextInv_next.2 (coreStep_inv h _ _ fun t gr b l h => by
    grind -ring -linarith -order [EffInv, closeChain_inv])

theorem execMxaWait_inv (h : Claims.Inv s) (g n) : NextInv (execMxaWait g n s) :=
  nextInv_next.2 (coreStep_inv h _ _ fun t gr b l h => by
    grind -ring -linarith -order [EffInv])

theorem execChainBecomesCurrent_inv (h : Claims.Inv s) (cl) : NextInv (execChainBecomesCurrent cl s) := by
  grind -ring -linarith -order [execChainBecomesCurrent, nextInv_next, setCurrent_inv]

theorem execArrayTakeInstruction_inv (h : Claims.Inv s) (cl) : NextInv (execArrayTakeInstruction cl s) := by
  unfold execArrayTakeInstruction
  simp only
  repeat' split
  all_goals grind -ring -linarith -order [nextInv_next, State.setCluster_inv, fetchPort_inv, chainFault_inv, setCurrent_inv,
    releaseHeld_inv]

theorem readPanels_inv (h : Claims.Inv s) (cl ch mma) : Claims.Inv (readPanels s cl ch mma).1 := by
  grind -ring -linarith -order [readPanels, fetchPort_inv]

theorem execDeferredScan_inv (h : Claims.Inv s) (cl) : NextInv (execDeferredScan cl s) := by
  unfold execDeferredScan
  repeat' split
  all_goals grind -ring -linarith -order [nextInv_next, readPanels_inv, chainFault_inv, setCurrent_inv]

theorem execMultiplyPass_inv (h : Claims.Inv s) (cl) : NextInv (execMultiplyPass cl s) := by
  unfold execMultiplyPass
  simp only
  repeat' split
  all_goals grind -ring -linarith -order [nextInv_next, readPanels_inv, chainFault_inv, setCurrent_inv, releaseHeld_inv, recordMxEvt_inv,
    State.observe_inv]

theorem execDrainMove_inv (h : Claims.Inv s) (cl) : NextInv (execDrainMove cl s) := by
  grind -ring -linarith -order [execDrainMove, nextInv_next, State.setCluster_inv]

theorem execChainCheck_inv (h : Claims.Inv s) (cl) : NextInv (execChainCheck cl s) := by
  grind -ring -linarith -order [execChainCheck, nextInv_next, chainFault_inv, setDrain_inv, recordMxEvt_inv]

theorem drained_inv (h : Claims.Inv s) (cl ch) : Claims.Inv (drained s cl ch) := frame_inv h

theorem execStorePath_inv (h : Claims.Inv s) (cl) : NextInv (execStorePath cl s) := by
  grind -ring -linarith -order [execStorePath, nextInv_next, putAll_inv, State.setCluster_inv, chainFault_inv, drained_inv, setDrain_inv]

theorem execChainComplete_inv (h : Claims.Inv s) (cl) : NextInv (execChainComplete cl s) := by
  grind -ring -linarith -order [execChainComplete, nextInv_next, State.setCluster_inv, State.observe_inv]

/-! #### Machine/Link.lean -/

theorem State.setLink_inv (h : Claims.Inv s) (l x) : Claims.Inv (State.setLink s l x) := frame_inv h

theorem sealFrame_inv (h : Claims.Inv s) (l fr) : ∀ t, sealFrame s l fr = some t → Claims.Inv t.1 := by
  intro t ht
  obtain ⟨x, -, rfl⟩ := Option.map_eq_some_iff.1 ht
  grind -ring -linarith -order [State.setLink_inv, State.freeNat_inv]

theorem emitFrame_inv (h : Claims.Inv s) (l fr) : Claims.Inv (emitFrame s l fr) := frame_inv h

theorem sendCtl_inv (h : Claims.Inv s) (l ftype flags psn payload) : Claims.Inv (sendCtl s l ftype flags psn payload) := by
  unfold sendCtl
  simp only
  split
  next e => exact emitFrame_inv (sealFrame_inv h _ _ _ e) ..
  · exact State.setLink_inv h ..

theorem resend_inv (h : Claims.Inv s) (l psn) : Claims.Inv (resend s l psn) := by
  unfold resend
  split
  · exact h
  next x _ =>
    split
    · exact State.setLink_inv h ..
    next t fr e =>
      split at e
      · have ht := sealFrame_inv h _ _ _ e
        exact State.observe_inv (State.observe_inv (emitFrame_inv (State.setLink_inv ht ..) ..) ..) ..
      · cases e

theorem sendNew_inv (h : Claims.Inv s) (l x) : Claims.Inv (sendNew s l x) := by
  unfold sendNew
  split
  · exact h
  next e => exact State.observe_inv (emitFrame_inv (State.setLink_inv (sealFrame_inv h _ _ _ e) ..) ..) ..

theorem sendMany_inv (l n) (h : Claims.Inv s) : Claims.Inv (sendMany l n s) := by
  induction n generalizing s with
  | zero => exact h
  | succ n ih => grind -ring -linarith -order [sendMany, resend_inv, sendNew_inv, State.setLink_inv]

theorem sendHeldCtl_inv (h : Claims.Inv s) (l) : Claims.Inv (sendHeldCtl s l) := by
  grind -ring -linarith -order [sendHeldCtl, foldl_inv, sendCtl_inv, State.setLink_inv]

theorem pumpLink_inv (h : Claims.Inv s) (l) : Claims.Inv (pumpLink s l) := by
  grind -ring -linarith -order [pumpLink, sendMany_inv, sendHeldCtl_inv]

theorem queueFrame_inv (h : Claims.Inv s) (l part fr) : Claims.Inv (queueFrame s l part fr) := pumpLink_inv (frame_inv h) ..

theorem slowLink_inv (h : Claims.Inv s) (l) : Claims.Inv (slowLink s l) := by
  grind -ring -linarith -order [slowLink, State.setLink_inv]

theorem endTrain_inv (h : Claims.Inv s) (l status) : Claims.Inv (endTrain s l status) := by
  grind -ring -linarith -order [endTrain, succeed_inv, State.setLink_inv, refuseCmd_inv]

theorem endSession_inv (h : Claims.Inv s) (l st cause) : Claims.Inv (endSession s l st cause) := by
  grind -ring -linarith -order [endSession, State.setLink_inv, inv_iff]

theorem failLink_inv (h : Claims.Inv s) (l cause) : Claims.Inv (failLink s l cause) := endTrain_inv (endSession_inv h ..) ..

theorem openSession_inv (h : Claims.Inv s) (l) : Claims.Inv (openSession s l) := by
  grind -ring -linarith -order [openSession, pumpLink_inv, State.setLink_inv, endTrain_inv]

theorem sendHello_inv (h : Claims.Inv s) (l) : Claims.Inv (sendHello s l) := sendCtl_inv (frame_inv h) ..

theorem negotiate_inv (h : Claims.Inv s) (l) : Claims.Inv (negotiate s l) := by
  grind -ring -linarith -order [negotiate, sendHello_inv, failLink_inv, State.setLink_inv]

theorem countErr_inv (h : Claims.Inv s) (l k) : Claims.Inv (countErr s l k) := frame_inv h

theorem sendAck_inv (h : Claims.Inv s) (l) : Claims.Inv (sendAck s l) := sendCtl_inv (frame_inv h) ..

theorem noteCe_inv (h : Claims.Inv s) (l fr part) : Claims.Inv (noteCe s l fr part) := by
  grind -ring -linarith -order [noteCe, State.observe_inv, countErr_inv, sendCtl_inv, State.setLink_inv]

theorem accepted_inv (h : Claims.Inv s) (l fr) : Claims.Inv (accepted s l fr) := noteCe_inv (State.observe_inv h ..) ..

theorem rxWindow_inv (h : Claims.Inv s) (l fr) : Claims.Inv (rxWindow s l fr).1 := by
  grind -ring -linarith -order [rxWindow, accepted_inv, countErr_inv, sendAck_inv, State.setLink_inv]

theorem execAckTimer_inv (h : Claims.Inv s) (l) : NextInv (execAckTimer l s) := nextInv_next.2 (inv_ite (sendAck_inv h ..) h)

theorem execAck_inv (h : Claims.Inv s) (l fr) : NextInv (execAck l fr s) := by
  grind -ring -linarith -order [execAck, nextInv_next, foldl_inv, pumpLink_inv, accepted_inv, countErr_inv, slowLink_inv, resend_inv,
    State.setLink_inv]

theorem execCnp_inv (h : Claims.Inv s) (l fr) : NextInv (execCnp l fr s) := by
  grind -ring -linarith -order [execCnp, nextInv_next, accepted_inv, countErr_inv, slowLink_inv]

theorem execRetransmissionTimeout_inv (h : Claims.Inv s) (l psn) : NextInv (execRetransmissionTimeout l psn s) := by
  grind -ring -linarith -order [execRetransmissionTimeout, nextInv_next, resend_inv, failLink_inv, State.setLink_inv]

theorem execRateIncrease_inv (h : Claims.Inv s) (l) : NextInv (execRateIncrease l s) := nextInv_next.2 (inv_ite (frame_inv h) h)

theorem execHello_inv (h : Claims.Inv s) (l fr) : NextInv (execHello l fr s) := by
  grind -ring -linarith -order [execHello, nextInv_next, openSession_inv, accepted_inv, countErr_inv, sendHello_inv, failLink_inv,
    State.setLink_inv]

theorem execHelloTimer_inv (h : Claims.Inv s) (l) : NextInv (execHelloTimer l s) := by
  grind -ring -linarith -order [execHelloTimer, nextInv_next, sendHello_inv, failLink_inv]

theorem execEcho_inv (h : Claims.Inv s) (l fr) : NextInv (execEcho l fr s) := by
  grind -ring -linarith -order [execEcho, nextInv_next, accepted_inv, countErr_inv, sendCtl_inv, State.setLink_inv]

theorem execEchoTimer_inv (h : Claims.Inv s) (l) : NextInv (execEchoTimer l s) := nextInv_next.2 (inv_ite (sendCtl_inv (frame_inv h) ..) h)

theorem execBerEstimate_inv (h : Claims.Inv s) (l lanes) : NextInv (execBerEstimate l lanes s) := nextInv_next.2 (inv_ite (frame_inv h) h)

theorem execLossOfPhyLock_inv (h : Claims.Inv s) (l) : NextInv (execLossOfPhyLock l s) := nextInv_next.2 (inv_ite (failLink_inv h ..) h)

/-! #### Machine/Rope.lean -/

theorem ropeQueue_inv (h : Claims.Inv s) (l x) : Claims.Inv (ropeQueue s l x) := pumpLink_inv (frame_inv h) ..

theorem ropeSendOn_inv (h : Claims.Inv s) (l kind mepoch seq arg data) : Claims.Inv (ropeSendOn s l kind mepoch seq arg data) :=
  ropeQueue_inv h ..

theorem ropeSend_inv (h : Claims.Inv s) (kind mepoch seq arg data) : Claims.Inv (ropeSend s kind mepoch seq arg data) :=
  ropeSendOn_inv (frame_inv h) ..

theorem ropeSendAll_inv (h : Claims.Inv s) (kind arg) : Claims.Inv (ropeSendAll s kind arg) := by
  grind -ring -linarith -order [ropeSendAll, foldl_inv, ropeSendOn_inv]

theorem setRopeBits_inv (h : Claims.Inv s) (on) : Claims.Inv (setRopeBits s on) := by
  grind -ring -linarith -order [setRopeBits, foldl_inv, State.setLink_inv]

theorem unpair_inv (h : Claims.Inv s) : Claims.Inv (unpair s) := by
  grind -ring -linarith -order [unpair, setRopeBits_inv, inv_iff, canon_iff]

theorem formFails_inv (h : Claims.Inv s) (status refusal) : Claims.Inv (formFails s status refusal) := by
  grind -ring -linarith -order [formFails, unpair_inv, refuseCmd_inv, inv_iff]

theorem formPair_inv (h : Claims.Inv s) : Claims.Inv (formPair s) := by
  have hs := ropeSendAll_inv h 1 (b2n s.rope.second)
  unfold formPair
  generalize ropeSendAll s 1 (b2n s.rope.second) = t at hs
  simp only
  split
  · refine succeed0_inv ?_ _
    exact ⟨hs.dram, hs.ecc, hs.applied, hs.now, hs.target⟩
  · exact ⟨hs.dram, hs.ecc, hs.applied, hs.now, hs.target⟩

theorem journalFetch_inv (h : Claims.Inv s) (r packet) : Claims.Inv (journalFetch s r packet) := by
  grind -ring -linarith -order [journalFetch, inv_iff]

theorem journalStart_inv (h : Claims.Inv s) (r) : Claims.Inv (journalStart s r) := by
  grind -ring -linarith -order [journalStart, ropeSend_inv, inv_iff]

theorem journalDone_inv (h : Claims.Inv s) (r reply) : Claims.Inv (journalDone s r reply) := by
  grind -ring -linarith -order [journalDone, ropeSend_inv, inv_iff]

theorem journalPlace_inv (h : Claims.Inv s) (idx data) : Claims.Inv (journalPlace s idx data) := by
  grind -ring -linarith -order [journalPlace, inv_iff]

theorem afterCut_canon (h : m.Canon) (set) : (afterCut m set).Canon := by
  grind -ring -linarith -order [afterCut, foldl_canon, MemSys.markDirty_canon, canon_iff]

theorem sendPages_inv (e as n) (h : Claims.Inv s) : Claims.Inv (sendPages e as n s) := by
  induction as generalizing s n with
  | nil => exact h
  | cons a as ih =>
    have hr := uncachedRead_canon (canon_of_inv h) s.time 0xFFFF a 2048
    rw [sendPages]
    split
    next heq => exact ih _ (ropeSend_inv (inv_setMem h (by rw [heq] at hr; exact hr)) ..)

theorem sendState_inv (e cs n) (h : Claims.Inv s) : Claims.Inv (sendState e cs n s) := by
  induction cs generalizing s n with
  | nil => exact h
  | cons c cs ih => exact ih _ (ropeSend_inv h ..)

theorem execCut_inv (h : Claims.Inv s) : NextInv (execCut s) := by
  grind -ring -linarith -order [execCut, nextInv_next, sendState_inv, sendPages_inv, afterCut_canon, ropeSend_inv, inv_iff]

theorem execAckOverdue_inv (h : Claims.Inv s) : NextInv (execAckOverdue s) := nextInv_next.2 (inv_ite (frame_inv h) h)

theorem ropeComplete_inv (h : Claims.Inv s) : Claims.Inv (ropeComplete s) := by
  grind -ring -linarith -order [ropeComplete, ropeSend_inv, inv_iff]

theorem applyEpoch_inv (h : Claims.Inv s) : Claims.Inv (applyEpoch s) := by
  unfold applyEpoch
  split
  · exact h
  next e _ =>
    refine (inv_iff _).2 ⟨foldl_canon (fun m x hm => ?_) (canon_of_inv h) _, h.applied, h.now, h.target⟩
    have hr := uncachedRead_canon hm s.time 0xFFFF (stagingBase e + 2048 * x.2.2.1) 2048
    split
    next heq => exact uncachedWrite_canon (by rw [heq] at hr; exact hr) ..

theorem execEpochApply_inv (h : Claims.Inv s) : NextInv (execEpochApply s) := by
  grind -ring -linarith -order [execEpochApply, nextInv_next, applyEpoch_inv, ropeComplete_inv, inv_iff, canon_iff]

theorem ropeTake_inv (h : Claims.Inv s) (kind r) : Claims.Inv (ropeTake s kind r) := by
  unfold ropeTake
  grind -ring -linarith -order [inv_iff, canon_iff, formFails_inv, formPair_inv, ropeComplete_inv, uncachedWrite_canon, journalPlace_inv,
    unpair_inv]

theorem ropeRecv_inv (h : Claims.Inv s) (kind r) : Claims.Inv (ropeRecv s kind r) := by
  grind -ring -linarith -order [ropeRecv, countErr_inv, ropeTake_inv, formFails_inv, inv_iff]

theorem execForm_inv (h : Claims.Inv s) (r) : NextInv (execForm r s) := nextInv_next.2 (ropeRecv_inv h ..)

theorem execPage_inv (h : Claims.Inv s) (r) : NextInv (execPage r s) := nextInv_next.2 (ropeRecv_inv h ..)

theorem execJournal_inv (h : Claims.Inv s) (r) : NextInv (execJournal r s) := nextInv_next.2 (ropeRecv_inv h ..)

theorem execState_inv (h : Claims.Inv s) (r) : NextInv (execState r s) := nextInv_next.2 (ropeRecv_inv h ..)

theorem execEndRecord_inv (h : Claims.Inv s) (r) : NextInv (execEndRecord r s) := nextInv_next.2 (ropeRecv_inv h ..)

theorem execRopeAck_inv (h : Claims.Inv s) (r) : NextInv (execRopeAck r s) := nextInv_next.2 (ropeRecv_inv h ..)

theorem execBeat_inv (h : Claims.Inv s) (r) : NextInv (execBeat r s) := nextInv_next.2 (ropeRecv_inv h ..)

theorem execDissolve_inv (h : Claims.Inv s) (r) : NextInv (execDissolve r s) := nextInv_next.2 (ropeRecv_inv h ..)

theorem execFormTimer_inv (h : Claims.Inv s) : NextInv (execFormTimer s) := by
  grind -ring -linarith -order [execFormTimer, nextInv_next, formFails_inv, ropeSendAll_inv, inv_iff]

theorem execBeatTimer_inv (h : Claims.Inv s) (l) : NextInv (execBeatTimer l s) := nextInv_next.2 (inv_ite (ropeSendOn_inv h ..) h)

theorem execRopeResend_inv (h : Claims.Inv s) (l) : NextInv (execRopeResend l s) := by
  grind -ring -linarith -order [execRopeResend, nextInv_next, foldl_inv, State.setLink_inv, ropeQueue_inv, inv_iff]

/-! #### Machine/Coll.lean -/

theorem State.setEngine_inv (h : Claims.Inv s) (k e) : Claims.Inv (State.setEngine s k e) := frame_inv h

theorem freeJob_inv (h : Claims.Inv s) (id) : Claims.Inv (freeJob s id) := by
  grind -ring -linarith -order [freeJob, inv_iff]

theorem collSend_inv (h : Claims.Inv s) (k) : Claims.Inv (collSend s k) := by
  grind -ring -linarith -order [collSend, foldl_inv, State.setEngine_inv, queueFrame_inv]

theorem engineSend_inv (h : Claims.Inv s) (k a) : Claims.Inv (engineSend s k a) := by
  grind -ring -linarith -order [engineSend, State.takeTurn_inv, spendTokens_inv]

theorem collPut_inv (k last is) (h : Claims.Inv s) : Claims.Inv (collPut k last is s) := by
  induction is generalizing s last with
  | nil => exact h
  | cons i is ih => grind -ring -linarith -order [collPut, engineSend_inv, State.setEngine_inv, putAll_inv]

theorem collWrite_inv (h : Claims.Inv s) (k) : Claims.Inv (collWrite s k) := by
  grind -ring -linarith -order [collWrite, collPut_inv]

theorem collRead_inv (k last rs) (h : Claims.Inv s) : Claims.Inv (collRead k last rs s) := by
  induction rs generalizing s last with
  | nil => exact h
  | cons r rs ih => grind -ring -linarith -order [collRead, engineSend_inv, State.setEngine_inv, engineRead_inv]

theorem collSource_inv (h : Claims.Inv s) (k) : Claims.Inv (collSource s k) := by
  grind -ring -linarith -order [collSource, collRead_inv, State.setEngine_inv, sendHostRead_inv]

theorem collProgress_inv (h : Claims.Inv s) (k) : Claims.Inv (collProgress s k) := by
  grind -ring -linarith -order [collProgress, collWrite_inv, collSource_inv, collSend_inv]

theorem pumpEngines_inv (h : Claims.Inv s) : Claims.Inv (pumpEngines s) := by
  grind -ring -linarith -order [pumpEngines, foldl_inv, collProgress_inv]

theorem collPeer_inv (h : Claims.Inv s) (k l p) : Claims.Inv (collPeer s k l p) := by
  grind -ring -linarith -order [collPeer, collProgress_inv, State.setEngine_inv]

theorem collStart_inv (h : Claims.Inv s) (k) : Claims.Inv (collStart s k) := by
  grind -ring -linarith -order [collStart, foldl_inv, collProgress_inv, collPeer_inv, State.setEngine_inv, queueFrame_inv,
    State.setLink_inv, inv_iff]

theorem feedEngine_inv (h : Claims.Inv s) (p handle elem anchor v tag low high) :
    ∀ t, feedEngine s p handle elem anchor v tag low high = some t → Claims.Inv t := by
  grind -ring -linarith -order [feedEngine, collProgress_inv, State.setEngine_inv]

theorem collData_inv (h : Claims.Inv s) (k l fr) : Claims.Inv (collData s k l fr) := by
  grind -ring -linarith -order [collData, collProgress_inv, State.setEngine_inv]

theorem endEngine_inv (h : Claims.Inv s) (k) : Claims.Inv (endEngine s k) := freeJob_inv (frame_inv h) ..

theorem dropEngines_inv (h : Claims.Inv s) (p) : Claims.Inv (dropEngines s p) := by
  grind -ring -linarith -order [dropEngines, foldl_inv, endEngine_inv]

theorem execCollectiveComplete_inv (h : Claims.Inv s) (k) : NextInv (execCollectiveComplete k s) := by
  grind -ring -linarith -order [execCollectiveComplete, nextInv_next, collProgress_inv, endEngine_inv, succeed0_inv, refuseCmd_inv]

/-! #### Machine/Red.lean -/

theorem execRedPut_inv (h : Claims.Inv s) (g sa sb sc) : NextInv (execRedPut g sa sb sc s) :=
  nextInv_next.2 (coreStep_inv h _ _ fun t gr b l h => by
    grind -ring -linarith -order [EffInv, State.setCluster_inv, scratchBytes_inv])

theorem execRedAcc_inv (h : Claims.Inv s) (g sa) : NextInv (execRedAcc g sa s) :=
  nextInv_next.2 (coreStep_inv h _ _ fun t gr b l h => by
    grind -ring -linarith -order [EffInv, State.setCluster_inv, closeChain_inv])

theorem execRedWait_inv (h : Claims.Inv s) (g n) : NextInv (execRedWait g n s) :=
  nextInv_next.2 (coreStep_inv h _ _ fun t gr b l h => by
    grind -ring -linarith -order [EffInv])

theorem execFabricArrival_inv (h : Claims.Inv s) (cl stream) : NextInv (execFabricArrival cl stream s) := by
  grind -ring -linarith -order [execFabricArrival, nextInv_next, State.setCluster_inv, noteFault_inv, ownerFault_inv]

theorem deliverElem_inv (h : Claims.Inv s) (cl r e) : ∀ t, deliverElem s cl r e = some t → Claims.Inv t.1 := by
  intro t ht
  unfold deliverElem at ht
  simp only at ht
  split at ht
  · obtain ⟨u, hu, rfl⟩ := Option.map_eq_some_iff.1 ht
    exact feedEngine_inv h _ _ _ _ _ _ _ _ _ hu
  · rw [Option.ite_none_left_eq_some] at ht
    obtain ⟨-, ht⟩ := ht
    rw [← Option.some.inj ht]
    simp only
    split
    · exact ownerFault_inv (putAll_inv h ..) ..
    · exact putAll_inv h ..

theorem deliverAll_inv (cl slot es) (h : Claims.Inv s) : Claims.Inv (deliverAll cl slot es s) := by
  induction es generalizing s with
  | nil => exact h
  | cons e es ih =>
    rw [deliverAll]
    split
    · exact h
    · refine inv_ite (ih h) ?_
      split
      next he => exact ih (State.setCluster_inv (deliverElem_inv h _ _ _ _ he) ..)
      · exact ih h

theorem execRootAdd_inv (h : Claims.Inv s) (cl slot) : NextInv (execRootAdd cl slot s) := by
  grind -ring -linarith -order [execRootAdd, nextInv_next, State.setCluster_inv, deliverAll_inv]

theorem execRootOperationComplete_inv (h : Claims.Inv s) (cl slot) : NextInv (execRootOperationComplete cl slot s) := by
  grind -ring -linarith -order [execRootOperationComplete, nextInv_next, State.setCluster_inv, tdProgress_inv]

/-! #### Machine/Fab.lean -/

theorem fabricFault_inv (h : Claims.Inv s) (c) : Claims.Inv (fabricFault s c) := by
  grind -ring -linarith -order [fabricFault, noteFault_inv]

theorem fabLog_inv (h : Claims.Inv s) (c kind port slot hdr cnt) : Claims.Inv (fabLog s c kind port slot hdr cnt) := frame_inv h

theorem collision_inv (h : Claims.Inv s) (c kind port slot hdr) : Claims.Inv (collision s c kind port slot hdr) :=
  fabricFault_inv (frame_inv h) ..

theorem edgeDrop_inv (h : Claims.Inv s) (c port slot hdr) : Claims.Inv (edgeDrop s c port slot hdr) := fabricFault_inv (frame_inv h) ..

theorem fenceDrop_inv (h : Claims.Inv s) (c port slot hdr) : Claims.Inv (fenceDrop s c port slot hdr) := State.observe_inv (frame_inv h) ..

theorem headerError_inv (h : Claims.Inv s) (c port hdr) : Claims.Inv (headerError s c port hdr) := fabricFault_inv (frame_inv h) ..

theorem observeSent_inv (h : Claims.Inv s) (c ev n) : Claims.Inv (observeSent s c ev n) := by
  grind -ring -linarith -order [observeSent, State.observe_inv]

theorem takeStream_inv (h : Claims.Inv s) (cl n cycle period) : Claims.Inv (takeStream s cl n cycle period).1 := by
  unfold takeStream
  grind -ring -linarith -order [tdProgress_inv, State.setCluster_inv]

theorem takeInput_inv (h : Claims.Inv s) (c cycle period e port) : Claims.Inv (takeInput s c cycle period e port).1 := by
  grind -ring -linarith -order [takeInput, State.setRouter_inv, takeStream_inv]

theorem takeInputs_inv (c cycle period e ps) (h : Claims.Inv s) : Claims.Inv (takeInputs c cycle period e ps s).1 := by
  induction ps generalizing s with
  | nil => exact h
  | cons p ps ih => grind -ring -linarith -order [takeInputs, takeInput_inv]

theorem streamDeliver_inv (h : Claims.Inv s) (c stream slot f) : Claims.Inv (streamDeliver s c stream slot f) := by
  grind -ring -linarith -order [streamDeliver, State.setCluster_inv, fabricFault_inv, tdProgress_inv, fabLog_inv]

theorem leaveBy_inv (h : Claims.Inv s) (c port cycle stream slot f) : Claims.Inv (leaveBy s c port cycle stream slot f) := frame_inv h

theorem sendFl_inv (h : Claims.Inv s) (c cycle slot e f port) : Claims.Inv (sendFl s c cycle slot e f port) := by
  grind -ring -linarith -order [sendFl, State.setRouter_inv, leaveBy_inv, edgeDrop_inv]

theorem reduceMismatch_inv (h : Claims.Inv s) (c slot fs) : Claims.Inv (reduceMismatch s c slot fs) :=
  fabricFault_inv (State.setRouter_inv h ..) _

theorem entrySlot_inv (h : Claims.Inv s) (c cycle period slot k e) : Claims.Inv (entrySlot c cycle period slot s k e) := by
  grind -ring -linarith -order [entrySlot, foldl_inv, takeInputs_inv, sendFl_inv, fenceDrop_inv, observeSent_inv, collision_inv,
    reduceMismatch_inv]

theorem slotEntries_inv (h : Claims.Inv s) (c cycle) : Claims.Inv (slotEntries s c cycle).2 := by
  grind -ring -linarith -order [slotEntries, foldl_inv, entrySlot_inv]

theorem placeArb_inv (h : Claims.Inv s) (c port vc outs f) : Claims.Inv (placeArb s c port vc outs f) := by
  grind -ring -linarith -order [placeArb, foldl_inv, State.setRouter_inv, edgeDrop_inv]

theorem routeArb_inv (h : Claims.Inv s) (c port f) : Claims.Inv (routeArb s c port f) := by
  grind -ring -linarith -order [routeArb, State.setRouter_inv, placeArb_inv, fenceDrop_inv, headerError_inv]

theorem allocate_inv (h : Claims.Inv s) (c cycle) : Claims.Inv (allocate s c cycle) := frame_inv h

theorem crossArb_inv (h : Claims.Inv s) (c cycle g) : Claims.Inv (crossArb c cycle s g) := by
  grind -ring -linarith -order [crossArb, State.setRouter_inv, leaveBy_inv, observeSent_inv]

theorem crossAll_inv (h : Claims.Inv s) (c cycle) : Claims.Inv (crossAll s c cycle) := by
  grind -ring -linarith -order [crossAll, foldl_inv, State.setRouter_inv, crossArb_inv]

theorem crossFolio_inv (h : Claims.Inv s) (f dest cycle) : Claims.Inv (crossFolio s f dest cycle) := frame_inv h

theorem arbLeft_inv (h : Claims.Inv s) (c l) : Claims.Inv (arbLeft s c l) := by
  grind -ring -linarith -order [arbLeft, noteFault_inv, crossFolio_inv, State.send_inv, inv_iff]

theorem hasLeft_inv (h : Claims.Inv s) (c l) : Claims.Inv (hasLeft c s l) := by
  grind -ring -linarith -order [hasLeft, streamDeliver_inv, arbLeft_inv, State.send_inv]

theorem leaveAll_inv (h : Claims.Inv s) (c cycle) : Claims.Inv (leaveAll s c cycle) := by
  grind -ring -linarith -order [leaveAll, foldl_inv, State.setRouter_inv, hasLeft_inv]

theorem dropStrays_inv (h : Claims.Inv s) (c cycle slot) : Claims.Inv (dropStrays s c cycle slot) := by
  grind -ring -linarith -order [dropStrays, foldl_inv, State.setRouter_inv, fenceDrop_inv, collision_inv]

theorem execFixedLineSlot_inv (h : Claims.Inv s) (c cycle) : NextInv (execFixedLineSlot c cycle s) := by
  grind -ring -linarith -order [execFixedLineSlot, nextInv_next, State.setRouter_inv, leaveAll_inv, slotEntries_inv, dropStrays_inv,
    State.toCycle_inv, crossAll_inv, allocate_inv]

theorem execScheduleStart_inv (h : Claims.Inv s) (p cycle) : NextInv (execScheduleStart p cycle s) := by
  grind -ring -linarith -order [execScheduleStart, nextInv_next, State.setPart_inv, State.toCycle_inv]

theorem takeArrival_inv (h : Claims.Inv s) (c port f) : ∀ t, takeArrival s c port f = some t → Claims.Inv t := by
  grind -ring -linarith -order [takeArrival, State.setRouter_inv]

theorem execArbitratedFlitArrival_inv (h : Claims.Inv s) (c port f) : NextInv (execArbitratedFlitArrival c port f s) := by
  grind -ring -linarith -order [execArbitratedFlitArrival, nextInv_next, State.setRouter_inv, takeArrival_inv, routeArb_inv]

theorem execPacketAged_inv (h : Claims.Inv s) (c n) : NextInv (execPacketAged c n s) := by
  grind -ring -linarith -order [execPacketAged, nextInv_next, State.observe_inv, State.setRouter_inv]

/-! #### Machine/Ctl.lean -/

theorem execNop_inv (h : Claims.Inv s) (g) : NextInv (execNop g s) :=
  nextInv_next.2 (coreStep_inv h _ _ fun t gr b l h => by
    grind -ring -linarith -order [EffInv])

theorem execJmp_inv (h : Claims.Inv s) (g off) : NextInv (execJmp g off s) :=
  nextInv_next.2 (coreStep_inv h _ _ fun t gr b l h => by
    grind -ring -linarith -order [EffInv])

theorem execBr_inv (h : Claims.Inv s) (g nz sc off) : NextInv (execBr g nz sc off s) :=
  nextInv_next.2 (coreStep_inv h _ _ fun t gr b l h => by
    grind -ring -linarith -order [EffInv])

theorem execBrd_inv (h : Claims.Inv s) (g p t j) : NextInv (execBrd g p t j s) :=
  nextInv_next.2 (coreStep_inv h _ _ fun t gr b l h => by
    grind -ring -linarith -order [EffInv, State.setGroup_inv])

theorem execCall_inv (h : Claims.Inv s) (g lp off) : NextInv (execCall g lp off s) :=
  nextInv_next.2 (coreStep_inv h _ _ fun t gr b l h => by
    grind -ring -linarith -order [EffInv, State.setGroup_inv])

theorem execCallr_inv (h : Claims.Inv s) (g lp tp) : NextInv (execCallr g lp tp s) :=
  nextInv_next.2 (coreStep_inv h _ _ fun t gr b l h => by
    grind -ring -linarith -order [EffInv, State.setGroup_inv])

theorem execRet_inv (h : Claims.Inv s) (g tp) : NextInv (execRet g tp s) :=
  nextInv_next.2 (coreStep_inv h _ _ fun t gr b l h => by
    grind -ring -linarith -order [EffInv])

theorem execExit_inv (h : Claims.Inv s) (g pg) : NextInv (execExit g pg s) :=
  nextInv_next.2 (coreStep_inv h _ _ fun t gr b l h => by
    grind -ring -linarith -order [EffInv, State.setCluster_inv, State.setGroup_inv, dropGroupResvs_canon, inv_iff])

theorem execBar_inv (h : Claims.Inv s) (g n) : NextInv (execBar g n s) :=
  nextInv_next.2 (coreStep_inv h _ _ fun t gr b l h => by
    grind -ring -linarith -order [EffInv, State.setCluster_inv, State.setGroup_inv])

theorem execFence_inv (h : Claims.Inv s) (g scope kind) : NextInv (execFence g scope kind s) :=
  nextInv_next.2 (coreStep_inv h _ _ fun t gr b l h => by
    grind -ring -linarith -order [EffInv])

/-! #### Machine/Block.lean -/

theorem stampStart_inv (h : Claims.Inv s) (k) : Claims.Inv (stampStart s k) := by
  grind -ring -linarith -order [stampStart, State.setCtx_inv]

theorem blockStarts_inv (h : Claims.Inv s) (cl bs) : Claims.Inv (blockStarts s cl bs) := by
  grind -ring -linarith -order [blockStarts, foldl_inv, State.observe_inv]

theorem startIfReady_inv (h : Claims.Inv s) (cl k) : Claims.Inv (startIfReady s cl k) := by
  grind -ring -linarith -order [startIfReady, stampStart_inv]

theorem admitStream_inv (h : Claims.Inv s) (cl p k) : Claims.Inv (admitStream s cl p k) := by
  grind -ring -linarith -order [admitStream, State.setCluster_inv, startIfReady_inv, blockStarts_inv, State.setCtx_inv, inv_iff]

theorem admitOffer_inv (h : Claims.Inv s) (cl o rest) : Claims.Inv (admitOffer s cl o rest) := by
  grind -ring -linarith -order [admitOffer, State.setCluster_inv, startIfReady_inv, blockStarts_inv]

theorem execBlockAdmission_inv (h : Claims.Inv s) (cl) : NextInv (execBlockAdmission cl s) := by
  grind -ring -linarith -order [execBlockAdmission, nextInv_next, admitStream_inv, admitOffer_inv]

theorem execScratchZeroingEnd_inv (h : Claims.Inv s) (cl bslot) : NextInv (execScratchZeroingEnd cl bslot s) := by
  grind -ring -linarith -order [execScratchZeroingEnd, nextInv_next, State.setCluster_inv, stampStart_inv, blockStarts_inv]

theorem execBlockRelease_inv (h : Claims.Inv s) (cl bslot) : NextInv (execBlockRelease cl bslot s) := by
  grind -ring -linarith -order [execBlockRelease, nextInv_next, State.setCluster_inv, State.setCtx_inv]

/-! #### Machine/Queue.lean -/

theorem writeReply_inv (h : Claims.Inv s) (f n) : Claims.Inv (writeReply s f n) := by
  grind -ring -linarith -order [writeReply, State.observe_inv, State.setQueue_inv, journalDone_inv, State.send_inv, inv_iff, canon_iff]

theorem dropFetch_inv (h : Claims.Inv s) (f q) : Claims.Inv (dropFetch s f q) := frame_inv h

theorem closeQueue_inv (h : Claims.Inv s) (f n) : Claims.Inv (closeQueue s f n) := by
  grind -ring -linarith -order [closeQueue, State.setQueue_inv, dropFetch_inv]

theorem writeCtrl_inv (h : Claims.Inv s) (f n v) : Claims.Inv (writeCtrl s f n v) := by
  grind -ring -linarith -order [writeCtrl, State.setQueue_inv, closeQueue_inv]

theorem State.setPcie_inv (h : Claims.Inv s) (f x) : Claims.Inv (State.setPcie s f x) := frame_inv h

theorem countUr_inv (h : Claims.Inv s) (f) : Claims.Inv (countUr s f) := frame_inv h

theorem postedOutside_inv (h : Claims.Inv s) (f) : Claims.Inv (postedOutside s f) := by
  grind -ring -linarith -order [postedOutside, countUr_inv]

theorem queueError_inv (h : Claims.Inv s) (f n code) : Claims.Inv (queueError s f n code) := frame_inv h

theorem takeEntry_inv (h : Claims.Inv s) (f n bs) : Claims.Inv (takeEntry s f n bs) := journalFetch_inv (frame_inv h) ..

theorem countReadErr_inv (h : Claims.Inv s) : Claims.Inv (countReadErr s) := frame_inv h

theorem entryAnswer_inv (h : Claims.Inv s) (f q r) : Claims.Inv (entryAnswer s f q r) := by
  cases r <;> grind -ring -linarith -order [entryAnswer, takeEntry_inv, queueError_inv, countReadErr_inv]

/-! #### Machine/Cmd.lean -/

theorem markStarted_inv (h : Claims.Inv s) (r) : Claims.Inv (markStarted s r) := frame_inv h

theorem beginCmd_inv (h : Claims.Inv s) (r c p) : Claims.Inv (beginCmd s r c p) := journalStart_inv (frame_inv (State.observe_inv h ..)) ..

theorem runCmd_inv (h : Claims.Inv s) (f q d ready refuse) {act} (ha : ∀ t r p c, Claims.Inv t → Claims.Inv (act t r p c)) :
    NextInv (runCmd s f q d ready refuse act) := by
  unfold runCmd
  simp only
  split
  · exact nextInv_next.2 h
  next c _ =>
    have hn := nextInv_next.2 h
    have hb := beginCmd_inv h ⟨f, q, c.seq⟩ c (c.partN f)
    refine nextInv_ite hn (nextInv_ite hn (nextInv_ite ?_ (nextInv_ite hn (nextInv_ite hn (nextInv_ite ?_ ?_)))))
    · exact nextInv_next.2 (refuseCmd_inv (markStarted_inv h _) ..)
    · exact nextInv_next.2 (refuseCmd_inv (inv_ite (frame_inv hb) hb) ..)
    · have hp := inv_ite (c := bitOf (c.field 3 1) 6 && decide (c.partN f < 64))
        (setPhase_inv hb (c.partN f) (some (BitVec.ofNat 6 (c.field 3 1)))) hb
      exact nextInv_next.2 (ha _ _ _ _ (inv_ite (frame_inv hp) hp))

theorem pieceRead_inv (h : Claims.Inv s) (p a n) : Claims.Inv (pieceRead s p a n).1 := by
  grind -ring -linarith -order [pieceRead, engineRead_inv]

theorem pieceWrite_inv (h : Claims.Inv s) (p a bs) : Claims.Inv (pieceWrite s p a bs) := by
  grind -ring -linarith -order [pieceWrite, engineWrite_inv, nbWrite_canon, inv_iff]

theorem spanRead_inv (p fuel) (h : Claims.Inv s) (a n) : Claims.Inv (spanRead p fuel s a n).1 := by
  induction fuel generalizing s a n with
  | zero => exact h
  | succ fuel ih => grind -ring -linarith -order [spanRead, pieceRead_inv]

theorem spanWrite_inv (p fuel) (h : Claims.Inv s) (a bs) : Claims.Inv (spanWrite p fuel s a bs) := by
  induction fuel generalizing s a bs with
  | zero => exact h
  | succ fuel ih => grind -ring -linarith -order [spanWrite, pieceWrite_inv]

theorem putBytes_inv (h : Claims.Inv s) (p a bs) : Claims.Inv (putBytes s p a bs) := by
  grind -ring -linarith -order [putBytes, spanWrite_inv, State.send_inv]

theorem execNopCommand_inv (h : Claims.Inv s) (f q) : NextInv (execNopCommand f q s) := by
  grind -ring -linarith -order [execNopCommand, nextInv_next, runCmd_inv, succeed0_inv]

theorem execQuery_inv (h : Claims.Inv s) (f q) : NextInv (execQuery f q s) := by
  grind -ring -linarith -order [execQuery, nextInv_next, runCmd_inv, succeed_inv]

theorem timeSync_inv (h : Claims.Inv s) (f q mode refuse) {act} (ha : ∀ t o, Claims.Inv t → Claims.Inv (act t o)) :
    NextInv (timeSync f q s mode refuse act) := by
  grind -ring -linarith -order [timeSync, nextInv_next, runCmd_inv, succeed_inv]

theorem execTimeSyncRead_inv (h : Claims.Inv s) (f q) : NextInv (execTimeSyncRead f q s) := by
  grind -ring -linarith -order [execTimeSyncRead, nextInv_next, timeSync_inv]

theorem execTimeSyncStep_inv (h : Claims.Inv s) (f q) : NextInv (execTimeSyncStep f q s) := by
  grind -ring -linarith -order [execTimeSyncStep, nextInv_next, timeSync_inv, inv_iff]

theorem execTimeSyncSlew_inv (h : Claims.Inv s) (f q) : NextInv (execTimeSyncSlew f q s) := by
  grind -ring -linarith -order [execTimeSyncSlew, nextInv_next, timeSync_inv, inv_iff]

theorem offerPlaced_inv (h : Claims.Inv s) (k x) : Claims.Inv (offerPlaced s k x) := by
  grind -ring -linarith -order [offerPlaced, foldl_inv, State.setCluster_inv]

theorem execLaunch_inv (h : Claims.Inv s) (f q) : NextInv (execLaunch f q s) := by
  grind -ring -linarith -order [execLaunch, nextInv_next, runCmd_inv, State.setPart_inv, offerPlaced_inv, State.setCtx_inv, inv_iff]

theorem endXfer_inv (h : Claims.Inv s) (x status) : Claims.Inv (endXfer s x status) := by
  grind -ring -linarith -order [endXfer, completeCmd_inv, State.send_inv, inv_iff]

theorem sendPiece_inv (h : Claims.Inv s) (p a) : Claims.Inv (sendPiece s p a) := by
  grind -ring -linarith -order [sendPiece, State.takeTurn_inv, spendTokens_inv]

theorem xferPiece_inv (h : Claims.Inv s) (x) : Claims.Inv (xferPiece s x).1 := by
  grind -ring -linarith -order [xferPiece, pieceRead_inv, sendPiece_inv, pieceWrite_inv]

theorem runXfer_inv (fuel) (h : Claims.Inv s) (x) : Claims.Inv (runXfer fuel s x) := by
  induction fuel generalizing s x with
  | zero => exact frame_inv h
  | succ fuel ih => grind -ring -linarith -order [runXfer, xferPiece_inv, endXfer_inv, inv_iff]

theorem pumpXfers_inv (h : Claims.Inv s) : Claims.Inv (pumpXfers s) := by
  grind -ring -linarith -order [pumpXfers, foldl_inv, runXfer_inv, inv_iff]

theorem startXfer_inv (h : Claims.Inv s) (r p c src dst n) : Claims.Inv (startXfer s r p c src dst n) := runXfer_inv _ h ..

theorem copyStart_inv (h : Claims.Inv s) (r p c) : Claims.Inv (copyStart s r p c) := by
  grind -ring -linarith -order [copyStart, sendHostRead_inv, startXfer_inv]

theorem dropXfers_inv (h : Claims.Inv s) (rs) : Claims.Inv (dropXfers s rs) := frame_inv h

theorem execCopy_inv (h : Claims.Inv s) (f q) : NextInv (execCopy f q s) := by
  grind -ring -linarith -order [execCopy, nextInv_next, runCmd_inv, copyStart_inv]

theorem execCodeWrite_inv (h : Claims.Inv s) (f q) : NextInv (execCodeWrite f q s) := by
  grind -ring -linarith -order [execCodeWrite, nextInv_next, runCmd_inv, copyStart_inv]

theorem execFill_inv (h : Claims.Inv s) (f q) : NextInv (execFill f q s) := by
  grind -ring -linarith -order [execFill, nextInv_next, runCmd_inv, startXfer_inv]

theorem breakResvs_inv (h : Claims.Inv s) (p) : Claims.Inv (breakResvs s p) := by
  grind -ring -linarith -order [breakResvs, inv_iff, canon_iff]

theorem freezePart_inv (h : Claims.Inv s) (p r) : Claims.Inv (freezePart s p r) := frame_inv h

theorem loseCodebooks_inv (h : Claims.Inv s) (p) : Claims.Inv (loseCodebooks s p) := by
  grind -ring -linarith -order [loseCodebooks, foldl_inv, State.setCluster_inv, inv_iff]

theorem resetPart_inv (h : Claims.Inv s) (p but e) : Claims.Inv (resetPart s p but e) := by
  grind -ring -linarith -order [resetPart, foldl_inv, State.setPart_inv, dropFabric_inv, MemSys.setNbu_canon, dropPartition_inv,
    stopSched_inv, dropEngines_inv, dropXfers_inv, refuseCmd_inv, loseCodebooks_inv, inv_iff, canon_iff, foldl_canon]

/-! #### Machine/Bar4.lean -/

theorem answerUr_inv (h : Claims.Inv s) (f posted) : Claims.Inv (answerUr s f posted) := by
  grind -ring -linarith -order [answerUr, countUr_inv, State.send_inv]

theorem answerData_inv (h : Claims.Inv s) (f bs) : Claims.Inv (answerData s f bs) := frame_inv h

theorem answerPoisoned_inv (h : Claims.Inv s) (f bs) : Claims.Inv (answerPoisoned s f bs) := frame_inv h

theorem countHold_inv (h : Claims.Inv s) (a n) : Claims.Inv (countHold s a n) := by
  grind -ring -linarith -order [countHold, inv_iff]

theorem serveBar4_inv (h : Claims.Inv s) (x) : Claims.Inv (serveBar4 s x) := by
  grind -ring -linarith -order [serveBar4, answerPoisoned_inv, sliceAtomicAt_canon, spendTokens_inv, uncachedWrite_canon, answerData_inv,
    uncachedRead_canon, takeLines_inv, State.send_inv, State.acting_inv, inv_iff]

theorem serveBar4s_inv (xs) (h : Claims.Inv s) : Claims.Inv (serveBar4s xs s) := by
  induction xs generalizing s with
  | nil => exact h
  | cons x xs ih => grind -ring -linarith -order [serveBar4s, serveBar4_inv, countHold_inv, inv_iff]

theorem pumpBar4_inv (h : Claims.Inv s) : Claims.Inv (pumpBar4 s) := serveBar4s_inv _ (frame_inv h)

theorem pumpPorts_inv (h : Claims.Inv s) : Claims.Inv (pumpPorts s) := by
  grind -ring -linarith -order [pumpPorts, pumpEngines_inv, pumpXfers_inv, pumpBar4_inv]

/-! #### Machine/Maint.lean -/

theorem takeTokens_inv (h : Claims.Inv s) (hold) : Claims.Inv (takeTokens s hold) := frame_inv h

theorem flushRange_canon (h : m.Canon) (t a n) : (flushRange m t a n).Canon := by
  grind -ring -linarith -order [flushRange, foldl_canon, evictLine_canon]

theorem discardLine_canon (h : m.Canon) (ln) : (discardLine m ln).Canon := by
  grind -ring -linarith -order [discardLine, foldl_canon, MemSys.setLine_canon, l1Drop_canon]

theorem unanchorRange_canon (h : m.Canon) (p a n) : (unanchorRange m p a n).Canon := ⟨h.dram, h.ecc⟩

theorem clearWay_canon (h : m.Canon) (t ln w) : (clearWay m t ln w).Canon := by
  grind -ring -linarith -order [clearWay, foldl_canon, evictLine_canon]

theorem anchorLine_canon (h : m.Canon) (t p ln) : ∀ m1, anchorLine m t p ln = some m1 → m1.Canon := by
  grind -ring -linarith -order [anchorLine, checkSet_canon, MemSys.setLine_canon, MemSys.tick_canon, sliceFetchSec_canon, clearWay_canon,
    inv_iff, canon_iff, foldl_canon]

theorem anchorLines_canon (t p lns) (h : m.Canon) : (anchorLines t p lns m).1.Canon := by
  induction lns generalizing m with
  | nil => exact h
  | cons ln lns ih => grind -ring -linarith -order [anchorLines, anchorLine_canon]

theorem freeEntry_canon (h : m.Canon) (p e) : (freeEntry m p e).Canon := by
  grind -ring -linarith -order [freeEntry, foldl_canon, discardLine_canon, unanchorRange_canon]

/-! #### Machine/Part.lean -/

theorem setShares_inv (h : Claims.Inv s) (p x) : Claims.Inv (setShares s p x) := by
  grind -ring -linarith -order [setShares, inv_iff, canon_iff]

theorem clearShares_inv (h : Claims.Inv s) (p) : Claims.Inv (clearShares s p) := by
  grind -ring -linarith -order [clearShares, inv_iff, canon_iff]

theorem execPartCreate_inv (h : Claims.Inv s) (f q) : NextInv (execPartCreate f q s) := by
  grind -ring -linarith -order [execPartCreate, nextInv_next, clearShares_inv, runCmd_inv, State.setPart_inv, succeed0_inv, setShares_inv]

theorem execPartShares_inv (h : Claims.Inv s) (f q) : NextInv (execPartShares f q s) := by
  grind -ring -linarith -order [execPartShares, nextInv_next, runCmd_inv, succeed0_inv, setShares_inv]

theorem destroyPart_inv (h : Claims.Inv s) (p) : Claims.Inv (destroyPart s p) := by
  grind -ring -linarith -order [destroyPart, clearShares_inv, freeEntry_canon, State.setPart_inv, inv_iff, canon_iff, foldl_canon]

theorem finishReset_inv (h : Claims.Inv s) (p e) : Claims.Inv (finishReset s p e) := by
  grind -ring -linarith -order [finishReset, State.setPart_inv, succeed0_inv, clearPhase_inv, destroyPart_inv]

theorem settleReplies_inv (h : Claims.Inv s) : Claims.Inv (settleReplies s) := by
  grind -ring -linarith -order [settleReplies, foldl_inv, finishReset_inv, reapCtxs_inv]

theorem endReset_inv (h : Claims.Inv s) (r p destroy) : Claims.Inv (endReset s r p destroy) := settleReplies_inv (resetPart_inv h ..)

theorem execFreeze_inv (h : Claims.Inv s) (f q) : NextInv (execFreeze f q s) := by
  grind -ring -linarith -order [execFreeze, nextInv_next, runCmd_inv, succeed_inv, freezePart_inv]

theorem startReset_inv (h : Claims.Inv s) (r p destroy) : Claims.Inv (startReset s r p destroy) := by
  grind -ring -linarith -order [startReset, endReset_inv, freezePart_inv]

theorem execPartReset_inv (h : Claims.Inv s) (f q) : NextInv (execPartReset f q s) := by
  grind -ring -linarith -order [execPartReset, nextInv_next, startReset_inv, runCmd_inv]

theorem execPartDestroy_inv (h : Claims.Inv s) (f q) : NextInv (execPartDestroy f q s) := by
  grind -ring -linarith -order [execPartDestroy, nextInv_next, startReset_inv, runCmd_inv]

theorem execFreezeDeadline_inv (h : Claims.Inv s) (p) : NextInv (execFreezeDeadline p s) := by
  grind -ring -linarith -order [execFreezeDeadline, nextInv_next, breakResvs_inv, State.setPart_inv, succeed_inv, endReset_inv]

theorem flrStart_inv (h : Claims.Inv s) (v) : Claims.Inv (flrStart s v) := by
  grind -ring -linarith -order [flrStart, foldl_inv, State.setQueue_inv, dropFetch_inv, inv_iff]

theorem flrEnd_inv (h : Claims.Inv s) (v) : Claims.Inv (flrEnd s v) := by
  grind -ring -linarith -order [flrEnd, settleReplies_inv, resetPart_inv, inv_iff]

theorem execFunctionLevelReset_inv (h : Claims.Inv s) (v) : NextInv (execFunctionLevelReset v s) :=
  nextInv_next.2 (inv_ite (flrStart_inv h ..) h)

theorem execHotReset_inv (h : Claims.Inv s) : NextInv (execHotReset s) := by
  grind -ring -linarith -order [execHotReset, nextInv_next, foldl_inv, settleReplies_inv, resetPart_inv, inv_iff]

theorem commitSched_inv (h : Claims.Inv s) (p pm1 rs) : Claims.Inv (commitSched s p pm1 rs) := by
  grind -ring -linarith -order [commitSched, foldl_inv, State.setRouter_inv, State.setPart_inv, mapRegion_inv]

theorem withImage_inv (h : Claims.Inv s) (r p a n) {poisoned k} (hp : ∀ t, Claims.Inv t → Claims.Inv (poisoned t))
    (hk : ∀ t bs, Claims.Inv t → Claims.Inv (k t bs)) :
    Claims.Inv (withImage s r p a n poisoned k) := by
  grind -ring -linarith -order [withImage, spanRead_inv, sendHostRead_inv]

theorem schedImage_inv (h : Claims.Inv s) (r p c bs) : Claims.Inv (schedImage s r p c bs) := by
  grind -ring -linarith -order [schedImage, succeed0_inv, commitSched_inv, completeCmd_inv, refuseCmd_inv]

theorem schedFails_inv (h : Claims.Inv s) (r p status) : Claims.Inv (schedFails s r p status) := refuseCmd_inv h ..

theorem execSchedLoad_inv (h : Claims.Inv s) (f q) : NextInv (execSchedLoad f q s) := by
  grind -ring -linarith -order [execSchedLoad, nextInv_next, runCmd_inv, withImage_inv, schedFails_inv, schedImage_inv]

theorem execSchedStart_inv (h : Claims.Inv s) (f q) : NextInv (execSchedStart f q s) := by
  grind -ring -linarith -order [execSchedStart, nextInv_next, foldl_inv, runCmd_inv, State.setPart_inv, succeed_inv, State.freeNat_inv,
    State.setGath_inv]

theorem execSchedStop_inv (h : Claims.Inv s) (f q) : NextInv (execSchedStop f q s) := by
  grind -ring -linarith -order [execSchedStop, nextInv_next, runCmd_inv, succeed_inv, stopSched_inv]

theorem allocLines_canon (h : Claims.Inv s) (p old new) : (allocLines s p old new).1.Canon := by
  grind -ring -linarith -order [allocLines, foldl_canon, freeEntry_canon, discardLine_canon, anchorLines_canon, inv_iff, canon_iff]

theorem execAllocSet_inv (h : Claims.Inv s) (f q) : NextInv (execAllocSet f q s) := by
  grind -ring -linarith -order [execAllocSet, nextInv_next, runCmd_inv, State.setPart_inv, succeed0_inv, allocLines_canon, inv_iff]

theorem execRegionSet_inv (h : Claims.Inv s) (f q) : NextInv (execRegionSet f q s) := by
  grind -ring -linarith -order [execRegionSet, nextInv_next, runCmd_inv, succeed0_inv, flushRange_canon, inv_iff, canon_iff]

theorem protectRange_canon (h : m.Canon) (a n) : (protectRange m a n).Canon := by
  refine ⟨h.dram, List.foldlRecOn (motive := fun e => NMap.wf 0 e = true) _ _ (NMap.wfFrom_filter 0 _ none _ h.ecc) fun e he k _ => ?_⟩
  split
  · exact he
  · exact NMap.wf_set _ _ _ _ he

theorem execRawSet_inv (h : Claims.Inv s) (f q) : NextInv (execRawSet f q s) := by
  grind -ring -linarith -order [execRawSet, nextInv_next, runCmd_inv, takeTokens_inv, inv_iff, canon_iff]

theorem endRaw_inv (h : Claims.Inv s) : Claims.Inv (endRaw s) := by
  grind -ring -linarith -order [endRaw, succeed0_inv, protectRange_canon, inv_iff, canon_iff]

theorem execAnchorWaysSet_inv (h : Claims.Inv s) (f q) : NextInv (execAnchorWaysSet f q s) := by
  grind -ring -linarith -order [execAnchorWaysSet, nextInv_next, runCmd_inv, succeed0_inv, evictLine_canon, inv_iff, canon_iff, foldl_canon]

theorem execAnchor_inv (h : Claims.Inv s) (f q) : NextInv (execAnchor f q s) := by
  grind -ring -linarith -order [execAnchor, nextInv_next, runCmd_inv, succeed_inv, completeCmd_inv, anchorLines_canon, inv_iff]

theorem execUnanchor_inv (h : Claims.Inv s) (f q) : NextInv (execUnanchor f q s) := by
  grind -ring -linarith -order [execUnanchor, nextInv_next, runCmd_inv, succeed0_inv, unanchorRange_canon, inv_iff]

theorem resetCluster_inv (h : Claims.Inv s) (cl) : Claims.Inv (resetCluster s cl) := by
  grind -ring -linarith -order [resetCluster, State.setCluster_inv, MemSys.setL1_canon, l1Evict_canon, inv_iff, canon_iff, foldl_canon]

theorem movePosition_inv (h : Claims.Inv s) (f home n) : Claims.Inv (movePosition s f home n) := by
  grind -ring -linarith -order [movePosition, State.setGath_inv, resetCluster_inv, State.setFolio_inv]

theorem execRemap_inv (h : Claims.Inv s) (f q) : NextInv (execRemap f q s) := by
  grind -ring -linarith -order [execRemap, nextInv_next, runCmd_inv, State.setPart_inv, mapRegion_inv, takeTokens_inv, succeed_inv,
    movePosition_inv, refuseCmd_inv]

theorem execScrubSet_inv (h : Claims.Inv s) (f q) : NextInv (execScrubSet f q s) := by
  grind -ring -linarith -order [execScrubSet, nextInv_next, runCmd_inv, succeed0_inv, takeTokens_inv, inv_iff, canon_iff]

theorem execStackMargin_inv (h : Claims.Inv s) (f q ms) : NextInv (execStackMargin f q ms s) := by
  grind -ring -linarith -order [execStackMargin, nextInv_next, runCmd_inv, succeed0_inv, takeTokens_inv, inv_iff, canon_iff]

/-! #### Machine/LinkCmd.lean -/

theorem execLinkConfig_inv (h : Claims.Inv s) (f q) : NextInv (execLinkConfig f q s) := by
  grind -ring -linarith -order [execLinkConfig, nextInv_next, runCmd_inv, succeed0_inv, takeTokens_inv, endSession_inv, State.setLink_inv]

theorem execLinkTrain_inv (h : Claims.Inv s) (f q w) : NextInv (execLinkTrain f q w s) := by
  grind -ring -linarith -order [execLinkTrain, nextInv_next, runCmd_inv, takeTokens_inv, endSession_inv, State.setLink_inv]

theorem trainFails_inv (h : Claims.Inv s) (l r cause) : Claims.Inv (trainFails s l r cause) := refuseCmd_inv (frame_inv h) ..

theorem trainDone_inv (h : Claims.Inv s) (l r errs bits) : Claims.Inv (trainDone s l r errs bits) := negotiate_inv (frame_inv h) ..

theorem trainEnds_inv (h : Claims.Inv s) (l r qualify w) : Claims.Inv (trainEnds s l r qualify w) := by
  grind -ring -linarith -order [trainEnds, clockBack_inv, trainDone_inv, State.setLink_inv, trainFails_inv]

theorem qualifyEnds_inv (h : Claims.Inv s) (l r w) : Claims.Inv (qualifyEnds s l r w) := by
  grind -ring -linarith -order [qualifyEnds, trainDone_inv, State.setLink_inv, trainFails_inv]

theorem execLinkDown_inv (h : Claims.Inv s) (f q) : NextInv (execLinkDown f q s) := by
  grind -ring -linarith -order [execLinkDown, nextInv_next, runCmd_inv, succeed0_inv, takeTokens_inv, endSession_inv]

theorem sweepEnds_inv (h : Claims.Inv s) (l r locked lanes) : Claims.Inv (sweepEnds s l r locked lanes) := by
  grind -ring -linarith -order [sweepEnds, succeed0_inv, State.setLink_inv, refuseCmd_inv]

theorem nextLink_inv (h : Claims.Inv s) (l) : Claims.Inv (nextLink s l) := by
  grind -ring -linarith -order [nextLink, qualifyEnds_inv, trainEnds_inv, sweepEnds_inv]

theorem execLinkSweep_inv (h : Claims.Inv s) (f q locked lanes) : NextInv (execLinkSweep f q locked lanes s) := by
  grind -ring -linarith -order [execLinkSweep, nextInv_next, runCmd_inv, takeTokens_inv, endSession_inv, State.setLink_inv]

theorem installKey_inv (h : Claims.Inv s) (id p slot k) : Claims.Inv (installKey s id p slot k) := by
  grind -ring -linarith -order [installKey, foldl_inv, pumpLink_inv, inv_iff]

theorem execKeySet_inv (h : Claims.Inv s) (f q) : NextInv (execKeySet f q s) := by
  grind -ring -linarith -order [execKeySet, nextInv_next, installKey_inv, runCmd_inv, succeed0_inv, freeJob_inv, inv_iff]

theorem pairsRead_inv (h : Claims.Inv s) (k bs) : Claims.Inv (pairsRead s k bs) := by
  grind -ring -linarith -order [pairsRead, endEngine_inv, collStart_inv, State.setEngine_inv, refuseCmd_inv]

theorem pairBytes_inv (h : Claims.Inv s) (p rs host) : Claims.Inv (pairBytes s p rs host).1 := by
  induction rs generalizing s host with
  | nil => exact h
  | cons r rs ih => grind -ring -linarith -order [pairBytes, spanRead_inv]

theorem collectivePairs_inv (h : Claims.Inv s) (k c host) : Claims.Inv (collectivePairs s k c host) := by
  grind -ring -linarith -order [collectivePairs, endEngine_inv, pairBytes_inv, refuseCmd_inv, pairsRead_inv]

theorem execCollective_inv (h : Claims.Inv s) (f q) : NextInv (execCollective f q s) := by
  grind -ring -linarith -order [execCollective, nextInv_next, runCmd_inv, spendTokens_inv, State.setEngine_inv, sendHostRead_inv,
    collectivePairs_inv]

theorem execData_inv (h : Claims.Inv s) (l fr) : NextInv (execData l fr s) := by
  grind -ring -linarith -order [execData, nextInv_next, countErr_inv, rxWindow_inv, collData_inv, ropeRecv_inv]

theorem execStart_inv (h : Claims.Inv s) (l fr) : NextInv (execStart l fr s) := by
  grind -ring -linarith -order [execStart, nextInv_next, countErr_inv, rxWindow_inv, collPeer_inv, State.setLink_inv]

theorem execRopeForm_inv (h : Claims.Inv s) (f q) : NextInv (execRopeForm f q s) := by
  grind -ring -linarith -order [execRopeForm, nextInv_next, runCmd_inv, setRopeBits_inv, ropeSendAll_inv, refuseCmd_inv, inv_iff]

theorem execRopeMirror_inv (h : Claims.Inv s) (f q secondRefuses) : NextInv (execRopeMirror f q secondRefuses s) := by
  grind -ring -linarith -order [execRopeMirror, nextInv_next, runCmd_inv, succeed0_inv, inv_iff, canon_iff]

theorem partOfImage_inv (h : Claims.Inv s) (img p) : Claims.Inv (partOfImage s img p) := by
  grind -ring -linarith -order [partOfImage, State.setPart_inv, setShares_inv]

theorem applyImage_inv (h : Claims.Inv s) (img) : Claims.Inv (applyImage s img) := by
  grind -ring -linarith -order [applyImage, foldl_inv, protectRange_canon, partOfImage_inv, anchorLines_canon, flushRange_canon, inv_iff,
    canon_iff, foldl_canon]

theorem failoverSteps_inv (h : Claims.Inv s) (r) : Claims.Inv (failoverSteps s r) := by
  grind -ring -linarith -order [failoverSteps, foldl_inv, succeed_inv, applyEpoch_inv, finishReset_inv, applyImage_inv, resetPart_inv,
    inv_iff]

theorem execRopeFailover_inv (h : Claims.Inv s) (f q) : NextInv (execRopeFailover f q s) := by
  grind -ring -linarith -order [execRopeFailover, nextInv_next, runCmd_inv, setRopeBits_inv, inv_iff]

theorem endFailover_inv (h : Claims.Inv s) : Claims.Inv (endFailover s) := by
  grind -ring -linarith -order [endFailover, failoverSteps_inv]

theorem execRopeDissolve_inv (h : Claims.Inv s) (f q) : NextInv (execRopeDissolve f q s) := by
  grind -ring -linarith -order [execRopeDissolve, nextInv_next, runCmd_inv, unpair_inv, succeed0_inv, formFails_inv, ropeSendAll_inv]

/-! #### Machine/Halt.lean -/

theorem State.setDom_inv (h : Claims.Inv s) (d x) : Claims.Inv (State.setDom s d x) := frame_inv h

theorem State.setPwr_inv (h : Claims.Inv s) (x) : Claims.Inv (State.setPwr s x) := frame_inv h

theorem domRecord_inv (h : Claims.Inv s) (d) : Claims.Inv (domRecord s d) := submitRec_inv h ..

theorem railRecord_inv (h : Claims.Inv s) (r) : Claims.Inv (railRecord s r) := submitRec_inv h ..

theorem offState_inv (s) : Claims.Inv (offState s) := ⟨rfl, rfl, Nat.zero_le _, Nat.zero_le _, Nat.zero_le _⟩

theorem stopServing_inv (s) : Claims.Inv (stopServing s) := by
  grind -ring -linarith -order [stopServing, offState_inv, State.send_inv, inv_iff]

theorem failedStart_inv (s) (cause) : Claims.Inv (failedStart s cause) := by
  grind -ring -linarith -order [failedStart, submitRec_inv, offState_inv, State.send_inv, inv_iff]

theorem powerFail_inv (s) : Claims.Inv (powerFail s) := by
  grind -ring -linarith -order [powerFail, submitRec_inv, offState_inv, inv_iff]

/-! #### Machine/Power.lean -/

theorem State.setRail_inv (h : Claims.Inv s) (r x) : Claims.Inv (State.setRail s r x) := frame_inv h

theorem report_inv (h : Claims.Inv s) (who d r code) : Claims.Inv (report s who d r code) := frame_inv h

theorem replaceTarget_inv (h : Claims.Inv s) (d) : Claims.Inv (replaceTarget s d) := by
  grind -ring -linarith -order [replaceTarget, report_inv]

theorem startSlew_inv (h : Claims.Inv s) (d code who) : Claims.Inv (startSlew s d code who) := by
  grind -ring -linarith -order [startSlew, replaceTarget_inv, report_inv, State.setDom_inv]

theorem holdTarget_inv (h : Claims.Inv s) (d code who) : Claims.Inv (holdTarget s d code who) :=
  State.setDom_inv (replaceTarget_inv h ..) ..

theorem commandDom_inv (h : Claims.Inv s) (d code who) : Claims.Inv (commandDom s d code who) := by
  grind -ring -linarith -order [commandDom, report_inv, startSlew_inv, holdTarget_inv]

theorem releaseLogic_inv (h : Claims.Inv s) (d) : Claims.Inv (releaseLogic s d) := by
  grind -ring -linarith -order [releaseLogic, State.setDom_inv, startSlew_inv]

theorem domDone_inv (h : Claims.Inv s) (d) : Claims.Inv (domDone s d) := releaseLogic_inv (frame_inv h) ..

theorem domUp_inv (h : Claims.Inv s) (d aborts) : Claims.Inv (domUp s d aborts) := by
  grind -ring -linarith -order [domUp, commandDom_inv, releaseLogic_inv, State.setDom_inv]

theorem commandAll_inv (h : Claims.Inv s) (clk raise who) : Claims.Inv (commandAll s clk raise who) := by
  grind -ring -linarith -order [commandAll, foldl_inv, commandDom_inv]

theorem noteClock_inv (h : Claims.Inv s) (old) : Claims.Inv (noteClock s old) := by
  grind -ring -linarith -order [noteClock, State.observe_inv, State.setPwr_inv, State.send_inv]

theorem replyClock_inv (h : Claims.Inv s) (v) : Claims.Inv (replyClock s v) := by
  grind -ring -linarith -order [replyClock, completeCmd_inv, inv_iff]

theorem clockDone_inv (h : Claims.Inv s) : Claims.Inv (clockDone s) := by
  grind -ring -linarith -order [clockDone, replyClock_inv, inv_iff]

theorem slewPll_inv (h : Claims.Inv s) : Claims.Inv (slewPll s) := by
  grind -ring -linarith -order [slewPll, clockDone_inv, inv_iff]

theorem settleClock_inv (h : Claims.Inv s) : Claims.Inv (settleClock s) := by
  grind -ring -linarith -order [settleClock, clockDone_inv, slewPll_inv]

theorem fallSupplies_inv (h : Claims.Inv s) : Claims.Inv (fallSupplies s) := by
  grind -ring -linarith -order [fallSupplies, commandAll_inv, clockDone_inv, settleClock_inv, inv_iff]

theorem pllStep_inv (h : Claims.Inv s) : Claims.Inv (pllStep s) := by
  grind -ring -linarith -order [pllStep, fallSupplies_inv, clockDone_inv, noteClock_inv, inv_iff]

theorem setTarget_inv (h : Claims.Inv s) {t} (ht : t ≤ s.variant.ceil) (cmd) : Claims.Inv (setTarget s t cmd) := by
  unfold setTarget
  grind -ring -linarith -order [inv_iff, replyClock_inv, replyClock_variant, State.setPwr_inv, settleClock_inv, commandAll_inv,
    fallSupplies_inv, slewPll_inv]

theorem followCeilings_inv (h : Claims.Inv s) : Claims.Inv (followCeilings s) := by
  unfold followCeilings
  split
  · exact State.setPwr_inv h _
  · exact setTarget_inv h (allowedClk_le h) _

theorem applyFast_inv (h : Claims.Inv s) : Claims.Inv (applyFast s) := by
  grind -ring -linarith -order [applyFast, noteClock_inv, inv_iff]

theorem settleAlert_inv (h : Claims.Inv s) : Claims.Inv (settleAlert s) := by
  unfold settleAlert
  split
  · exact followCeilings_inv (applyFast_inv ⟨h.dram, h.ecc, h.applied, h.now, h.target⟩)
  · exact h

theorem settleAll_inv (h : Claims.Inv s) : Claims.Inv (settleAll s) := settleAlert_inv (settleClock_inv h)

theorem execClockSet_inv (h : Claims.Inv s) (f q) : NextInv (execClockSet f q s) := by
  refine runCmd_inv h _ _ _ _ _ fun t r p c ht => ?_
  have ht' : Claims.Inv { t with clk := { t.clk with applied := min (c.arg 8 2) t.variant.ceil } } := by
    grind -ring -linarith -order [inv_iff]
  exact setTarget_inv ht' (allowedClk_le ht') _

theorem execPowerSet_inv (h : Claims.Inv s) (f q) : NextInv (execPowerSet f q s) := by
  grind -ring -linarith -order [execPowerSet, nextInv_next, runCmd_inv, completeCmd_inv, State.setPwr_inv]

theorem execSlewComplete_inv (h : Claims.Inv s) (d) : NextInv (execSlewComplete d s) :=
  nextInv_next.2 (inv_ite (settleAll_inv (domDone_inv h ..)) h)

theorem execVoltageCommand_inv (h : Claims.Inv s) (d code who) : NextInv (execVoltageCommand d code who s) := by
  grind -ring -linarith -order [execVoltageCommand, nextInv_next, replyClock_inv, settleAll_inv, commandDom_inv, inv_iff]

theorem execFastStep_inv (h : Claims.Inv s) (src on) : NextInv (execFastStep src on s) := by
  unfold execFastStep
  grind -ring -linarith -order [nextInv_next, applyFast_inv, inv_iff]

theorem execTimeBaseCorrection_inv (h : Claims.Inv s) : NextInv (execTimeBaseCorrection s) := nextInv_next.2 (inv_ite (frame_inv h) h)

theorem hangAnswer_inv (h : Claims.Inv s) (a) : Claims.Inv (hangAnswer s a) := by
  grind -ring -linarith -order [hangAnswer, groupFault_inv, countUr_inv, refuseCmd_inv, State.send_inv]

theorem execCrossingTimeout_inv (h : Claims.Inv s) (a) : NextInv (execCrossingTimeout a s) := by
  grind -ring -linarith -order [execCrossingTimeout, nextInv_next, hangAnswer_inv, inv_iff]

theorem loseFolio_inv (h : Claims.Inv s) (f) : Claims.Inv (loseFolio s f) := by
  grind -ring -linarith -order [loseFolio, foldl_inv, noteFault_inv, State.setDom_inv, State.setFolio_inv, inv_iff]

theorem failDomain_inv (h : Claims.Inv s) (d cause) : Claims.Inv (failDomain s d cause) := by
  grind -ring -linarith -order [failDomain, settleAll_inv, loseFolio_inv, State.setDom_inv, domRecord_inv, stopServing_inv, failedStart_inv]

theorem execShortDetected_inv (h : Claims.Inv s) (d) : NextInv (execShortDetected d s) := by
  grind -ring -linarith -order [execShortDetected, nextInv_next, failDomain_inv, State.setDom_inv]

theorem execRetryWaitExpiry_inv (h : Claims.Inv s) (d) : NextInv (execRetryWaitExpiry d s) := nextInv_next.2 (inv_ite (frame_inv h) h)

theorem execInServiceShort_inv (h : Claims.Inv s) (d) : NextInv (execInServiceShort d s) := nextInv_next.2 (inv_ite (failDomain_inv h ..) h)

theorem suspectDroop_inv (h : Claims.Inv s) (d ns) : Claims.Inv (suspectDroop s d ns) := by
  grind -ring -linarith -order [suspectDroop, foldl_inv, raiseEvent_inv, State.setDom_inv]

theorem execDroopSample_inv (h : Claims.Inv s) (d readings stuck) : NextInv (execDroopSample d readings stuck s) := by
  grind -ring -linarith -order [execDroopSample, nextInv_next, failDomain_inv, suspectDroop_inv, State.setDom_inv]

theorem bondSensor_inv (h : Claims.Inv s) (d e) : Claims.Inv (bondSensor s d e) := by
  grind -ring -linarith -order [bondSensor, submitRec_inv, raiseEvent_inv, State.setPwr_inv]

theorem execBondWindow_inv (h : Claims.Inv s) (d currentVaries drops) : NextInv (execBondWindow d currentVaries drops s) := by
  grind -ring -linarith -order [execBondWindow, nextInv_next, foldl_inv, bondSensor_inv]

theorem readRail_inv (h : Claims.Inv s) (x) : Claims.Inv (readRail s x) := by
  grind -ring -linarith -order [readRail, State.setRail_inv]

theorem execTelemetryPoll_inv (h : Claims.Inv s) (reads) : NextInv (execTelemetryPoll reads s) := by
  grind -ring -linarith -order [execTelemetryPoll, nextInv_next, foldl_inv, readRail_inv]

theorem railLost_inv (h : Claims.Inv s) (r) : Claims.Inv (railLost s r) := by
  grind -ring -linarith -order [railLost, foldl_inv, powerFail_inv, failLink_inv, stopServing_inv]

theorem faultRail_inv (h : Claims.Inv s) (r) : Claims.Inv (faultRail s r) := railRecord_inv (frame_inv h) ..

theorem execPmbAlertN_inv (h : Claims.Inv s) (r status outputOff) : NextInv (execPmbAlertN r status outputOff s) := by
  grind -ring -linarith -order [execPmbAlertN, nextInv_next, State.setRail_inv, faultRail_inv, railLost_inv, State.send_inv]

theorem execRailLoss_inv (h : Claims.Inv s) (r) : NextInv (execRailLoss r s) :=
  nextInv_next.2 (inv_ite (railLost_inv (faultRail_inv h ..) ..) h)

/-! #### Machine/Belay.lean -/

theorem execPowerMeasurement_inv (h : Claims.Inv s) (ma) : NextInv (execPowerMeasurement ma s) := by
  unfold execPowerMeasurement
  split
  · exact nextInv_next.2 h
  · exact nextInv_next.2 (State.setPwr_inv h _)

theorem takeSamples_inv (h : Claims.Inv s) (split) : Claims.Inv (takeSamples s split) := by
  grind -ring -linarith -order [takeSamples, foldl_inv, State.setPwr_inv]

theorem setLevels_inv (h : Claims.Inv s) (levels) : Claims.Inv (setLevels s levels) := frame_inv h

theorem setUnmet_inv (h : Claims.Inv s) (v) : Claims.Inv (setUnmet s v) := by
  grind -ring -linarith -order [setUnmet, State.setPwr_inv, State.send_inv]

theorem unmetNow_inv (h : Claims.Inv s) : Claims.Inv (unmetNow s) := by
  grind -ring -linarith -order [unmetNow, setLevels_inv, followCeilings_inv, State.setPwr_inv, setUnmet_inv]

theorem execSustainedUpdate_inv (h : Claims.Inv s) (m) : NextInv (execSustainedUpdate m s) := by
  have hf : ∀ {t : State} (x y c), Claims.Inv t → Claims.Inv { (t.setPwr x).setPwr y with freeCtr := c } := fun _ _ _ ht => frame_inv ht
  unfold execSustainedUpdate
  refine nextInv_ite (nextInv_next.2 h) (nextInv_ite (nextInv_next.2 (unmetNow_inv ?_))
    (nextInv_ite (nextInv_next.2 (setUnmet_inv ?_ _)) (nextInv_next.2 ?_)))
  all_goals exact hf _ _ _ (takeSamples_inv (State.setPwr_inv h _) m)

theorem execHoldLevelStep_inv (h : Claims.Inv s) (measured) : NextInv (execHoldLevelStep measured s) :=
  nextInv_ite (nextInv_next.2 h) (nextInv_next.2 (frame_inv h))

theorem execFastLimiterStep_inv (h : Claims.Inv s) : NextInv (execFastLimiterStep s) :=
  nextInv_ite (nextInv_next.2 h) (nextInv_next.2 (frame_inv h))

theorem execPowerCeilingLower_inv (h : Claims.Inv s) : NextInv (execPowerCeilingLower s) := by
  grind -ring -linarith -order [execPowerCeilingLower, nextInv_next, followCeilings_inv, State.setPwr_inv]

theorem execPowerCeilingRaise_inv (h : Claims.Inv s) : NextInv (execPowerCeilingRaise s) := by
  grind -ring -linarith -order [execPowerCeilingRaise, nextInv_next, followCeilings_inv, State.setPwr_inv]

theorem regAlert_inv (h : Claims.Inv s) : Claims.Inv (regAlert s) := by
  grind -ring -linarith -order [regAlert, setLevels_inv, commandAll_inv, clockDone_inv, slewPll_inv, applyFast_inv, State.setPwr_inv,
    inv_iff]

theorem execRegAlertN_inv (h : Claims.Inv s) (ns) : NextInv (execRegAlertN ns s) := by
  grind -ring -linarith -order [execRegAlertN, nextInv_next, regAlert_inv, State.freeBool_inv]

theorem execRegAlertRelease_inv (h : Claims.Inv s) : NextInv (execRegAlertRelease s) := by
  grind -ring -linarith -order [execRegAlertRelease, nextInv_next, commandAll_inv, settleAlert_inv, State.setPwr_inv]

/-! #### Machine/Doorbell.lean -/

theorem execQueueOpen_inv (h : Claims.Inv s) (f q ctrl) : NextInv (execQueueOpen f q ctrl s) := by
  grind -ring -linarith -order [execQueueOpen, nextInv_next, writeCtrl_inv, postedOutside_inv]

theorem execQueueClose_inv (h : Claims.Inv s) (f q) : NextInv (execQueueClose f q s) := by
  grind -ring -linarith -order [execQueueClose, nextInv_next, settleReplies_inv, closeQueue_inv, postedOutside_inv]

theorem execStatusReply_inv (h : Claims.Inv s) (f q) : NextInv (execStatusReply f q s) :=
  nextInv_next.2 (settleReplies_inv (writeReply_inv h ..))

theorem execContextCompletion_inv (h : Claims.Inv s) (p k) : NextInv (execContextCompletion p k s) := by
  grind -ring -linarith -order [execContextCompletion, nextInv_next, finishCtx_inv, writeReply_inv, settleReplies_inv]

theorem execSqTail_inv (h : Claims.Inv s) (f q val) : NextInv (execSqTail f q val s) := by
  grind -ring -linarith -order [execSqTail, nextInv_next, State.setQueue_inv, settleReplies_inv, queueError_inv, postedOutside_inv]

theorem execCqHead_inv (h : Claims.Inv s) (f q val) : NextInv (execCqHead f q val s) := by
  grind -ring -linarith -order [execCqHead, nextInv_next, State.setQueue_inv, settleReplies_inv, queueError_inv, postedOutside_inv]

theorem execCommandFetch_inv (h : Claims.Inv s) (r) : NextInv (execCommandFetch r s) := by
  unfold execCommandFetch
  grind -ring -linarith -order [nextInv_next, sendHostRead_inv, State.setQueue_inv, settleReplies_inv, entryAnswer_inv, State.send_inv,
    inv_iff]

/-! #### Machine/Thermal.lean -/

theorem State.setThm_inv (h : Claims.Inv s) (x) : Claims.Inv (State.setThm s x) := frame_inv h

theorem State.setSensor_inv (h : Claims.Inv s) (n x) : Claims.Inv (State.setSensor s n x) := frame_inv h

theorem trip_inv (h : Claims.Inv s) (source sensor value) : Claims.Inv (trip s source sensor value) := by
  grind -ring -linarith -order [trip, submitRec_inv, State.setThm_inv, offState_inv, State.send_inv, inv_iff]

theorem markSensor_inv (h : Claims.Inv s) (n cause) : Claims.Inv (markSensor s n cause) := by
  grind -ring -linarith -order [markSensor, raiseEvent_inv, State.setSensor_inv]

theorem takeReading_inv (h : Claims.Inv s) (n v) : Claims.Inv (takeReading s n v) := by
  grind -ring -linarith -order [takeReading, State.setSensor_inv, markSensor_inv]

theorem crossCheck_inv (h : Claims.Inv s) (halfMw n) : Claims.Inv (crossCheck halfMw s n) := by
  grind -ring -linarith -order [crossCheck, State.setSensor_inv, markSensor_inv]

theorem updateBand_inv (h : Claims.Inv s) (k) : Claims.Inv (updateBand s k) := frame_inv h

theorem thermalActions_inv (h : Claims.Inv s) (before) : Claims.Inv (thermalActions s before) := by
  grind -ring -linarith -order [thermalActions, State.setThm_inv, followCeilings_inv, applyFast_inv, State.setPwr_inv, trip_inv, inv_iff]

theorem execThermalSample_inv (h : Claims.Inv s) (rs st p) : NextInv (execThermalSample rs st p s) := by
  have hf : ∀ {t : State} (x c), Claims.Inv t → Claims.Inv { t.setThm x with freeCtr := c } := fun _ _ ht => frame_inv ht
  unfold execThermalSample
  refine nextInv_ite (nextInv_next.2 h) ?_
  extract_lets s1 s2
  have h2 : Claims.Inv s2 := foldl_inv (fun _ _ ht => markSensor_inv ht ..) (foldl_inv (fun _ _ ht => takeReading_inv ht ..) h _) _
  clear_value s2
  split
  extract_lets s3 s4 before
  have h4 : Claims.Inv s4 := foldl_inv (fun _ _ ht => crossCheck_inv ht _ _) (foldl_inv (fun _ _ ht => State.setSensor_inv ht ..) h2 _) _
  clear_value s4 before
  split
  exact nextInv_next.2 (thermalActions_inv (foldl_inv (fun _ _ ht => updateBand_inv ht _) (hf _ _ h4) _) _)

theorem execThermalCeilingLower_inv (h : Claims.Inv s) : NextInv (execThermalCeilingLower s) := by
  grind -ring -linarith -order [execThermalCeilingLower, nextInv_next, followCeilings_inv, State.setPwr_inv]

theorem execThermalCeilingRaise_inv (h : Claims.Inv s) : NextInv (execThermalCeilingRaise s) := by
  grind -ring -linarith -order [execThermalCeilingRaise, nextInv_next, followCeilings_inv, State.setPwr_inv]

theorem execTripDiodeSample_inv (h : Claims.Inv s) (readings) : NextInv (execTripDiodeSample readings s) := by
  grind -ring -linarith -order [execTripDiodeSample, nextInv_next, State.setThm_inv, trip_inv]

theorem execTemperatureReadout_inv (h : Claims.Inv s) (stack temp) : NextInv (execTemperatureReadout stack temp s) := by
  grind -ring -linarith -order [execTemperatureReadout, nextInv_next, takeReading_inv, State.setSensor_inv, trip_inv, inv_iff, canon_iff]

/-! #### Machine/Start.lean -/

theorem State.setRst_inv (h : Claims.Inv s) (r) : Claims.Inv (State.setRst s r) := frame_inv h

theorem powerOn_inv (h : Claims.Inv s) : Claims.Inv (powerOn s) := ⟨h.dram, h.ecc, h.applied, h.now, h.target⟩

theorem execPowerOn_inv (h : Claims.Inv s) : NextInv (execPowerOn s) := nextInv_next.2 (inv_ite h (powerOn_inv h))

theorem clearForStart_inv (s) : Claims.Inv (clearForStart s) := by
  grind -ring -linarith -order [clearForStart, offState_inv, inv_iff]

theorem beginStart_inv (h : Claims.Inv s) : Claims.Inv (beginStart s) := frame_inv h

theorem execColdStart_inv (h : Claims.Inv s) : NextInv (execColdStart s) := by
  grind -ring -linarith -order [execColdStart, nextInv_next, beginStart_inv, State.setRst_inv, failedStart_inv]

theorem rstAct_inv (s) : Claims.Inv (rstAct s) := State.setRst_inv (clearForStart_inv _) ..

theorem execRstN_inv (h : Claims.Inv s) (ns high) : NextInv (execRstN ns high s) := by
  grind -ring -linarith -order [execRstN, nextInv_next, rstAct_inv, State.setRst_inv, State.freeBool_inv, inv_iff]

theorem softStart_inv (h : Claims.Inv s) (d) : Claims.Inv (softStart s d) := frame_inv h

theorem nextStep_inv (h : Claims.Inv s) : Claims.Inv (nextStep s) := State.setRst_inv h ..

theorem endSoftStart_inv (h : Claims.Inv s) (r ds) : Claims.Inv (endSoftStart s r ds) := by
  grind -ring -linarith -order [endSoftStart, foldl_inv, loseFolio_inv, State.setDom_inv, domUp_inv]

theorem outFolio_inv (h : Claims.Inv s) (f cause) : Claims.Inv (outFolio s f cause) := by
  grind -ring -linarith -order [outFolio, State.setFolio_inv]

theorem deadPosition_inv (h : Claims.Inv s) (f home) : Claims.Inv (deadPosition s f home) := frame_inv h

theorem repairPosition_inv (bad f home fuel) (h : Claims.Inv s) (n) : Claims.Inv (repairPosition bad f home fuel s n).1 := by
  induction fuel generalizing s n with
  | zero => exact deadPosition_inv h ..
  | succ fuel ih => grind -ring -linarith -order [repairPosition, deadPosition_inv, movePosition_inv]

theorem breakV_inv (h : Claims.Inv s) (f idx) : Claims.Inv (breakV s f idx) := frame_inv h

theorem killSpare_inv (h : Claims.Inv s) (f idx) : Claims.Inv (killSpare s f idx) := by
  grind -ring -linarith -order [killSpare, State.setGath_inv]

theorem killPair_inv (h : Claims.Inv s) (f idx) : Claims.Inv (killPair f s idx) := by
  grind -ring -linarith -order [killPair, repairPosition_inv]

theorem loadFuseMap_inv (h : Claims.Inv s) : Claims.Inv (loadFuseMap s) := by
  grind -ring -linarith -order [loadFuseMap, foldl_inv, movePosition_inv]

theorem trainFolio_inv (h : Claims.Inv s) (bs f) : Claims.Inv (trainFolio bs s f) := by
  grind -ring -linarith -order [trainFolio, foldl_inv, killPair_inv, killSpare_inv, breakV_inv, State.setFolio_inv, outFolio_inv]

theorem startLink_inv (h : Claims.Inv s) (r l) : Claims.Inv (startLink r s l) := frame_inv h

theorem startClocks_inv (h : Claims.Inv s) : Claims.Inv (startClocks s) := by
  grind -ring -linarith -order [startClocks, inv_iff]

theorem becomeReady_inv (h : Claims.Inv s) : Claims.Inv (becomeReady s) := submitRec_inv (frame_inv h) ..

theorem retireFailed_inv (h : Claims.Inv s) (r) : Claims.Inv (retireFailed s r) := by
  grind -ring -linarith -order [retireFailed, State.setRst_inv, repairPosition_inv, inv_iff, canon_iff, foldl_fst_inv]

theorem finishStep_inv (h : Claims.Inv s) (r) : Claims.Inv (finishStep s r) := by
  have hsoft : ∀ {t : State} (l : List Nat), Claims.Inv t → Claims.Inv (l.foldl softStart t) :=
    fun l ht => foldl_inv (fun _ _ hu => softStart_inv hu _) ht l
  unfold finishStep
  split
  · exact inv_ite (failedStart_inv _ _) (inv_ite h (hsoft _ (nextStep_inv h)))
  · have he := endSoftStart_inv h r [8, 9]
    exact inv_ite h (inv_ite (failedStart_inv _ _) (hsoft _ (nextStep_inv (startClocks_inv he))))
  · have he := endSoftStart_inv h r (List.range 8)
    exact inv_ite h (inv_ite (failedStart_inv _ _) (nextStep_inv he))
  · have ht := foldl_inv (fun _ f hu => trainFolio_inv hu (testedGroups r.bondFaults) f) (loadFuseMap_inv h) [0, 1]
    exact inv_ite (failedStart_inv _ _) (nextStep_inv ht)
  · refine inv_ite (failedStart_inv _ _) (inv_ite (failedStart_inv _ _) (nextStep_inv (retireFailed_inv ?_ _)))
    exact ⟨rfl, rfl, h.applied, h.now, h.target⟩
  · refine inv_ite (failedStart_inv _ _) (inv_ite (failedStart_inv _ _) (nextStep_inv ?_))
    exact frame_inv (retireFailed_inv (State.setRst_inv h _) r)
  · exact nextStep_inv (State.setRst_inv (foldl_inv (fun _ l hu => startLink_inv hu r l) h _) _)
  · exact becomeReady_inv (State.setRst_inv h _)
  · exact h

theorem execColdStartStepComplete_inv (h : Claims.Inv s) (r) : NextInv (execColdStartStepComplete r s) :=
  nextInv_next.2 (inv_ite (finishStep_inv h ..) h)

theorem execStepDeadline_inv (h : Claims.Inv s) : NextInv (execStepDeadline s) := nextInv_next.2 (inv_ite (failedStart_inv _ ..) h)

theorem enterAgain_inv (s) (entry) : Claims.Inv (enterAgain s entry) := by
  grind -ring -linarith -order [enterAgain, beginStart_inv, clearForStart_inv, State.setRst_inv]

theorem enterBaseCamp_inv (h : Claims.Inv s) : Claims.Inv (enterBaseCamp s) := by
  grind -ring -linarith -order [enterBaseCamp, State.setRst_inv, State.setDom_inv]

theorem execFailedStartRetry_inv (h : Claims.Inv s) : NextInv (execFailedStartRetry s) := by
  grind -ring -linarith -order [execFailedStartRetry, nextInv_next, enterAgain_inv, enterBaseCamp_inv]

theorem armExit_inv (h : Claims.Inv s) : Claims.Inv (armExit s) := frame_inv h

theorem execExitBaseCamp_inv (h : Claims.Inv s) : NextInv (execExitBaseCamp s) := nextInv_next.2 (inv_ite (frame_inv h) h)

theorem execBaseCampExit_inv (h : Claims.Inv s) : NextInv (execBaseCampExit s) := by
  grind -ring -linarith -order [execBaseCampExit, nextInv_next, clearForStart_inv, State.setRst_inv, enterAgain_inv]

theorem execTripRestart_inv (h : Claims.Inv s) : NextInv (execTripRestart s) := by
  grind -ring -linarith -order [execTripRestart, nextInv_next, State.setThm_inv, clearForStart_inv, State.setRst_inv, enterBaseCamp_inv]

theorem execPldmFirmwareUpdate_inv (h : Claims.Inv s) (c img) : NextInv (execPldmFirmwareUpdate c img s) :=
  nextInv_ite (nextInv_next.2 h) (nextInv_next.2 (frame_inv h))

theorem endSwitch_inv (h : Claims.Inv s) (old ok) : Claims.Inv (endSwitch s old ok) := submitRec_inv (frame_inv h) ..

theorem execActivateFirmware_inv (h : Claims.Inv s) (c alive) : NextInv (execActivateFirmware c alive s) := by
  grind -ring -linarith -order [execActivateFirmware, nextInv_next, takeTokens_inv, endSwitch_inv, State.setRst_inv, armExit_inv,
    State.send_inv, inv_iff]

theorem execMgtAliveTimeout_inv (h : Claims.Inv s) : NextInv (execMgtAliveTimeout s) := by
  grind -ring -linarith -order [execMgtAliveTimeout, nextInv_next, endSwitch_inv, State.setRst_inv]

theorem execPwrFailN_inv (h : Claims.Inv s) (ns) : NextInv (execPwrFailN ns s) := by
  grind -ring -linarith -order [execPwrFailN, nextInv_next, powerFail_inv, State.freeBool_inv]

theorem execPowerFailRestart_inv (h : Claims.Inv s) : NextInv (execPowerFailRestart s) := by
  grind -ring -linarith -order [execPowerFailRestart, nextInv_next, State.setRst_inv]

theorem execRefclkLoss_inv (h : Claims.Inv s) (ns) : NextInv (execRefclkLoss ns s) := nextInv_next.2 (inv_ite (powerFail_inv _) h)

theorem execVddAuxLoss_inv (s) : NextInv (execVddAuxLoss s) := nextInv_next.2 ⟨rfl, rfl, Nat.zero_le _, Nat.zero_le _, Nat.zero_le _⟩

theorem execColophonCommit_inv (h : Claims.Inv s) : NextInv (execColophonCommit s) := by
  grind -ring -linarith -order [execColophonCommit, nextInv_next, inv_iff]

theorem execColophonEraseDone_inv (h : Claims.Inv s) : NextInv (execColophonEraseDone s) := by
  grind -ring -linarith -order [execColophonEraseDone, nextInv_next, inv_iff]

/-! #### Machine/Trace.lean -/

theorem freeTrace_canon (h : m.Canon) : (freeTrace m).Canon := by
  grind -ring -linarith -order [freeTrace, foldl_canon, discardLine_canon]

theorem anchorTrace_canon (h : m.Canon) (t w size) : (anchorTrace m t w size).Canon := by
  grind -ring -linarith -order [anchorTrace, foldl_canon, MemSys.setLine_canon, MemSys.tick_canon, clearWay_canon, discardLine_canon]

theorem obsTrace_inv (h : Claims.Inv s) (i) : Claims.Inv (obsTrace s i) := by
  grind -ring -linarith -order [obsTrace, freeTrace_canon, anchorTrace_canon, inv_iff, canon_iff]

theorem refuseBusy_inv (h : Claims.Inv s) (r) : Claims.Inv (refuseBusy s r) := refuseCmd_inv (frame_inv h) ..

theorem obsImageRead_inv (h : Claims.Inv s) (r bs) : Claims.Inv (obsImageRead s r bs) := by
  grind -ring -linarith -order [obsImageRead, refuseBusy_inv, refuseCmd_inv, inv_iff]

theorem obsFails_inv (h : Claims.Inv s) (r status) : Claims.Inv (obsFails s r status) := by
  grind -ring -linarith -order [obsFails, refuseBusy_inv, refuseCmd_inv]

theorem execObsConfig_inv (h : Claims.Inv s) (f q) : NextInv (execObsConfig f q s) := by
  grind -ring -linarith -order [execObsConfig, nextInv_next, runCmd_inv, takeTokens_inv, withImage_inv, obsImageRead_inv, obsFails_inv]

theorem execCounterAggregation_inv (h : Claims.Inv s) : NextInv (execCounterAggregation s) := by
  grind -ring -linarith -order [execCounterAggregation, nextInv_next, succeed0_inv, obsTrace_inv, inv_iff, canon_iff]

theorem writeTrace_inv (h : Claims.Inv s) (e) : Claims.Inv (writeTrace s e) := by
  grind -ring -linarith -order [writeTrace, sliceWrite_canon, inv_iff, canon_iff]

theorem execTraceRecord_inv (h : Claims.Inv s) : NextInv (execTraceRecord s) := by
  grind -ring -linarith -order [execTraceRecord, nextInv_next, State.freeNat_inv, writeTrace_inv]

theorem flashBlock_inv (h : Claims.Inv s) (b) : Claims.Inv (flashBlock s b).1 := by
  grind -ring -linarith -order [flashBlock, State.freeNat_inv]

theorem execClpRead_inv (h : Claims.Inv s) (f q) : NextInv (execClpRead f q s) := by
  grind -ring -linarith -order [execClpRead, nextInv_next, runCmd_inv, putBytes_inv, flashBlock_inv, succeed_inv]

theorem scanData_inv (h : Claims.Inv s) (lands tdi) : Claims.Inv (scanData s lands tdi) := by
  grind -ring -linarith -order [scanData, State.send_inv, inv_iff]

theorem execTapInstruction_inv (h : Claims.Inv s) (x) : NextInv (execTapInstruction x s) := by
  grind -ring -linarith -order [execTapInstruction, nextInv_next, State.setRst_inv, scanData_inv, State.send_inv, inv_iff]

/-! #### Machine/FaultEvt.lean -/

theorem faultCtx_inv (h : Claims.Inv s) (p n) : Claims.Inv (faultCtx s p n).1 := by
  grind -ring -linarith -order [faultCtx, State.freeNat_inv]

theorem recordFault_inv (h : Claims.Inv s) (p n w) : Claims.Inv (recordFault s p n w) := by
  grind -ring -linarith -order [recordFault, submitRec_inv, inv_iff]

theorem faultReplies_inv (h : Claims.Inv s) (p cls who w0 stamp) : Claims.Inv (faultReplies s p cls who w0 stamp) := by
  grind -ring -linarith -order [faultReplies, foldl_inv, State.setPart_inv, finishCtx_inv, completeCmd_inv, dropXfers_inv, inv_iff]

theorem writeRecord_inv (h : Claims.Inv s) (p n w) : Claims.Inv (writeRecord s p n w) :=
  recordFault_inv (frame_inv (State.observe_inv h ..)) ..

theorem execFaultEvent_inv (h : Claims.Inv s) (p) : NextInv (execFaultEvent p s) := by
  grind -ring -linarith -order [execFaultEvent, nextInv_next, dropFabric_inv, dropPartition_inv, settleReplies_inv, faultCtx_inv,
    faultReplies_inv, stopSched_inv, dropEngines_inv, writeRecord_inv]

theorem readFault_inv (h : Claims.Inv s) (g pc lanes addr) : Claims.Inv (readFault s g pc lanes addr) := by
  grind -ring -linarith -order [readFault, noteFault_inv]

theorem hostMerge_inv (h : Claims.Inv s) (cl f ws done bs) : Claims.Inv (hostMerge s cl f ws done bs) := by
  grind -ring -linarith -order [hostMerge, foldl_inv, State.send_inv, inv_iff]

theorem commandData_inv (h : Claims.Inv s) (r bs) : Claims.Inv (commandData s r bs) := by
  grind -ring -linarith -order [commandData, collProgress_inv, obsImageRead_inv, State.setEngine_inv, schedImage_inv, collectivePairs_inv,
    startXfer_inv]

theorem commandFails_inv (h : Claims.Inv s) (r) : Claims.Inv (commandFails s r) := by
  grind -ring -linarith -order [commandFails, State.setEngine_inv, schedFails_inv, refuseCmd_inv, obsFails_inv]

theorem hostData_inv (h : Claims.Inv s) (rd bs) : Claims.Inv (hostData s rd bs) := by
  grind -ring -linarith -order [hostData, State.setGroup_inv, commandData_inv, entryAnswer_inv, tdProgress_inv, settleReplies_inv,
    setLane_inv, tdHostData_inv, hostMerge_inv]

theorem hostFails_inv (h : Claims.Inv s) (rd off) : Claims.Inv (hostFails s rd off) := by
  grind -ring -linarith -order [hostFails, commandFails_inv, settleReplies_inv, ownerFault_inv, queueError_inv, State.setEngine_inv,
    readFault_inv]

theorem hostAnswer_inv (h : Claims.Inv s) (id r) : Claims.Inv (hostAnswer s id r) := by
  grind -ring -linarith -order [hostAnswer, hostFails_inv, countReadErr_inv, hostData_inv, inv_iff]

theorem execHostWindowCompletion_inv (h : Claims.Inv s) (id r) : NextInv (execHostWindowCompletion id r s) := by
  cases r <;> grind -ring -linarith -order [execHostWindowCompletion, nextInv_next, hostAnswer_inv]

theorem execCompletionTimeout_inv (h : Claims.Inv s) (id) : NextInv (execCompletionTimeout id s) := by
  grind -ring -linarith -order [execCompletionTimeout, nextInv_next, hostAnswer_inv]

/-! #### Machine/Regs.lean -/

theorem regClear_inv (h : Claims.Inv s) (r z) : Claims.Inv (regClear s r z) := by
  cases r <;> grind -ring -linarith -order [regClear, inv_iff, canon_iff, State.setRouter_inv, State.setLink_inv, State.setDom_inv]

theorem clearCovered_inv (h : Claims.Inv s) (r w b n) : Claims.Inv (clearCovered s r w b n) := regClear_inv h ..

theorem writeQcfg_inv (h : Claims.Inv s) (f q w v mask) : Claims.Inv (writeQcfg s f q w v mask) := by
  unfold writeQcfg
  grind -ring -linarith -order [State.setQueue_inv, writeCtrl_inv]

theorem regWrite_inv (h : Claims.Inv s) (r w v mask) : Claims.Inv (regWrite s r w v mask) := by
  cases r <;> grind -ring -linarith -order [regWrite, inv_iff, canon_iff, writeQcfg_inv, State.setPart_inv, State.setDom_inv,
    State.setRst_inv, State.setRouter_inv]

/-! #### Machine/Spine.lean -/

theorem execSpineFrameStart_inv (h : Claims.Inv s) : NextInv (execSpineFrameStart s) := by
  unfold execSpineFrameStart
  split
  · exact nextInv_next.2 h
  · split
    · exact nextInv_next.2 h
    next t e => exact nextInv_next.2 (pumpPorts_inv (frame_inv (State.reach_inv h _ _ _ e)))

theorem leavePort_inv (h : Claims.Inv s) (slice cycle r) : Claims.Inv (leavePort slice cycle s r) := by
  grind -ring -linarith -order [leavePort, State.observe_inv, spendTokens_inv, State.setSliceQ_inv]

theorem sliceAdmits_inv (h : Claims.Inv s) (slice cycle arrived) : Claims.Inv (sliceAdmits slice cycle arrived s) := by
  grind -ring -linarith -order [sliceAdmits, foldl_inv, leavePort_inv, State.setSliceQ_inv]

theorem chanAdmits_inv (h : Claims.Inv s) (c cycle arrived) : Claims.Inv (chanAdmits c cycle arrived s) := frame_inv h

theorem execSliceAdmission_inv (h : Claims.Inv s) (k cycle arrived) : NextInv (execSliceAdmission k cycle arrived s) := by
  grind -ring -linarith -order [execSliceAdmission, nextInv_next, sliceAdmits_inv, State.toCycle_inv, chanAdmits_inv]

theorem fillSec_canon (h : m.Canon) (t cl ln i) : (fillSec t cl ln m i).Canon := by
  grind -ring -linarith -order [fillSec, sliceRead_canon, MemSys.setL1Line_canon]

theorem finishRd_canon (h : m.Canon) (t cl ln secs) : (finishRd m t cl ln secs).Canon := by
  grind -ring -linarith -order [finishRd, foldl_canon, MemSys.setLine_canon, MemSys.tick_canon, fillSec_canon, dramRead_canon, l1Room_canon]

theorem placeCarried_canon (h : m.Canon) (cl ln ps) : (placeCarried m cl ln ps).Canon := by
  induction ps generalizing m with
  | nil => exact h
  | cons p ps ih => exact ih (MemSys.setL1Line_canon h ..)

theorem writeCarried_canon (h : m.Canon) (t mask ln ps) : (writeCarried m t mask ln ps).Canon := by
  grind -ring -linarith -order [writeCarried, foldl_canon, uncachedWriteSec_canon]

theorem finishOwn_canon (h : m.Canon) (t mask cl ln perform ps) : (finishOwn m t mask cl ln perform ps).Canon := by
  grind -ring -linarith -order [finishOwn, MemSys.setLine_canon, MemSys.tick_canon, MemSys.markDirty_canon, placeCarried_canon,
    writeCarried_canon, l1Room_canon]

theorem startReq_canon (s ln) (h : m.Canon) (q) : (startReq s ln m q).Canon := by
  cases q <;> grind -ring -linarith -order [startReq, canon_iff, foldl_canon, MemSys.setLine_canon, MemSys.setL1_canon, mergeCarried_canon,
    finishRd_canon, ensureLine_canon, sliceRead_canon, writeCarried_canon, MemSys.observe_canon, finishOwn_canon]

theorem serveLine_inv (ln fuel) (h : Claims.Inv s) : Claims.Inv (serveLine ln fuel s) := by
  induction fuel generalizing s with
  | zero => exact h
  | succ fuel ih => grind -ring -linarith -order [serveLine, startReq_canon, State.popFor_inv, inv_iff]

theorem takeReq_inv (h : Claims.Inv s) (cl ln r) : Claims.Inv (takeReq s cl ln r) := by
  grind -ring -linarith -order [takeReq, startReq_canon, serveLine_inv, State.setSliceQ_inv, inv_iff]

theorem execRd_inv (h : Claims.Inv s) (cl line secs) : NextInv (execRd cl line secs s) :=
  nextInv_ite (nextInv_next.2 h) (nextInv_next.2 (takeReq_inv (State.acting_inv h ..) ..))

theorem execOwn_inv (h : Claims.Inv s) (cl line carried) : NextInv (execOwn cl line carried s) := by
  grind -ring -linarith -order [execOwn, nextInv_next, takeReq_inv, State.acting_inv, inv_iff]

theorem execEvc_inv (h : Claims.Inv s) (cl line) : NextInv (execEvc cl line s) := by
  grind -ring -linarith -order [execEvc, nextInv_next, takeReq_inv, MemSys.setL1_canon, State.acting_inv, inv_iff]

theorem execWb_inv (h : Claims.Inv s) (cl line) : NextInv (execWb cl line s) := by
  grind -ring -linarith -order [execWb, nextInv_next, takeReq_inv, MemSys.setL1_canon, State.acting_inv, inv_iff]

theorem answerSnoop_inv (h : Claims.Inv s) (cl line k) : Claims.Inv (answerSnoop s cl line k) := by
  grind -ring -linarith -order [answerSnoop, l1Drop_canon, MemSys.setL1Line_canon, inv_iff, canon_iff]

theorem execInv_inv (h : Claims.Inv s) (cl line) : NextInv (execInv cl line s) := nextInv_next.2 (answerSnoop_inv h ..)

theorem execRcl_inv (h : Claims.Inv s) (cl line) : NextInv (execRcl cl line s) := nextInv_next.2 (answerSnoop_inv h ..)

theorem execRcli_inv (h : Claims.Inv s) (cl line) : NextInv (execRcli cl line s) := nextInv_next.2 (answerSnoop_inv h ..)

theorem finishTxn_inv (h : Claims.Inv s) {m} (hm : m.Canon) (x) : Claims.Inv (finishTxn s m x) := by
  unfold finishTxn
  refine serveLine_inv _ _ (inv_setMem h ?_)
  grind -ring -linarith -order [canon_iff, MemSys.setLine_canon, finishRd_canon, finishOwn_canon]

theorem execInvalidationAcknowledgement_inv (h : Claims.Inv s) (line cl) : NextInv (execInvalidationAcknowledgement line cl s) := by
  grind -ring -linarith -order [execInvalidationAcknowledgement, nextInv_next, finishTxn_inv, mergeCarried_canon, pumpPorts_inv, inv_iff,
    canon_iff, foldl_canon]

theorem execSliceAtomic_inv (h : Claims.Inv s) (addr op) : NextInv (execSliceAtomic addr op s) := by
  grind -ring -linarith -order [execSliceAtomic, nextInv_next, sliceAtomicAt_canon, countHold_inv, takeLines_inv, State.acting_inv, inv_iff]

theorem execUncachedRead_inv (h : Claims.Inv s) (addr len) : NextInv (execUncachedRead addr len s) := by
  grind -ring -linarith -order [execUncachedRead, nextInv_next, uncachedRead_canon, takeLines_inv, State.acting_inv, inv_iff]

theorem execUncachedWrite_inv (h : Claims.Inv s) (addr data) : NextInv (execUncachedWrite addr data s) := by
  grind -ring -linarith -order [execUncachedWrite, nextInv_next, uncachedWrite_canon, countHold_inv, takeLines_inv, State.acting_inv,
    inv_iff]

theorem scrubLine_canon (h : m.Canon) (t ln) : (scrubLine t m ln).Canon := by
  grind -ring -linarith -order [scrubLine, foldl_canon, sliceFetchSec_canon, checkLine_canon]

theorem execSliceScrub_inv (h : Claims.Inv s) (slice) : NextInv (execSliceScrub slice s) := by
  grind -ring -linarith -order [execSliceScrub, nextInv_next, scrubLine_canon, inv_iff, canon_iff, foldl_canon]

theorem execDataLost_inv (h : Claims.Inv s) (slice) : NextInv (execDataLost slice s) := by
  grind -ring -linarith -order [execDataLost, nextInv_next, foldl_inv, noteFault_inv, submitRec_inv, raiseEvent_inv, inv_iff, canon_iff]

/-! #### Machine/HostPort.lean -/

theorem peekRead_inv (h : Claims.Inv s) (i off size) : Claims.Inv (peekRead s i off size) := frame_inv h

theorem readReg_inv (h : Claims.Inv s) (f r w off size) : Claims.Inv (readReg s f r w off size) := by
  grind -ring -linarith -order [readReg, regClear_inv, State.setRst_inv, clearCovered_inv, answerData_inv, inv_iff]

theorem bar0Read_inv (h : Claims.Inv s) (f off size) : Claims.Inv (bar0Read s f off size) := by
  grind -ring -linarith -order [bar0Read, answerUr_inv, peekRead_inv, readReg_inv, answerData_inv]

theorem execCapturingRead_inv (h : Claims.Inv s) (f off size) : NextInv (execCapturingRead f off size s) :=
  nextInv_next.2 (inv_ite (bar0Read_inv h ..) h)

theorem execLiveBitsRead_inv (h : Claims.Inv s) (f off size) : NextInv (execLiveBitsRead f off size s) := by
  grind -ring -linarith -order [execLiveBitsRead, nextInv_next, bar0Read_inv]

theorem execObsPeekDataRead_inv (h : Claims.Inv s) (f port size half) : NextInv (execObsPeekDataRead f port size half s) :=
  nextInv_next.2 (inv_ite (bar0Read_inv h ..) h)

theorem vsecRead_inv (h : Claims.Inv s) (f off size) : Claims.Inv (vsecRead s f off size) := by
  grind -ring -linarith -order [vsecRead, answerData_inv]

theorem execBar0AccessUnsupported_inv (h : Claims.Inv s) (f off size req) : NextInv (execBar0AccessUnsupported f off size req s) := by
  grind -ring -linarith -order [execBar0AccessUnsupported, nextInv_next, vsecRead_inv, answerUr_inv, answerData_inv]

theorem execRegisterWrite_inv (h : Claims.Inv s) (f off size val) : NextInv (execRegisterWrite f off size val s) := by
  grind -ring -linarith -order [execRegisterWrite, nextInv_next, regWrite_inv, answerUr_inv]

theorem bar4_inv (h : Claims.Inv s) (f off n posted op) : Claims.Inv (bar4 s f off n posted op) := by
  grind -ring -linarith -order [bar4, answerUr_inv, pumpBar4_inv, inv_iff]

theorem execBar4Read_inv (h : Claims.Inv s) (f off len) : NextInv (execBar4Read f off len s) := nextInv_next.2 (bar4_inv h ..)

theorem execBar4Write_inv (h : Claims.Inv s) (f off data) : NextInv (execBar4Write f off data s) := nextInv_next.2 (bar4_inv h ..)

theorem execBar4Atomicop_inv (h : Claims.Inv s) (f off op size a b) : NextInv (execBar4Atomicop f off op size a b s) := by
  grind -ring -linarith -order [execBar4Atomicop, nextInv_next, answerUr_inv, bar4_inv]

theorem execPoisonedWriteTlp_inv (h : Claims.Inv s) (f bar) : NextInv (execPoisonedWriteTlp f bar s) := by
  grind -ring -linarith -order [execPoisonedWriteTlp, nextInv_next, answerUr_inv, inv_iff]

/-! #### Machine/Illegal.lean -/

theorem execIllegalInstruction_inv (h : Claims.Inv s) (g w ext) : NextInv (execIllegalInstruction g w ext s) := by
  unfold execIllegalInstruction
  split
  · exact nextInv_next.2 h
  · exact nextInv_next.2 (coreStep_inv h _ _ fun _ _ _ _ ht => ht)

/-! #### Machine/Scalar.lean -/

theorem execScalarArithmetic_inv (h : Claims.Inv s) (g op) : NextInv (execScalarArithmetic g op s) :=
  nextInv_next.2 (coreStep_inv h _ _ fun t gr b l h => by
    grind -ring -linarith -order [EffInv, State.setGroup_inv])

theorem execSread_inv (h : Claims.Inv s) (g sd srn) : NextInv (execSread g sd srn s) :=
  nextInv_next.2 (coreStep_inv h _ _ fun t gr b l h => by
    grind -ring -linarith -order [EffInv, State.setGroup_inv])

theorem execSwrite_inv (h : Claims.Inv s) (g sa srn) : NextInv (execSwrite g sa srn s) :=
  nextInv_next.2 (coreStep_inv h _ _ fun t gr b l h => by
    grind -ring -linarith -order [EffInv, State.setGroup_inv])

/-! #### Machine/Stack.lean -/

theorem State.setMem_inv (h : Claims.Inv s) {m} (hm : m.Canon) : Claims.Inv (State.setMem s m) := by
  grind -ring -linarith -order [State.setMem, inv_iff]

theorem chanTake_inv (h : Claims.Inv s) (addr) : Claims.Inv (chanTake s addr) := State.chanPop_inv h ..

theorem execDramSectorRead_inv (h : Claims.Inv s) (addr) : NextInv (execDramSectorRead addr s) := by
  grind -ring -linarith -order [execDramSectorRead, nextInv_next, chanTake_inv, dramRead_canon, State.setMem_inv, inv_iff]

theorem execDramSectorWrite_inv (h : Claims.Inv s) (addr data poison) : NextInv (execDramSectorWrite addr data poison s) := by
  grind -ring -linarith -order [execDramSectorWrite, nextInv_next, chanTake_inv, dramWrite_canon, State.setMem_inv, inv_iff]

theorem execCorrectedWriteback_inv (h : Claims.Inv s) (chan) : NextInv (execCorrectedWriteback chan s) := by
  grind -ring -linarith -order [execCorrectedWriteback, nextInv_next, dramWrite_canon, State.setMem_inv, inv_iff, canon_iff]

theorem scrubSectors_canon (t chan fuel todo) (h : m.Canon) (n) : (scrubSectors t chan fuel todo m n).1.Canon := by
  induction fuel generalizing m todo n with
  | zero => exact h
  | succ fuel ih => grind -ring -linarith -order [scrubSectors, dramRead_canon]

theorem execChannelScrub_inv (h : Claims.Inv s) (chan) : NextInv (execChannelScrub chan s) := by
  grind -ring -linarith -order [execChannelScrub, nextInv_next, scrubSectors_canon, State.setMem_inv, inv_iff, canon_iff]

theorem execPerBankRefresh_inv (h : Claims.Inv s) (chan bank) : NextInv (execPerBankRefresh chan bank s) := nextInv_next.2 (frame_inv h)

/-! #### Machine/Vec.lean -/

theorem execVectorIntegerArithmetic_inv (h : Claims.Inv s) (g op vd va b pg) : NextInv (execVectorIntegerArithmetic g op vd va b pg s) :=
  nextInv_next.2 (coreStep_inv h _ _ fun t gr b l h => by
    grind -ring -linarith -order [EffInv, laneWrite_inv])

theorem execSel_inv (h : Claims.Inv s) (g vd va b ps) : NextInv (execSel g vd va b ps s) :=
  nextInv_next.2 (coreStep_inv h _ _ fun t gr b l h => by
    grind -ring -linarith -order [EffInv, laneWrite_inv])

theorem execShfl_inv (h : Claims.Inv s) (g vd va b pg) : NextInv (execShfl g vd va b pg s) :=
  nextInv_next.2 (coreStep_inv h _ _ fun t gr b l h => by
    grind -ring -linarith -order [EffInv, laneWrite_inv])

theorem execVectorCompare_inv (h : Claims.Inv s) (g k cc pd va b pg) : NextInv (execVectorCompare g k cc pd va b pg s) :=
  nextInv_next.2 (coreStep_inv h _ _ fun t gr b l h => by
    grind -ring -linarith -order [EffInv, State.setGroup_inv])

theorem execFloatingPointMember_inv (h : Claims.Inv s) (g f op vd va b pg) : NextInv (execFloatingPointMember g f op vd va b pg s) :=
  nextInv_next.2 (coreStep_inv h _ _ fun t gr b l h => by
    grind -ring -linarith -order [EffInv, laneWrite_inv])

theorem execRcpRsqExp2Log2_inv (h : Claims.Inv s) (g op vd va pg) : NextInv (execRcpRsqExp2Log2 g op vd va pg s) :=
  nextInv_next.2 (coreStep_inv h _ _ fun t gr b l h => by
    grind -ring -linarith -order [EffInv, laneWrite_inv])

theorem execVcvt_inv (h : Claims.Inv s) (g vd va pg ext) : NextInv (execVcvt g vd va pg ext s) :=
  nextInv_next.2 (coreStep_inv h _ _ fun t gr b l h => by
    grind -ring -linarith -order [EffInv, laneWrite_inv])

theorem execVbcast_inv (h : Claims.Inv s) (g vd sb pg) : NextInv (execVbcast g vd sb pg s) :=
  nextInv_next.2 (coreStep_inv h _ _ fun t gr b l h => by
    grind -ring -linarith -order [EffInv, laneWrite_inv])

theorem execVlane_inv (h : Claims.Inv s) (g vd pg) : NextInv (execVlane g vd pg s) :=
  nextInv_next.2 (coreStep_inv h _ _ fun t gr b l h => by
    grind -ring -linarith -order [EffInv, laneWrite_inv])

theorem execVmovi_inv (h : Claims.Inv s) (g vd imm pg) : NextInv (execVmovi g vd imm pg s) :=
  nextInv_next.2 (coreStep_inv h _ _ fun t gr b l h => by
    grind -ring -linarith -order [EffInv, laneWrite_inv])

theorem execPredicateOperation_inv (h : Claims.Inv s) (g op pd pa pb) : NextInv (execPredicateOperation g op pd pa pb s) :=
  nextInv_next.2 (coreStep_inv h _ _ fun t gr b l h => by
    grind -ring -linarith -order [EffInv, State.setGroup_inv])

theorem execPset_inv (h : Claims.Inv s) (g pd sa) : NextInv (execPset g pd sa s) :=
  nextInv_next.2 (coreStep_inv h _ _ fun t gr b l h => by
    grind -ring -linarith -order [EffInv, State.setGroup_inv])

theorem execPget_inv (h : Claims.Inv s) (g sd pa) : NextInv (execPget g sd pa s) :=
  nextInv_next.2 (coreStep_inv h _ _ fun t gr b l h => by
    grind -ring -linarith -order [EffInv, State.setGroup_inv])

theorem execVtos_inv (h : Claims.Inv s) (g sd va k) : NextInv (execVtos g sd va k s) :=
  nextInv_next.2 (coreStep_inv h _ _ fun t gr b l h => by
    grind -ring -linarith -order [EffInv, State.setGroup_inv])

/-! #### Machine/Stage.lean -/

theorem endOpens_inv (h : Claims.Inv s) : Claims.Inv (endOpens s) := by
  grind -ring -linarith -order [endOpens, inv_iff]

theorem endFlrs_inv (h : Claims.Inv s) : Claims.Inv (endFlrs s) := by
  grind -ring -linarith -order [endFlrs, foldl_inv, flrEnd_inv]

theorem nextLinks_inv (h : Claims.Inv s) : Claims.Inv (nextLinks s) := by
  grind -ring -linarith -order [nextLinks, foldl_inv, nextLink_inv]

theorem nextNbus_inv (h : Claims.Inv s) : Claims.Inv (nextNbus s) := by
  grind -ring -linarith -order [nextNbus, nbNext_canon, inv_iff, canon_iff, foldl_canon]

theorem nextStages_inv (h : Claims.Inv s) : Claims.Inv (nextStages s) := by
  grind -ring -linarith -order [nextStages, pllStep_inv, endRaw_inv, nextLinks_inv, endFailover_inv, endFlrs_inv, nextNbus_inv,
    endOpens_inv]

/-! #### Machine/Idle.lean -/

theorem idleTick_inv (h : Claims.Inv s) : Claims.Inv (idleTick s) := by
  unfold idleTick
  refine nextStages_inv ?_
  grind -ring -linarith -order [masterTick, inv_iff]

/-! #### The step -/

/-- Each command keeps the invariant, by the lemma on its row. -/
theorem exec_inv (i : Instr) (h : Claims.Inv s) : NextInv (exec i s) := by
  unfold exec
  cases i with
  | vectorIntegerArithmetic => exact execVectorIntegerArithmetic_inv h ..
  | sel => exact execSel_inv h ..
  | shfl => exact execShfl_inv h ..
  | vectorCompare => exact execVectorCompare_inv h ..
  | floatingPointMember => exact execFloatingPointMember_inv h ..
  | rcpRsqExp2Log2 => exact execRcpRsqExp2Log2_inv h ..
  | vcvt => exact execVcvt_inv h ..
  | vbcast => exact execVbcast_inv h ..
  | vlane => exact execVlane_inv h ..
  | vmovi => exact execVmovi_inv h ..
  | predicateOperation => exact execPredicateOperation_inv h ..
  | pset => exact execPset_inv h ..
  | pget => exact execPget_inv h ..
  | vtos => exact execVtos_inv h ..
  | nop => exact execNop_inv h ..
  | jmp => exact execJmp_inv h ..
  | br => exact execBr_inv h ..
  | brd => exact execBrd_inv h ..
  | call => exact execCall_inv h ..
  | callr => exact execCallr_inv h ..
  | ret => exact execRet_inv h ..
  | exit => exact execExit_inv h ..
  | bar => exact execBar_inv h ..
  | fence => exact execFence_inv h ..
  | ldg => exact execLdg_inv h ..
  | stg => exact execStg_inv h ..
  | lds => exact execLds_inv h ..
  | sts => exact execSts_inv h ..
  | ldr => exact execLdr_inv h ..
  | stc => exact execStc_inv h ..
  | atom => exact execAtom_inv h ..
  | scalarArithmetic => exact execScalarArithmetic_inv h ..
  | sldg => exact execSldg_inv h ..
  | sstg => exact execSstg_inv h ..
  | slds => exact execSlds_inv h ..
  | ssts => exact execSsts_inv h ..
  | sread => exact execSread_inv h ..
  | swrite => exact execSwrite_inv h ..
  | mxaInit => exact execMxaInit_inv h ..
  | mxaMma => exact execMxaMma_inv h ..
  | mxaStore => exact execMxaStore_inv h ..
  | mxaWait => exact execMxaWait_inv h ..
  | tdCreate => exact execTdCreate_inv h ..
  | tdLoad => exact execTdLoad_inv h ..
  | tdStore => exact execTdStore_inv h ..
  | tdFree => exact execTdFree_inv h ..
  | tdWait => exact execTdWait_inv h ..
  | cbLoad => exact execCbLoad_inv h ..
  | redPut => exact execRedPut_inv h ..
  | redAcc => exact execRedAcc_inv h ..
  | redWait => exact execRedWait_inv h ..
  | blockAdmission => exact execBlockAdmission_inv h ..
  | scratchZeroingEnd => exact execScratchZeroingEnd_inv h ..
  | blockRelease => exact execBlockRelease_inv h ..
  | contextCompletion => exact execContextCompletion_inv h ..
  | faultEvent => exact execFaultEvent_inv h ..
  | arrayTakeInstruction => exact execArrayTakeInstruction_inv h ..
  | chainBecomesCurrent => exact execChainBecomesCurrent_inv h ..
  | multiplyPass => exact execMultiplyPass_inv h ..
  | deferredScan => exact execDeferredScan_inv h ..
  | drainMove => exact execDrainMove_inv h ..
  | chainCheck => exact execChainCheck_inv h ..
  | storePath => exact execStorePath_inv h ..
  | chainComplete => exact execChainComplete_inv h ..
  | fabricArrival => exact execFabricArrival_inv h ..
  | rootAdd => exact execRootAdd_inv h ..
  | rootOperationComplete => exact execRootOperationComplete_inv h ..
  | fixedLineSlot => exact execFixedLineSlot_inv h ..
  | scheduleStart => exact execScheduleStart_inv h ..
  | arbitratedFlitArrival => exact execArbitratedFlitArrival_inv h ..
  | packetAged => exact execPacketAged_inv h ..
  | spineFrameStart => exact execSpineFrameStart_inv h
  | sliceAdmission => exact execSliceAdmission_inv h ..
  | rd => exact execRd_inv h ..
  | own => exact execOwn_inv h ..
  | evc => exact execEvc_inv h ..
  | wb => exact execWb_inv h ..
  | inv => exact execInv_inv h ..
  | rcl => exact execRcl_inv h ..
  | rcli => exact execRcli_inv h ..
  | invalidationAcknowledgement => exact execInvalidationAcknowledgement_inv h ..
  | sliceAtomic => exact execSliceAtomic_inv h ..
  | uncachedRead => exact execUncachedRead_inv h ..
  | uncachedWrite => exact execUncachedWrite_inv h ..
  | sliceScrub => exact execSliceScrub_inv h ..
  | dataLost => exact execDataLost_inv h ..
  | dramSectorRead => exact execDramSectorRead_inv h ..
  | dramSectorWrite => exact execDramSectorWrite_inv h ..
  | correctedWriteback => exact execCorrectedWriteback_inv h ..
  | channelScrub => exact execChannelScrub_inv h ..
  | temperatureReadout => exact execTemperatureReadout_inv h ..
  | perBankRefresh => exact execPerBankRefresh_inv h ..
  | nbuModeEnter => exact execNbuModeEnter_inv h ..
  | nbuModeExit => exact execNbuModeExit_inv h ..
  | nbuDoorbell => exact execNbuDoorbell_inv h ..
  | nbuNop => exact execNbuNop_inv h ..
  | gather => exact execGather_inv h ..
  | gatherSum => exact execGatherSum_inv h ..
  | scatterAdd => exact execScatterAdd_inv h ..
  | select => exact execSelect_inv h ..
  | topk => exact execTopk_inv h ..
  | ewise => exact execEwise_inv h ..
  | nbuFill => exact execNbuFill_inv h ..
  | nearBankCommandComplete => exact execNearBankCommandComplete_inv h ..
  | bar0AccessUnsupported => exact execBar0AccessUnsupported_inv h ..
  | registerWrite => exact execRegisterWrite_inv h ..
  | capturingRead => exact execCapturingRead_inv h ..
  | obsPeekDataRead => exact execObsPeekDataRead_inv h ..
  | bar4Read => exact execBar4Read_inv h ..
  | bar4Write => exact execBar4Write_inv h ..
  | bar4Atomicop => exact execBar4Atomicop_inv h ..
  | poisonedWriteTlp => exact execPoisonedWriteTlp_inv h ..
  | functionLevelReset => exact execFunctionLevelReset_inv h ..
  | hotReset => exact execHotReset_inv h
  | hostWindowCompletion => exact execHostWindowCompletion_inv h ..
  | completionTimeout => exact execCompletionTimeout_inv h ..
  | queueOpen => exact execQueueOpen_inv h ..
  | queueClose => exact execQueueClose_inv h ..
  | sqTail => exact execSqTail_inv h ..
  | cqHead => exact execCqHead_inv h ..
  | commandFetch => exact execCommandFetch_inv h ..
  | statusReply => exact execStatusReply_inv h ..
  | nopCommand => exact execNopCommand_inv h ..
  | query => exact execQuery_inv h ..
  | timeSyncRead => exact execTimeSyncRead_inv h ..
  | timeSyncStep => exact execTimeSyncStep_inv h ..
  | timeSyncSlew => exact execTimeSyncSlew_inv h ..
  | launch => exact execLaunch_inv h ..
  | codeWrite => exact execCodeWrite_inv h ..
  | copy => exact execCopy_inv h ..
  | fill => exact execFill_inv h ..
  | anchor => exact execAnchor_inv h ..
  | unanchor => exact execUnanchor_inv h ..
  | freeze => exact execFreeze_inv h ..
  | freezeDeadline => exact execFreezeDeadline_inv h ..
  | partReset => exact execPartReset_inv h ..
  | schedLoad => exact execSchedLoad_inv h ..
  | schedStart => exact execSchedStart_inv h ..
  | schedStop => exact execSchedStop_inv h ..
  | partCreate => exact execPartCreate_inv h ..
  | partDestroy => exact execPartDestroy_inv h ..
  | partShares => exact execPartShares_inv h ..
  | allocSet => exact execAllocSet_inv h ..
  | regionSet => exact execRegionSet_inv h ..
  | rawSet => exact execRawSet_inv h ..
  | anchorWaysSet => exact execAnchorWaysSet_inv h ..
  | remap => exact execRemap_inv h ..
  | scrubSet => exact execScrubSet_inv h ..
  | stackMargin => exact execStackMargin_inv h ..
  | clockSet => exact execClockSet_inv h ..
  | powerSet => exact execPowerSet_inv h ..
  | linkConfig => exact execLinkConfig_inv h ..
  | linkTrain => exact execLinkTrain_inv h ..
  | linkDown => exact execLinkDown_inv h ..
  | linkSweep => exact execLinkSweep_inv h ..
  | keySet => exact execKeySet_inv h ..
  | collective => exact execCollective_inv h ..
  | collectiveComplete => exact execCollectiveComplete_inv h ..
  | ropeForm => exact execRopeForm_inv h ..
  | ropeMirror => exact execRopeMirror_inv h ..
  | ropeFailover => exact execRopeFailover_inv h ..
  | ropeDissolve => exact execRopeDissolve_inv h ..
  | obsConfig => exact execObsConfig_inv h ..
  | clpRead => exact execClpRead_inv h ..
  | data => exact execData_inv h ..
  | start => exact execStart_inv h ..
  | ack => exact execAck_inv h ..
  | cnp => exact execCnp_inv h ..
  | hello => exact execHello_inv h ..
  | echo => exact execEcho_inv h ..
  | ackTimer => exact execAckTimer_inv h ..
  | retransmissionTimeout => exact execRetransmissionTimeout_inv h ..
  | rateIncrease => exact execRateIncrease_inv h ..
  | helloTimer => exact execHelloTimer_inv h ..
  | echoTimer => exact execEchoTimer_inv h ..
  | berEstimate => exact execBerEstimate_inv h ..
  | lossOfPhyLock => exact execLossOfPhyLock_inv h ..
  | form => exact execForm_inv h ..
  | page => exact execPage_inv h ..
  | journal => exact execJournal_inv h ..
  | state => exact execState_inv h ..
  | endRecord => exact execEndRecord_inv h ..
  | ropeAck => exact execRopeAck_inv h ..
  | beat => exact execBeat_inv h ..
  | dissolve => exact execDissolve_inv h ..
  | formTimer => exact execFormTimer_inv h
  | beatTimer => exact execBeatTimer_inv h ..
  | cut => exact execCut_inv h
  | epochApply => exact execEpochApply_inv h
  | ackOverdue => exact execAckOverdue_inv h
  | ropeResend => exact execRopeResend_inv h ..
  | slewComplete => exact execSlewComplete_inv h ..
  | voltageCommand => exact execVoltageCommand_inv h ..
  | fastStep => exact execFastStep_inv h ..
  | timeBaseCorrection => exact execTimeBaseCorrection_inv h
  | crossingTimeout => exact execCrossingTimeout_inv h ..
  | shortDetected => exact execShortDetected_inv h ..
  | retryWaitExpiry => exact execRetryWaitExpiry_inv h ..
  | inServiceShort => exact execInServiceShort_inv h ..
  | droopSample => exact execDroopSample_inv h ..
  | bondWindow => exact execBondWindow_inv h ..
  | telemetryPoll => exact execTelemetryPoll_inv h ..
  | pmbAlertN => exact execPmbAlertN_inv h ..
  | railLoss => exact execRailLoss_inv h ..
  | powerMeasurement => exact execPowerMeasurement_inv h ..
  | sustainedUpdate => exact execSustainedUpdate_inv h ..
  | holdLevelStep => exact execHoldLevelStep_inv h ..
  | fastLimiterStep => exact execFastLimiterStep_inv h
  | powerCeilingLower => exact execPowerCeilingLower_inv h
  | powerCeilingRaise => exact execPowerCeilingRaise_inv h
  | regAlertN => exact execRegAlertN_inv h ..
  | regAlertRelease => exact execRegAlertRelease_inv h
  | thermalSample => exact execThermalSample_inv h ..
  | thermalCeilingLower => exact execThermalCeilingLower_inv h
  | thermalCeilingRaise => exact execThermalCeilingRaise_inv h
  | tripDiodeSample => exact execTripDiodeSample_inv h ..
  | tripRestart => exact execTripRestart_inv h
  | powerOn => exact execPowerOn_inv h
  | rstN => exact execRstN_inv h ..
  | coldStart => exact execColdStart_inv h
  | coldStartStepComplete => exact execColdStartStepComplete_inv h ..
  | stepDeadline => exact execStepDeadline_inv h
  | failedStartRetry => exact execFailedStartRetry_inv h
  | exitBaseCamp => exact execExitBaseCamp_inv h
  | baseCampExit => exact execBaseCampExit_inv h
  | pldmFirmwareUpdate => exact execPldmFirmwareUpdate_inv h ..
  | activateFirmware => exact execActivateFirmware_inv h ..
  | mgtAliveTimeout => exact execMgtAliveTimeout_inv h
  | pwrFailN => exact execPwrFailN_inv h ..
  | powerFailRestart => exact execPowerFailRestart_inv h
  | refclkLoss => exact execRefclkLoss_inv h ..
  | colophonCommit => exact execColophonCommit_inv h
  | colophonEraseDone => exact execColophonEraseDone_inv h
  | counterAggregation => exact execCounterAggregation_inv h
  | traceRecord => exact execTraceRecord_inv h
  | tapInstruction => exact execTapInstruction_inv h ..
  | illegalInstruction => exact execIllegalInstruction_inv h ..
  | liveBitsRead => exact execLiveBitsRead_inv h ..
  | vddAuxLoss => exact execVddAuxLoss_inv _

/-- A step runs the command in front on the rest of the queue, or ticks when the queue is empty. -/
theorem step_inv (h : Claims.Inv s) : NextInv (step s) := by
  unfold step
  split
  · exact nextInv_next.2 (idleTick_inv h)
  · exact exec_inv _ (frame_inv h)

/-- Settles O60, by `step_inv`. -/
theorem stepKeepsInvariant : Obligations.StepKeepsInvariant := fun _ _ h hs => (step_inv h).next _ hs

end Sys2Proof.Machine

end

section
/-! ### O35: register access

What each row of the host port does where the port serves the function's BARs, from one equation for each way `readReg` can go. -/

namespace Sys2Proof.Machine
variable {s : State} {f off size w : Nat} {r : Reg}

/-! #### The port in service -/

theorem portMode_of_serving (h : Claims.serving s f) : portMode s f = .up := by
  obtain ⟨haux, hup, hoff⟩ := h
  simp [portMode, haux, hup, hoff]

theorem wordBytes_eq (x : BitVec 64) (off size : Nat) : wordBytes x off size = leBytes (x.toNat / 2 ^ (8 * (off % 8))) size := by
  rw [wordBytes, Nat.shiftRight_eq_div_pow]

theorem wordBytes_aligned (x : BitVec 64) (size : Nat) (h : off % 8 = 0) : wordBytes x off size = leBytes x.toNat size := by
  rw [wordBytes, h, Nat.mul_zero, Nat.shiftRight_zero]

/-- Outside DATA of a peek port a BAR0 read of a register that the function sees reads the register. -/
theorem bar0Read_eq_readReg (h : Claims.bar0 s f off size r w) (hpeek : ∀ i, r = .peek i → w ≠ 1) :
    bar0Read s f off size = readReg s f r w off size := by
  obtain ⟨hserv, -, -, hat, hseen, -⟩ := h
  simp only [bar0Read, portMode_of_serving hserv, hat, hseen]
  exact if_neg (by simp)

theorem exec_capturingRead (h : Claims.bar0 s f off size r w) :
    exec (.capturingRead f off size) s = .next (bar0Read s f off size) := by
  obtain ⟨-, hf, hok, -⟩ := h
  simp [exec, execCapturingRead, validFn, hf, hok]

theorem exec_liveBitsRead (hf : f ≤ 64) (hok : bar0Ok off size = true) :
    exec (.liveBitsRead f off size) s = .next (bar0Read s f off size) := by
  simp [exec, execLiveBitsRead, validFn, hf, hok]

/-! #### RC fields -/

/-- What clearing RC fields leaves alone. -/
theorem regClear_frame (s : State) (r : Reg) (z : Nat → Bool) :
    (regClear s r z).out = s.out ∧ (regClear s r z).host.captures = s.host.captures ∧ (regClear s r z).mem.dram = s.mem.dram ∧
      (regClear s r z).mem.lines = s.mem.lines ∧ (regClear s r z).parts = s.parts ∧ (regClear s r z).queues = s.queues := by
  cases r <;> exact ⟨rfl, rfl, rfl, rfl, rfl, rfl⟩

theorem regClear_false (s : State) (h : rcFields r = []) : regClear s r (fun _ => false) = s := by
  cases r with
  | hostErr | slcErr | mstErr | fabErr | ropeCnt | lnkErr | redErr | hangLog | vmin | rail | belay | clpStatus => cases h
  | _ => rfl

theorem clearCovered_eq_self (s : State) (w b n : Nat) (h : rcFields r = []) : clearCovered s r w b n = s := by
  have hz := regClear_false s h
  simpa [clearCovered, h] using hz

/-! #### The ways a register read goes -/

theorem retainedFails_eq_false (s : State) (off size : Nat) (h : ∀ k, r ≠ .retained k) : retainedFails s r off size = false := by
  cases r with
  | retained k => exact absurd rfl (h k)
  | _ => rfl

/-- The state with a register's words captured for function f. -/
def captureReg (s : State) (f : Nat) (r : Reg) : State := { s with
  freeCtr := s.freeCtr + 1
  host := { s.host with captures := NMap.set none s.host.captures f (some ⟨r.key, regWords s r⟩) } }

theorem captureReg_captures (s : State) (f : Nat) (r : Reg) :
    NMap.get none (captureReg s f r).host.captures f = some ⟨r.key, regWords s r⟩ := by
  simp [captureReg]

/-- A read of the low word of a wide register captures it and clears its RC fields. -/
theorem readReg_capture (hrun : regStopped s r = false) (hret : ∀ k, r ≠ .retained k) (hwide : 1 < (regWords s r).length)
    (hoff : off % 8 = 0) :
    readReg s f r 0 off size =
      answerData (regClear (captureReg s f r) r fun _ => true) f (wordBytes ((regWords s r).getD 0 0) off size) := by
  simp [captureReg, readReg, hrun, retainedFails_eq_false _ _ _ hret, hwide, hoff]

/-- A read of a further word of a register that was captured takes the capture. -/
theorem readReg_captured {x : BitVec 64} (hrun : regStopped s r = false) (hret : ∀ k, r ≠ .retained k)
    (hwide : 1 < (regWords s r).length) (hw : 0 < w) (hx : captured s f r w = some x) :
    readReg s f r w off size = answerData s f (wordBytes x off size) := by
  simp [readReg, hrun, retainedFails_eq_false _ _ _ hret, hwide, Nat.ne_of_gt hw, hx]

/-- A read of a register of one word without RC fields is live. -/
theorem readReg_live (hrun : regStopped s r = false) (hret : ∀ k, r ≠ .retained k) (hone : (regWords s r).length = 1)
    (hrc : rcFields r = []) :
    readReg s f r 0 off size =
      answerData { s with freeCtr := s.freeCtr + 1 } f (wordBytes ((regWords s r).getD 0 0) off size) := by
  simp [readReg, hrun, retainedFails_eq_false _ _ _ hret, hone, clearCovered_eq_self _ _ _ _ hrc]

theorem captured_of_captures {c : Capture} (h : NMap.get none s.host.captures f = some c) (hkey : c.off = r.key) :
    captured s f r w = some (c.words.getD w 0) := by
  simp [captured, h, hkey]

/-- A capturing read answers with the low word, keeps the others and changes the RC fields at most. -/
theorem exec_capturingRead_wide (h : Claims.bar0 s f off size r 0) (hoff : off % 8 = 0) (hwide : 1 < (regWords s r).length)
    (hret : ∀ k, r ≠ .retained k) :
    ∃ t, exec (.capturingRead f off size) s = .next t ∧
      t.out = s.out ++ [.completion f (.data (leBytes ((regWords s r).getD 0 0).toNat size))] ∧
      (∀ w, captured t f r w = some ((regWords s r).getD w 0)) ∧
      t.mem.dram = s.mem.dram ∧ t.mem.lines = s.mem.lines ∧ t.parts = s.parts ∧ t.queues = s.queues := by
  have hrun : regStopped s r = false := h.2.2.2.2.2
  obtain ⟨hout, hcap, hdram, hlines, hparts, hqueues⟩ := regClear_frame (captureReg s f r) r fun _ => true
  refine ⟨answerData (regClear (captureReg s f r) r fun _ => true) f (wordBytes ((regWords s r).getD 0 0) off size),
    ?_, ?_, fun w => ?_, hdram, hlines, hparts, hqueues⟩
  · rw [exec_capturingRead h, bar0Read_eq_readReg h (by simp), readReg_capture hrun hret hwide hoff]
  · rw [wordBytes_aligned _ _ hoff]
    exact congrArg (· ++ _) hout
  · exact captured_of_captures (hcap ▸ captureReg_captures s f r) rfl

/-- A later word of a captured register is read as captured. -/
theorem exec_liveBitsRead_captured {x : BitVec 64} (h : Claims.bar0 s f off size r w) (hw : 0 < w)
    (hwide : 1 < (regWords s r).length) (hx : captured s f r w = some x) (hpeek : ∀ i, r ≠ .peek i) (hret : ∀ k, r ≠ .retained k) :
    exec (.liveBitsRead f off size) s =
      .next { s with out := s.out ++ [.completion f (.data (leBytes (x.toNat / 2 ^ (8 * (off % 8))) size))] } := by
  have hread := bar0Read_eq_readReg h fun i hi => absurd hi (hpeek i)
  obtain ⟨-, hf, hok, -, -, hrun⟩ := h
  rw [exec_liveBitsRead hf hok, hread, readReg_captured hrun hret hwide hw hx, wordBytes_eq]
  rfl

/-- A register of one word without RC fields is read as it stands. -/
theorem exec_liveBitsRead_live (h : Claims.bar0 s f off size r 0) (hone : (regWords s r).length = 1) (hrc : rcFields r = [])
    (hret : ∀ k, r ≠ .retained k) :
    exec (.liveBitsRead f off size) s = .next { s with
      freeCtr := s.freeCtr + 1
      out := s.out ++ [.completion f (.data (leBytes (((regWords s r).getD 0 0).toNat / 2 ^ (8 * (off % 8))) size))] } := by
  have hread := bar0Read_eq_readReg h (by simp)
  obtain ⟨-, hf, hok, -, -, hrun⟩ := h
  rw [exec_liveBitsRead hf hok, hread, readReg_live hrun hret hone hrc, wordBytes_eq]
  rfl

/-! #### Where the registers stand -/

/-- Below the windows of routers and clusters the map is the same in every state. -/
theorem regAt_eq_rowsAt (s : State) (h : off < 0x108000) : regAt s off = rowsAt regRows off := by
  rw [regAt, if_neg (by omega), if_neg (by omega)]

theorem regAt_peekData {port : Nat} (s : State) (h : port < 4) : regAt s (0xC0208 + 16 * port) = some (.peek port, 1) := by
  rw [regAt_eq_rowsAt s (by omega)]
  have hall : ∀ p : Fin 4, rowsAt regRows (0xC0208 + 16 * p) = some (.peek p, 1) := by decide +kernel
  exact hall ⟨port, h⟩

theorem regAt_backup {n : Nat} (s : State) (h : n < 16) : regAt s (0x40100 + 8 * n) = some (.backup n, 0) := by
  rw [regAt_eq_rowsAt s (by omega)]
  have hall : ∀ k : Fin 16, rowsAt regRows (0x40100 + 8 * k) = some (.backup k, 0) := by decide +kernel
  exact hall ⟨n, h⟩

theorem regAt_event (s : State) : regAt s 0x20208 = some (.event, 1) := by
  rw [regAt_eq_rowsAt s (by omega)]
  decide +kernel

theorem bar0Ok_eight (h : off % 8 = 0) (hoff : off + 8 ≤ bar0Size) : bar0Ok off 8 = true := by
  simp [bar0Ok, h, hoff]

/-! #### Peeks and writes -/

theorem exec_obsPeekDataRead {port : Nat} (h : Claims.serving s 0) (hport : port < 4) :
    exec (.obsPeekDataRead 0 port 8 0) s = .next { s with
      freeCtr := s.freeCtr + 1
      out := s.out ++ [.completion 0 (.data (leBytes (peekWord s (NMap.get 0 s.mem.obs.peek port).toNat).toNat 8))] } := by
  have hok : bar0Ok (0xC0208 + 16 * port) 8 = true := bar0Ok_eight (by omega) (by rw [bar0Size]; omega)
  have hread : bar0Read s 0 (0xC0208 + 16 * port) 8 = peekRead s port (0xC0208 + 16 * port) 8 := by
    simp [bar0Read, portMode_of_serving h, regAt_peekData s hport, regSeen]
  have hexec : exec (.obsPeekDataRead 0 port 8 0) s = .next (bar0Read s 0 (0xC0208 + 16 * port) 8) := by
    simp [exec, execObsPeekDataRead, validFn, hport, hok]
  rw [hexec, hread, peekRead, wordBytes_aligned _ _ (by omega : (0xC0208 + 16 * port) % 8 = 0)]
  rfl

/-- A write that reaches a register which the function may see, in a running domain. -/
theorem exec_registerWrite {v : BitVec 64} (h : Claims.bar0 s f off size r w) :
    exec (.registerWrite f off size v) s = .next (regWrite s r w (v <<< (8 * (off % 8))) (writeMask off size)) := by
  obtain ⟨hserv, hf, hok, hat, hseen, hrun⟩ := h
  simp [exec, execRegisterWrite, validFn, hf, hok, portMode_of_serving hserv, hat, hseen, hrun]

theorem writeMask_eight (h : off % 8 = 0) : writeMask off 8 = BitVec.allOnes 64 := by
  rw [writeMask, h]
  rfl

theorem wrMerge_allOnes (old v : BitVec 64) : wrMerge old v (BitVec.allOnes 64) = v := by
  rw [wrMerge, BitVec.not_allOnes, BitVec.and_zero, BitVec.zero_or, BitVec.and_allOnes]

/-- Eight aligned bytes written by the PF: the whole word. -/
theorem exec_registerWrite_word {v : BitVec 64} (h : Claims.serving s 0) (hoff : off % 8 = 0) (hlt : off + 8 ≤ bar0Size)
    (hat : regAt s off = some (r, w)) (hrun : regStopped s r = false) :
    exec (.registerWrite 0 off 8 v) s = .next (regWrite s r w v (BitVec.allOnes 64)) := by
  have hbar : Claims.bar0 s 0 off 8 r w := ⟨h, by omega, bar0Ok_eight hoff hlt, hat, by simp [regSeen], hrun⟩
  rw [exec_registerWrite hbar, writeMask_eight hoff, hoff, Nat.mul_zero, BitVec.shiftLeft_zero]

theorem exec_registerWrite_backup {n : Nat} {v : BitVec 64} (h : Claims.serving s 0) (hn : n < 16)
    (hrun : regStopped s (.backup n) = false) :
    exec (.registerWrite 0 (0x40100 + 8 * n) 8 v) s =
      .next { s with rst := { s.rst with backup := NMap.set 0 s.rst.backup n v } } := by
  rw [exec_registerWrite_word h (by omega) (by rw [bar0Size]; omega) (regAt_backup s hn) hrun]
  rw [regWrite, wrMerge_allOnes]
  rfl

theorem exec_registerWrite_event {v : BitVec 64} (h : Claims.serving s 0) (hrun : regStopped s .event = false) :
    exec (.registerWrite 0 0x20208 8 v) s = .next { s with evt := { s.evt with lostParts := s.evt.lostParts &&& ~~~v } } := by
  rw [exec_registerWrite_word h (by omega) (by rw [bar0Size]; omega) (regAt_event s) hrun]
  rw [regWrite, writeEvent, if_pos rfl, BitVec.and_allOnes]

/-! #### Accesses without effect, and refused ones -/

theorem regSeen_eq_false (hf : 1 ≤ f) (h : vfSees s f r = false) : regSeen s f r = false := by
  simp [regSeen, h, Nat.one_le_iff_ne_zero.1 hf]

theorem exec_registerWrite_unseen {v : BitVec 64} (h : Claims.serving s f) (hf : f ≤ 64) (hok : bar0Ok off size = true)
    (hat : regAt s off = some (r, w)) (hseen : regSeen s f r = false) : exec (.registerWrite f off size v) s = .next s := by
  simp [exec, execRegisterWrite, validFn, hf, hok, portMode_of_serving h, hat, hseen]

theorem exec_liveBitsRead_unseen (h : Claims.serving s f) (hf : f ≤ 64) (hok : bar0Ok off size = true)
    (hat : regAt s off = some (r, w)) (hseen : regSeen s f r = false) :
    exec (.liveBitsRead f off size) s = .next { s with out := s.out ++ [.completion f (.data (List.replicate size 0))] } := by
  rw [exec_liveBitsRead hf hok]
  simp [bar0Read, portMode_of_serving h, hat, hseen, answerData, State.send]

/-- An access as Unsupported Request: counted, and answered when it awaits an answer. -/
theorem answerUr_eq (s : State) (f : Nat) (posted : Bool) : answerUr s f posted = { s with
    host := { s.host with
      urSent := min 0xFFFF (s.host.urSent + 1), cfg := NMap.set {} s.host.cfg f { s.pcie f with aerUr := true } }
    out := s.out ++ (if posted then [] else [.completion f .ur]) } := by
  cases posted with
  | true => simp [answerUr, countUr, State.setPcie, State.pcie, satAdd]
  | false => simp [answerUr, countUr, State.setPcie, State.pcie, satAdd, State.send]

/-- Of BAR0 an AtomicOp, or an access of another size or alignment, is refused. -/
theorem exec_bar0AccessUnsupported_refused {kind : BarAccess} (h : Claims.serving s f) (hf : f ≤ 64) (hkind : kind ≠ .vsecRead)
    (hbad : kind = .atomic ∨ bar0Ok off size = false) :
    exec (.bar0AccessUnsupported f off size ⟨kind, 0⟩) s = .next (answerUr s f (kind = .write)) := by
  rcases hbad with rfl | hbad
  · simp [exec, execBar0AccessUnsupported, validFn, hf, portMode_of_serving h]
  · simp [exec, execBar0AccessUnsupported, validFn, hf, portMode_of_serving h, hkind, hbad]

theorem exec_bar2_atomic (h : Claims.serving s f) (hf : f ≤ 64) :
    exec (.bar0AccessUnsupported f off size ⟨.atomic, 2⟩) s = .next (answerUr s f false) := by
  simp [exec, execBar0AccessUnsupported, validFn, hf, portMode_of_serving h]

theorem exec_bar2_read (h : Claims.serving s f) (hf : f ≤ 64) :
    exec (.bar0AccessUnsupported f off size ⟨.read, 2⟩) s =
      .next { s with out := s.out ++ [.completion f (.data (List.replicate size 0))] } := by
  simp [exec, execBar0AccessUnsupported, validFn, hf, portMode_of_serving h, answerData, State.send]

theorem exec_bar2_write (h : Claims.serving s f) (hf : f ≤ 64) :
    exec (.bar0AccessUnsupported f off size ⟨.write, 2⟩) s = .next s := by
  simp [exec, execBar0AccessUnsupported, validFn, hf, portMode_of_serving h]

/-! #### The configuration capability -/

/-- Bytes beyond those taken do not matter. -/
theorem leBytes_mod (v n : Nat) : leBytes (v % 256 ^ n) n = leBytes v n := by
  induction n generalizing v with
  | zero => rfl
  | succ n ih =>
    have hlow : v % 256 ^ (n + 1) % 256 = v % 256 := Nat.mod_mod_of_dvd v ⟨256 ^ n, by rw [Nat.pow_succ']⟩
    have hhigh : v % 256 ^ (n + 1) / 256 = v / 256 % 256 ^ n := by rw [Nat.pow_succ', Nat.mod_mul_right_div_self]
    rw [leBytes, leBytes, hhigh, ih]
    congr 1
    exact BitVec.eq_of_toNat_eq (by simp [hlow])

/-- The last two words of the capability are the halves of RST_STATUS. -/
theorem vsecWords_getD {k : Nat} (s : State) (hk : k < 2) :
    (vsecWords s).getD (2 + k) 0 = (rstStatus s.rst).extractLsb' (32 * k) 32 := by
  match k, hk with
  | 0, _ => rfl
  | 1, _ => rfl

theorem exec_vsecRead {k bar : Nat} (h : Claims.serving s 0) (hk : k < 2) :
    exec (.bar0AccessUnsupported 0 (8 + 4 * k) 4 ⟨.vsecRead, bar⟩) s = .next { s with
      out := s.out ++ [.completion 0 (.data (leBytes ((rstStatus s.rst).toNat / 2 ^ (32 * k)) 4))] } := by
  have hread : vsecRead s 0 (8 + 4 * k) 4 = answerData s 0 (leBytes ((vsecWords s).getD ((8 + 4 * k) / 4) 0).toNat 4) := by
    have hin : ¬ 16 ≤ 8 + 4 * k := by omega
    have hal : (8 + 4 * k) % 4 = 0 := by omega
    exact if_neg (by simp only [portMode_of_serving h, hin, hal]; decide)
  have hexec : exec (.bar0AccessUnsupported 0 (8 + 4 * k) 4 ⟨.vsecRead, bar⟩) s = .next (vsecRead s 0 (8 + 4 * k) 4) := by
    simp [exec, execBar0AccessUnsupported]
  rw [hexec, hread, show (8 + 4 * k) / 4 = 2 + k by omega, vsecWords_getD s hk, BitVec.extractLsb'_toNat,
    Nat.shiftRight_eq_div_pow, show 2 ^ 32 = 256 ^ 4 by decide, leBytes_mod]
  rfl

/-- Settles O35, a clause from each lemma above. -/
theorem registerAccess : Obligations.RegisterAccess := by
  refine ⟨fun s f off size r h hoff hwide hret => exec_capturingRead_wide h hoff hwide hret,
    fun s f off size w r x h hw hwide hx hpeek hret => ⟨_, exec_liveBitsRead_captured h hw hwide hx hpeek hret, rfl⟩,
    fun s f off size r h hone hrc hret => exec_liveBitsRead_live h hone hrc hret,
    fun s port h hport => exec_obsPeekDataRead h hport,
    fun s n v h hn hrun => ⟨_, exec_registerWrite_backup h hn hrun, NMap.get_set_same .., fun k hk => NMap.get_set_other _ _ _ hk, rfl⟩,
    fun s v h hrun => exec_registerWrite_event h hrun,
    fun s f off size w r h hf hf' hok hat hsees => ?_, fun s f off size kind h hf => ?_,
    fun s k bar h hk => exec_vsecRead h hk⟩
  · have hseen := regSeen_eq_false hf hsees
    exact ⟨fun v => exec_registerWrite_unseen h hf' hok hat hseen, exec_liveBitsRead_unseen h hf' hok hat hseen⟩
  · intro refused
    have hur (posted : Bool) : answerUr s f posted = refused posted := answerUr_eq s f posted
    rw [← hur, ← hur]
    refine ⟨exec_bar0AccessUnsupported_refused h hf (by simp) (.inl rfl), fun hok hkind => ?_,
      exec_bar2_atomic h hf, exec_bar2_read h hf, exec_bar2_write h hf⟩
    rcases hkind with rfl | rfl
    · exact exec_bar0AccessUnsupported_refused h hf (by simp) (.inr hok)
    · exact exec_bar0AccessUnsupported_refused h hf (by simp) (.inr hok)

end Sys2Proof.Machine

end
